-- ==== Sys2Proof/Word.lean ====
section
/-! DEFINITION. The words of the KX-460 and their plainest arithmetic (00_scope R22, 04 R119, 05 R150). -/
namespace Sys2Proof

/-- A byte of memory (R22). -/
abbrev Byte := BitVec 8
/-- A 32-bit lane word, an instruction word or a code-section offset (R57, R81). -/
abbrev Word := BitVec 32
/-- A 64-bit scalar or system register (R60). -/
abbrev DWord := BitVec 64
/-- One vector register of one group: lane l is entry l of 32 (R63). -/
abbrev Line := List Word
/-- One bit per lane (R59, R84). -/
abbrev Lanes := BitVec 32

/-- `wrap(x, w)` of R150: x mod 2^w. -/
def wrapI (w : Nat) (x : Int) : BitVec w := BitVec.ofInt w x

/-- `clamp(x, lo, hi)` of R150. -/
def clampI (x lo hi : Int) : Int := if x < lo then lo else if hi < x then hi else x

/-- The lanes 0 to 31 in ascending order (R41). -/
def laneList : List Nat := List.range 32

/-- A line built lane by lane. -/
def mkLine (f : Nat → Word) : Line := laneList.map f

/-- Lane l of a line; a lane the line does not hold reads 0. -/
def Line.at (x : Line) (l : Nat) : Word := x.getD l 0

/-- The line of zeros. -/
def zeroLine : Line := List.replicate 32 0

/-- Entry i of a list changed by f; an index the list does not hold changes nothing. -/
def modAt {α : Type} (xs : List α) (i : Nat) (f : α → α) : List α :=
  xs.modify i f

end Sys2Proof
end

