-- ==== Sys2Proof/Config.lean ====
section
/-! DEFINITION. What the spec leaves to the part: free values (opaque, nothing can evaluate them) and the fixed
sizes of the KX-460. Each free value is named in a row of the assumption log. -/
namespace Sys2Proof.Config

/-- FREE VALUE (log 7). The result bits a part returns for an inexact FSPC function (`fn` of R102: 1 RSQ, 3 EXP2,
4 LOG2, 5 SIN, 6 COS, 7 TANH) of type `ty` on operand bits `x`; R170 bounds it. -/
opaque fspc : (fn ty x : Nat) → Nat

/-- FREE VALUE (log 8). Which of several lanes that store the same byte is the last (R264, R332), and in which
order the lanes of one atomic are applied (R270): a permutation key drawn per word. -/
opaque laneOrder : Nat → Nat

/-- FREE VALUE (log 9). Bytes of a new operand-buffer range before they are written (R212), and of a freed page of
a sequence store (R458). -/
opaque rawWord : Nat → BitVec 32

/-- FREE VALUE (log 13). The bytes of an SPDM response that the spec does not give (certificates, signatures,
nonces, exchange keys): by request number and a draw. -/
opaque spdmBytes : (req draw : Nat) → BitVec 1024

/-- FREE VALUE (log 15). What another agent returns for a read of its memory: a peer device's word (R436, R355). -/
opaque peerWord : (dev draw : Nat) → BitVec 8

/-- FREE VALUE (log 15). Whether a peer device answers a request with poison (16 R436): its contexts, page tables and driver decide (log 15). -/
opaque peerRefuses : (dev draw : Nat) → Bool

/-- FREE VALUE (log 29). The device's number in its scale-up domain, which firmware has from the fabric manager (19 R494). -/
opaque deviceNumber : BitVec 8

/-- FREE VALUE (log 25). Words of the code section that the run-time loaded at a virtual base under an ASID (R81, R89, R404: a
launch packet names the base alone). -/
opaque kernelWords : (asid kcode : Nat) → Nat

/-- FREE VALUE (log 25). Restart table of that kernel, as byte offsets in its code section (R38, R232). -/
opaque restartTable : (asid kcode : Nat) → List (BitVec 32)

/-- FREE VALUE (log 88). What a DRAM sensor reads at a sample (R501), in sixteenths of a degree. -/
opaque temperature : Nat → BitVec 12

/-- FREE VALUE (log 78). How many ticks a refresh of a DRAM channel takes (R502). -/
opaque refreshTicks : Nat → Nat

/-- FREE VALUE (log 11). Words of the parts of a team's image whose layout the spec does not give (R441). -/
opaque imageWord : Nat → BitVec 32

/-- FREE VALUE (log 93). Words of the configuration space of a polder's function, by their offset (R477). -/
opaque configWord : (function offset : Nat) → BitVec 32

/-- FREE VALUE (log 81). Whether the recovery service has a launch resume the teams of the saved images it finds (R406). -/
opaque resumesSaved : Nat → Bool

/-- Enabled cores of the device (R1). -/
def numCores : Nat := 256
/-- Tiles of one quarter's spiral (R300). -/
def spiralTiles : Nat := 24576
/-- Slots of one quarter's pin bay (R307). -/
def baySlots : Nat := 1024
/-- Bypass entries of one quarter (R310). -/
def bypassEntries : Nat := 4096
/-- Records of a polder's pending-launch store (R421). -/
def pendingRecords : Nat := 65536
/-- A tile in bytes (R17). -/
def tileBytes : Nat := 4096
/-- What a byte of memory that nothing has written reads as. DESIGN CHOICE (log 1): the spec gives no contents of
memory after power-on; unsafe. -/
def memDefault : Byte := 0

end Sys2Proof.Config
end

