-- ==== Sys2Proof/Machine/Float.lean ====
section
/-! DEFINITION. Number formats, rounding and the exact arithmetic behind every floating-point word (04_numbers R119 to
R137, 05_compute R166 to R171). A number is an exact dyadic ±m·2^e; each operation computes exactly and rounds once. -/
namespace Sys2Proof.Machine

/-- An exact value: NaN, an infinity, or ±m·2^e (m = 0: a signed zero). -/
inductive Exact where
  | nan
  | inf (neg : Bool)
  | fin (neg : Bool) (m : Nat) (e : Int)
  deriving DecidableEq, Repr

/-- How a format encodes what is not a finite value (R120, R122). -/
inductive Specials where
  | ieee
  | e4m3
  | none
  deriving DecidableEq, Repr

/-- A binary format (R120, R122): exponent and fraction widths, bias, and its special codes. -/
structure Fmt where
  ebits : Nat
  mbits : Nat
  bias : Nat
  special : Specials
  deriving DecidableEq, Repr

def fmtF64 : Fmt := ⟨11, 52, 1023, .ieee⟩
def fmtF32 : Fmt := ⟨8, 23, 127, .ieee⟩
def fmtF16 : Fmt := ⟨5, 10, 15, .ieee⟩
def fmtBf16 : Fmt := ⟨8, 7, 127, .ieee⟩
def fmtE4m3 : Fmt := ⟨4, 3, 7, .e4m3⟩
def fmtE5m2 : Fmt := ⟨5, 2, 15, .ieee⟩
def fmtE3m2 : Fmt := ⟨3, 2, 3, .none⟩
def fmtE2m3 : Fmt := ⟨2, 3, 1, .none⟩
def fmtE2m1 : Fmt := ⟨2, 1, 1, .none⟩

/-- The float format of a format code (R88). -/
def fmtOfCode : Nat → Fmt
  | 0 => fmtF64
  | 1 => fmtF32
  | 2 => fmtF16
  | 3 => fmtBf16
  | 4 => fmtE4m3
  | 5 => fmtE5m2
  | 6 => fmtE3m2
  | 7 => fmtE2m3
  | _ => fmtE2m1

/-- An IEEE format of R120: overflow goes to infinity, ftz applies. -/
def Fmt.isIeee (f : Fmt) : Bool := f == fmtF64 || f == fmtF32 || f == fmtF16 || f == fmtBf16

/-- Width of a code in bits. -/
def Fmt.width (f : Fmt) : Nat := 1 + f.ebits + f.mbits

/-- The exponent of one unit of a subnormal. -/
def Fmt.emin (f : Fmt) : Int := 1 - (f.bias : Int) - (f.mbits : Int)

/-- The code of the largest finite magnitude (R120, R122). -/
def Fmt.maxCode (f : Fmt) : Nat :=
  match f.special with
  | .ieee => (2 ^ f.ebits - 1) * 2 ^ f.mbits - 1
  | .e4m3 => 2 ^ (f.ebits + f.mbits) - 2
  | .none => 2 ^ (f.ebits + f.mbits) - 1

/-- The canonical NaN (R120, R122); +0 where the format has none (R129). -/
def Fmt.nanCode (f : Fmt) : Nat :=
  match f.special with
  | .ieee => (2 ^ f.ebits - 1) * 2 ^ f.mbits + 2 ^ (f.mbits - 1)
  | .e4m3 => 2 ^ (f.ebits + f.mbits) - 1
  | .none => 0

/-- The sign bit of a code. -/
def Fmt.signBit (f : Fmt) (neg : Bool) : Nat := if neg then 2 ^ (f.ebits + f.mbits) else 0

/-- The code of an infinity. -/
def Fmt.infCode (f : Fmt) (neg : Bool) : Nat := f.signBit neg + (2 ^ f.ebits - 1) * 2 ^ f.mbits

/-- The value of a code (R120, R122). -/
def Fmt.decode (f : Fmt) (c : Nat) : Exact :=
  let neg := c / 2 ^ (f.ebits + f.mbits) % 2 == 1
  let ex := c / 2 ^ f.mbits % 2 ^ f.ebits
  let m := c % 2 ^ f.mbits
  let fin : Exact :=
    if ex = 0 then .fin neg m f.emin else .fin neg (2 ^ f.mbits + m) (f.emin + (ex : Int) - 1)
  match f.special with
  | .ieee => if ex = 2 ^ f.ebits - 1 then (if m = 0 then .inf neg else .nan) else fin
  | .e4m3 => if ex = 2 ^ f.ebits - 1 ∧ m = 2 ^ f.mbits - 1 then .nan else fin
  | .none => fin

/-- Rounding modes (R90, R129). -/
inductive Rm where
  | rne
  | rz
  | ru
  | rd
  | sr
  deriving DecidableEq, Repr

/-- The mode of an HMOD payload (R90). -/
def rmOf : Nat → Rm
  | 1 => .rz
  | 2 => .ru
  | 3 => .rd
  | 4 => .sr
  | _ => .rne

/-- What HMOD sets (R90, R98). -/
structure Mods where
  rm : Rm
  sat : Bool
  ftz : Bool
  inf : Bool
  deriving DecidableEq, Repr

def Mods.plain : Mods := ⟨.rne, false, false, false⟩

/-- One step of the stochastic-rounding LFSR (R130). -/
def lfsrStep (st : Word) : Word :=
  if st.getLsbD 0 then (st >>> 1) ^^^ 0x80200003 else st >>> 1

/-- `lfsr_draw` of R130: the new state; the draw is its low 16 bits. -/
def lfsrDraw (st : Word) : Word := (List.range 16).foldl (fun s _ => lfsrStep s) st

/-- A positive dyadic m·2^e cut at the unit 2^u: the whole units, and the rest as a fraction of 2^16 steps rounded
down with what is below it (R130), and whether the rest is below, at or above one half (R129). -/
def cutAt (m : Nat) (e u : Int) : Nat × Nat × Ordering × Bool :=
  if u ≤ e then (m * 2 ^ (e - u).toNat, 0, .lt, true)
  else
    let d := (u - e).toNat
    let q := m / 2 ^ d
    let r := m % 2 ^ d
    (q, r * 2 ^ 16 / 2 ^ d, compare (2 * r) (2 ^ d), r == 0)

/-- Units chosen by a mode among q and q + 1 (R129, R130): neg the sign, draw the 16 bits of sr. -/
def chooseUnits (rm : Rm) (neg : Bool) (q frac : Nat) (half : Ordering) (exact : Bool) (draw : Nat) : Nat :=
  if exact then q
  else
    match rm with
    | .rne => match half with
      | .lt => q
      | .gt => q + 1
      | .eq => if q % 2 = 0 then q else q + 1
    | .rz => q
    | .ru => if neg then q else q + 1
    | .rd => if neg then q + 1 else q
    | .sr => if frac > draw then q + 1 else q

/-- The unit's exponent for a value in a format, exponent unbounded above (R130). -/
def unitExp (f : Fmt) (m : Nat) (e : Int) : Int := max (e + (Nat.log2 m : Int) - (f.mbits : Int)) f.emin

/-- The code of q units of 2^u, a magnitude that does not exceed the largest finite one. -/
def magCode (f : Fmt) (q : Nat) (u : Int) : Nat :=
  let (q, u) := if q = 2 ^ (f.mbits + 1) then (2 ^ f.mbits, u + 1) else (q, u)
  if q < 2 ^ f.mbits then q else ((u - f.emin).toNat + 1) * 2 ^ f.mbits + (q - 2 ^ f.mbits)

/-- The overflow treatment of R129. -/
def overflowCode (f : Fmt) (md : Mods) (neg : Bool) : Nat :=
  if f.isIeee then
    let toInf := match md.rm with
      | .rne => true
      | .sr => true
      | .rz => false
      | .ru => !neg
      | .rd => neg
    if toInf then f.infCode neg else f.signBit neg + f.maxCode
  else if md.inf then
    (match f.special with
     | .ieee => f.infCode neg
     | .e4m3 => f.signBit neg + f.nanCode
     | .none => f.signBit neg + f.maxCode)
  else f.signBit neg + f.maxCode

/-- ±m·2^e rounded to a format with the 16 bits `draw` of sr (R129, R130). -/
def roundFin (f : Fmt) (md : Mods) (neg : Bool) (m : Nat) (e : Int) (draw : Nat) : Nat :=
  if m = 0 then f.signBit neg
  else
    let u := unitExp f m e
    let (q, frac, half, exact) := cutAt m e u
    let k := chooseUnits md.rm neg q frac half exact draw
    let top := magCode f k u
    if f.maxCode < top then overflowCode f md neg else f.signBit neg + top

/-- A value rounded to a format (R129): specials take their codes. -/
def roundNum (f : Fmt) (md : Mods) (x : Exact) (draw : Nat) : Nat :=
  match x with
  | .nan => f.nanCode
  | .inf neg => if f.isIeee then f.infCode neg else overflowCode f md neg
  | .fin neg m e => roundFin f md neg m e draw

/-- A subnormal code of an IEEE format replaced with a zero of its sign (R132). -/
def flushCode (f : Fmt) (c : Nat) : Nat :=
  if f.isIeee ∧ c / 2 ^ f.mbits % 2 ^ f.ebits = 0 then c / 2 ^ (f.ebits + f.mbits) * 2 ^ (f.ebits + f.mbits) else c

/-- A source operand's value, after ftz (R132). -/
def source (f : Fmt) (md : Mods) (c : Nat) : Exact := f.decode (if md.ftz then flushCode f c else c)

/-- The dyadic one. -/
def Exact.one : Exact := .fin false 1 0

/-- Comparison of two exact magnitudes m·2^e. -/
def cmpMag (m : Nat) (e : Int) (m' : Nat) (e' : Int) : Ordering :=
  let lo := min e e'
  compare (m * 2 ^ (e - lo).toNat) (m' * 2 ^ (e' - lo).toNat)

/-- Comparison of two values that are not NaN; the zeros are equal. -/
def Exact.cmp : Exact → Exact → Ordering
  | .inf true, .inf true => .eq
  | .inf true, _ => .lt
  | _, .inf true => .gt
  | .inf false, .inf false => .eq
  | .inf false, _ => .gt
  | _, .inf false => .lt
  | .fin n m e, .fin n' m' e' =>
    if m = 0 ∧ m' = 0 then .eq
    else if m = 0 then (if n' then .gt else .lt)
    else if m' = 0 then (if n then .lt else .gt)
    else if n ≠ n' then (if n then .lt else .gt)
    else if n then cmpMag m' e' m e else cmpMag m e m' e'
  | _, _ => .eq

/-- sat (R131): the exact result clamped to +0.0 to 1.0; a NaN and −0 become +0. -/
def satNum (x : Exact) : Exact :=
  match x with
  | .nan => .fin false 0 0
  | .inf neg => if neg then .fin false 0 0 else Exact.one
  | .fin neg m e => if neg ∨ m = 0 then .fin false 0 0 else if cmpMag m e 1 0 = .gt then Exact.one else x

/-- The result of a word rounded to its format: sat, one rounding (one draw under sr), ftz (R129 to R132, R166). -/
def finish (f : Fmt) (md : Mods) (x : Exact) (st : Word) : Nat × Word :=
  let x := if md.sat then satNum x else x
  let st' := if md.rm = .sr then lfsrDraw st else st
  let c := roundNum f md x (st'.toNat % 65536)
  (if md.ftz then flushCode f c else c, st')

/-- Negation of a value. -/
def Exact.neg : Exact → Exact
  | .nan => .nan
  | .inf s => .inf (!s)
  | .fin s m e => .fin (!s) m e

/-- Exact product (R167). -/
def Exact.mul : Exact → Exact → Exact
  | .nan, _ => .nan
  | _, .nan => .nan
  | .inf s, .inf t => .inf (s != t)
  | .inf s, .fin t m _ => if m = 0 then .nan else .inf (s != t)
  | .fin t m _, .inf s => if m = 0 then .nan else .inf (s != t)
  | .fin s m e, .fin t n f => .fin (s != t) (m * n) (e + f)

/-- Exact sum (R167): an exact zero is +0 in every mode but rd, and two zeros of one sign keep it. -/
def Exact.add (rm : Rm) : Exact → Exact → Exact
  | .nan, _ => .nan
  | _, .nan => .nan
  | .inf s, .inf t => if s = t then .inf s else .nan
  | .inf s, .fin _ _ _ => .inf s
  | .fin _ _ _, .inf s => .inf s
  | .fin s m e, .fin t n f =>
    if m = 0 ∧ n = 0 then .fin (if s = t then s else rm == .rd) 0 0
    else
      let lo := min e f
      let a : Int := (if s then -1 else 1) * (m * 2 ^ (e - lo).toNat : Nat)
      let b : Int := (if t then -1 else 1) * (n * 2 ^ (f - lo).toNat : Nat)
      let c := a + b
      if c = 0 then .fin (rm == .rd) 0 0 else .fin (c < 0) c.natAbs lo

/-- The smaller or larger of two operands (R168), −0 below +0. -/
def Exact.minMax (wantMax : Bool) (a b : Exact) : Exact :=
  match a, b with
  | .nan, .nan => .nan
  | .nan, x => x
  | x, .nan => x
  | x, y =>
    let lt := match x.cmp y with
      | .lt => true
      | .gt => false
      | .eq => match x, y with
        | .fin true 0 _, .fin false 0 _ => true
        | _, _ => false
    if wantMax then (if lt then y else x) else (if lt then x else y)

/-- |x| (R168). -/
def Exact.abs : Exact → Exact
  | .nan => .nan
  | .inf _ => .inf false
  | .fin _ m e => .fin false m e

/-! ## Quotients and roots -/

/-- m/n to 2^-k units with what is below folded into the last bit, so that one rounding of it is the rounding of the
exact quotient (all formats round at least 20 bits above it). -/
def quotSticky (m n k : Nat) : Nat :=
  let a := m * 2 ^ k
  let q := a / n
  2 * q + (if a % n = 0 then 0 else 1)

/-- Integer square root by its binary digits, from bit `k` down. -/
def isqrtBits (n : Nat) : Nat → Nat → Nat
  | 0, r => r
  | k + 1, r =>
    let t := r + 2 ^ k
    isqrtBits n k (if t * t ≤ n then t else r)

/-- The integer square root of n. -/
def isqrt (n : Nat) : Nat := isqrtBits n (Nat.log2 n / 2 + 1) 0

/-- 1/x, exact up to a folded last bit (R170, R171). -/
def Exact.rcp : Exact → Exact
  | .nan => .nan
  | .inf s => .fin s 0 0
  | .fin s m e =>
    if m = 0 then .inf s
    else
      let k := Nat.log2 m + 100
      .fin s (quotSticky 1 m k) (-e - (k : Int) - 1)

/-- The square root, exact up to a folded last bit (R170, R171). -/
def Exact.sqrt : Exact → Exact
  | .nan => .nan
  | .inf s => if s then .nan else .inf false
  | .fin s m e =>
    if m = 0 then .fin s 0 0
    else if s then .nan
    else
      let (m, e) := if e % 2 = 0 then (m, e) else (2 * m, e - 1)
      let a := m * 2 ^ 240
      let r := isqrt a
      .fin false (2 * r + (if r * r = a then 0 else 1)) (e / 2 - 120 - 1)

/-! ## Reference values of the other special functions, as fixed-point numbers of 320 fraction bits -/

def fxOne : Nat := 2 ^ 320
/-- ln 2 in 320 fraction bits. -/
def fxLn2 : Nat := 0xb17217f7d1cf79abc9e3b39803f2f6af40f343267298b62d8a0d175b8baafa2be7b876206debac98
/-- 2π in 320 fraction bits. -/
def fxTwoPi : Nat := 0x6487ed5110b4611a62633145c06e0e68948127044533e63a0105df531d89cd9128a5043cc71a026f0

/-- A positive dyadic as a fixed-point number, what lies below its last bit dropped. -/
def toFx (m : Nat) (e : Int) : Nat :=
  if -320 ≤ e then m * 2 ^ (e + 320).toNat else m / 2 ^ (-320 - e).toNat

/-- The sum of y^i/i! for i from 0 below n (fixed point). -/
def expSeries (y : Nat) (n : Nat) : Nat :=
  ((List.range n).foldl (fun (p : Nat × Nat) i => (p.1 + p.2, p.2 * y / fxOne / (i + 1))) (0, fxOne)).1

/-- 2^r for a fraction r. -/
def exp2Frac (r : Nat) : Nat := expSeries (r * fxLn2 / fxOne) 80

/-- log2 of a fixed-point number in 1 to 2, by its binary digits. -/
def log2Digits : Nat → Nat → Nat → Nat
  | 0, _, acc => acc
  | k + 1, y, acc =>
    let z := y * y / fxOne
    if 2 * fxOne ≤ z then log2Digits k (z / 2) (2 * acc + 1) else log2Digits k z (2 * acc)

/-- sin of an angle of 0 to 1/4 turn (fixed point), and cos: the alternating series. -/
def sinSeries (y start : Nat) : Nat :=
  let term0 := if start = 1 then y else fxOne
  let r := (List.range 40).foldl
    (fun (p : Int × Nat) i =>
      let k := start + 2 * i
      (p.1 + (if i % 2 = 0 then (p.2 : Int) else -(p.2 : Int)),
       p.2 * y / fxOne * y / fxOne / ((k + 1) * (k + 2)))) ((0 : Int), term0)
  r.1.toNat

/-- sin(2πt) for t in turns as a fraction (fixed point): sign and magnitude. -/
def sinTurns (t : Nat) : Bool × Nat :=
  let t := t % fxOne
  let quad := t * 4 / fxOne
  let r := t - quad * (fxOne / 4)
  let r' := if quad % 2 = 0 then r else fxOne / 4 - r
  (quad ≥ 2, sinSeries (r' * fxTwoPi / fxOne) 1)

/-- A reference value, within 2^-100 of the exact result relative to the smallest value of its format: EXP2 3, LOG2 4,
SIN 5, COS 6, TANH 7 and RSQ 1 of a finite nonzero operand (R170). TANH of a small operand is a little nearer to zero than the operand, in the
binade of the exact result. -/
def fspcRef (fn : Nat) (neg : Bool) (m : Nat) (e : Int) : Exact :=
  match fn with
  | 1 => match (Exact.fin false m e).sqrt with
    | .fin _ r f => .fin false (quotSticky 1 r (Nat.log2 r + 130)) (-f - ((Nat.log2 r + 130 : Nat) : Int) - 1)
    | x => x
  | 3 =>
    if cmpMag m e 2000 0 = .gt then (if neg then .fin false 1 (-5000) else .fin false 1 5000)
    else
      let a := toFx m e
      let whole := a / fxOne
      let fr := a % fxOne
      if neg then
        (if fr = 0 then .fin false 1 (-(whole : Int))
         else .fin false (exp2Frac (fxOne - fr)) (-(whole : Int) - 1 - 320))
      else .fin false (exp2Frac fr) ((whole : Int) - 320)
  | 4 =>
    let l := Nat.log2 m
    let y := m * 2 ^ 320 / 2 ^ l
    let d := log2Digits 200 y 0
    let v : Int := (e + (l : Int)) * 2 ^ 200 + (d : Int)
    .fin (v < 0) v.natAbs (-200)
  | 5 =>
    let (s, v) := sinTurns (toFx m e)
    .fin (s != neg) v (-320)
  | 6 =>
    let (s, v) := sinTurns (toFx m e + fxOne / 4)
    .fin s v (-320)
  | _ =>
    if cmpMag m e 64 0 = .gt then .fin neg (2 ^ 200 - 1) (-200)
    else if cmpMag m e 1 (-40) = .lt then .fin neg (m * 2 ^ 300 - 1) (e - 300)
    else
      let y := 2 * toFx m e * fxOne / fxLn2
      let whole := y / fxOne
      let ex := exp2Frac (y % fxOne) * 2 ^ whole
      .fin neg ((ex - fxOne) * fxOne / (ex + fxOne)) (-320)

/-- |a − b| of two finite values as a dyadic. -/
def distance (a b : Exact) : Nat × Int :=
  match Exact.add .rne a b.neg with
  | .fin _ m e => (m, e)
  | _ => (1, 100000)

/-- The bound of R170 for a function whose exact result is about `r`: m·2^e. -/
def fspcBound (f : Fmt) (fn : Nat) (x r : Exact) : Nat × Int :=
  let ulp : Int := match r with
    | .fin _ m e => if m = 0 then f.emin else unitExp f m e
    | _ => f.emin
  let ulps := if f = fmtF16 ∨ fn = 1 then 1 else 2
  match fn with
  | 5 | 6 => if f = fmtF16 then (1, -10) else (1, -22)
  | 4 =>
    if f = fmtF32 ∧ x.cmp (.fin false 1 (-1)) ≠ .lt ∧ x.cmp (.fin false 2 0) ≠ .gt then (1, -22) else (ulps, ulp)
  | _ => (ulps, ulp)

/-- Whether R170 or R171 fixes the result exactly: EXP2 of an integer and LOG2 of a power of two in .f32, SIN and COS at the
multiples of a quarter turn. In .f16x2 R170 gives EXP2 and LOG2 only their bound. -/
def fspcExact (f : Fmt) (fn : Nat) (m : Nat) (e : Int) : Bool :=
  let isMultiple (k : Nat) : Bool := -(k : Int) ≤ e || m % 2 ^ (-(k : Int) - e).toNat == 0
  match fn with
  | 3 => f != fmtF16 && isMultiple 0
  | 4 => f != fmtF16 && m == 2 ^ Nat.log2 m
  | 5 | 6 => isMultiple 2
  | _ => false

/-- The exact results of `fspcExact`. -/
def fspcExactNum (fn : Nat) (neg : Bool) (m : Nat) (e : Int) : Exact :=
  match fn with
  | 5 | 6 =>
    let quarters := (toFx m e) / (fxOne / 4) % 4
    let q := (if fn = 5 then (if neg then 4 - quarters else quarters) else quarters + 1) % 4
    (match q with
     | 1 => Exact.one
     | 3 => .fin true 1 0
     | _ => .fin false 0 0)
  | _ => fspcRef fn neg m e

/-- A special function (R170, R171) on an operand code: RCP 0 and SQRT 2 correctly rounded, one draw under sr; the
others the exact result where the spec fixes it, else the part's own value (`Config.fspc`) if it lies within R170's
bound, and the rounded reference value if it does not. -/
def fspcCode (f : Fmt) (ty fn : Nat) (md : Mods) (c : Nat) (st : Word) : Nat × Word :=
  let x := source f md c
  let md' : Mods := { md with sat := false, inf := false }
  if fn = 0 then finish f md' x.rcp st
  else if fn = 2 then finish f md' x.sqrt st
  else
    let nearest : Mods := { md' with rm := .rne }
    let out (y : Exact) : Nat × Word := ((finish f nearest y st).1, st)
    match x with
    | .nan => out .nan
    | .inf neg =>
      (match fn with
       | 1 => out (if neg then .nan else .fin false 0 0)
       | 3 => out (if neg then .fin false 0 0 else .inf false)
       | 4 => out (if neg then .nan else .inf false)
       | 5 | 6 => out .nan
       | _ => out (.fin neg 1 0))
    | .fin neg m e =>
      if m = 0 then
        (match fn with
         | 1 => out (.inf neg)
         | 3 => out Exact.one
         | 4 => out (.inf true)
         | 6 => out Exact.one
         | _ => out (.fin neg 0 0))
      else if neg ∧ (fn = 1 ∨ fn = 4) then out .nan
      else if fspcExact f fn m e then out (fspcExactNum fn neg m e)
      else
        let r := fspcRef fn neg m e
        let cand := Config.fspc fn ty c % 2 ^ f.width
        let d := distance (f.decode cand) r
        let b := fspcBound f fn x r
        match f.decode cand with
        | .fin _ _ _ =>
          if cmpMag d.1 d.2 b.1 b.2 = .gt then out r
          else ((if md.ftz then flushCode f cand else cand), st)
        | _ => out r

/-! ## LG6 and block scales -/

/-- T of R125: the FP32 significand (24 bits) of T[f]. -/
def lgT : Nat → Nat
  | 0 => 0x800000
  | 1 => 0x9837F0
  | 2 => 0xB504F3
  | _ => 0xD744FD

/-- The magnitude 2^k·T[f] of a log sum n = 4k + f (R125, R126). -/
def lgMag (neg : Bool) (n : Int) : Exact := .fin neg (lgT (n % 4).toNat) (n / 4 - 23)

/-- The value of an LG6 code (R125). -/
def lgDecode (c : Nat) : Exact :=
  let l := c % 32
  let neg := c / 32 % 2 == 1
  if l = 0 then (if neg then .nan else .fin false 0 0) else lgMag neg ((l : Int) - 20)

/-- The product of two LG6 codes (R126). -/
def lgMul (a b : Nat) : Exact :=
  let la := a % 32
  let lb := b % 32
  if (la = 0 ∧ a / 32 % 2 = 1) ∨ (lb = 0 ∧ b / 32 % 2 = 1) then .nan
  else if la = 0 ∨ lb = 0 then .fin false 0 0
  else lgMag ((a / 32 + b / 32) % 2 == 1) ((la : Int) + (lb : Int) - 40)

/-- A magnitude rounded among the LG6 magnitudes, as L (R147): lo the greatest not above it. -/
def lgRound (rm : Rm) (neg : Bool) (m : Nat) (e : Int) (draw : Nat) : Nat :=
  let dec (l : Nat) : Nat × Int := if l = 0 then (0, 0) else (lgT (((l : Int) - 20) % 4).toNat, ((l : Int) - 20) / 4 - 23)
  let lo := (List.range 32).foldl (fun best l => if cmpMag (dec l).1 (dec l).2 m e = .gt then best else l) 0
  if lo = 31 then 31
  else
    let base : Int := min e (-40)
    let up (p : Nat × Int) : Nat := p.1 * 2 ^ (p.2 - base).toNat
    let x := up (m, e)
    let a := up (dec lo)
    let b := up (dec (lo + 1))
    chooseUnits rm neg lo ((x - a) * 65536 / (b - a)) (compare (2 * (x - a)) (b - a)) (x == a) draw

/-- LGENC of one FP32 code (R147). -/
def lgEncode (md : Mods) (c : Nat) (st : Word) : Nat × Word :=
  let x := source fmtF32 md c
  let x := if md.sat then satNum x else x
  let st' := if md.rm = .sr then lfsrDraw st else st
  let draw := st'.toNat % 65536
  let code : Nat := match x with
    | .nan => 0x20
    | .inf neg => if md.inf then 0x20 else (if neg then 0x3F else 0x1F)
    | .fin neg m e =>
      if m = 0 then 0
      else if cmpMag m e (lgT 3) (2 - 23) = .gt then (if md.inf then 0x20 else (if neg then 0x3F else 0x1F))
      else
        let l := lgRound md.rm neg m e draw
        if l = 0 then 0 else (if neg then 32 else 0) + l
  (code, st')

/-- A block scale (R124): kind 0 E8M0, 1 E4M3 with its sign ignored. -/
def scaleNum (kind code : Nat) : Exact :=
  if kind = 0 then (if code = 255 then .nan else .fin false 1 ((code : Int) - 127))
  else fmtE4m3.decode (code % 128)

/-- An element with its block scale (R124, log 30): a NaN scale makes it NaN, a zero scale makes it +0. -/
def scaled (x scale : Exact) : Exact :=
  match scale with
  | .nan => .nan
  | .fin _ 0 _ => .fin false 0 0
  | s => Exact.mul x s

/-! ## Sums of the matrix unit -/

/-- The exact sum of terms of R135, with no rounding: NaN and infinities as there; −0 only when every term is −0. -/
def exactSum (c : Exact) (terms : List Exact) : Exact := terms.foldl (Exact.add .rne) c

/-- One element of an MMQ or MMS result (R135, R136): the exact sum rounded once to FP32. -/
def dotF32 (c : Nat) (terms : List Exact) : Nat :=
  roundNum fmtF32 Mods.plain (exactSum (fmtF32.decode c) terms) 0

/-- One element of an FP64 MMQ (R136): fused steps in ascending k. -/
def dotF64 (c : Nat) (ab : List (Nat × Nat)) : Nat :=
  ab.foldl (fun acc p =>
    roundNum fmtF64 Mods.plain (Exact.add .rne (Exact.mul (fmtF64.decode p.1) (fmtF64.decode p.2)) (fmtF64.decode acc)) 0) c

/-- One element of an .i8 MMQ or MMS (R135): the exact sum saturated to 32 bits. -/
def dotI8 (c : Word) (ab : List (Byte × Byte)) : Word :=
  wrapI 32 (clampI (ab.foldl (fun (acc : Int) p => acc + p.1.toInt * p.2.toInt) c.toInt) (-(2 ^ 31)) (2 ^ 31 - 1))

end Sys2Proof.Machine
end

