-- ==== Sys2Proof/Machine/Cipher.lean ====
section
/-! DEFINITION. The cipher of memory encryption (16 R427): AES-XTS with a 256-bit data key and a 256-bit tweak key on units of 64 bytes.
The spec names the cipher and gives no more of it; its tables, its key schedule and the doubling of the tweak are those of the published
standards (FIPS 197, IEEE 1619), and keys, tweak and data are taken as little-endian byte strings (PRESUMED, log 12). -/
namespace Sys2Proof.Machine

/-- A table of 256 bytes as four numbers of 64 bytes each, the lowest index first. -/
abbrev ByteTable := List Nat

/-- An entry of a table. -/
def tableByte (t : ByteTable) (x : Nat) : Nat := t.getD (x / 64) 0 / 2 ^ (8 * (x % 64)) % 256

/-- SubBytes. -/
def aesSub : ByteTable :=
  [0x75b227ebe28012079a059618c323c7041531d871f1e5a534ccf73f362693fdb7c072a49cafa2d4adf04759fa7dc982ca76abd7fe2b670130c56f6bf27b777c63,
   0xd2f3ff1021dab6bcf5389d928f40a351a89f3c507f02f94585334d43fbaaefd0cf584c4a39becb6a5bb1fc20ed00d153842fe329b3d63b52a05a6e1b1a2c8309,
   0x08ae7a65eaf4566ca94ed58d6d37c8e779e4959162acd3c25c2406490a3a32e0db0b5ede14b8ee4688902a22dc4f816073195d643d7ea7c41744975fec130ccd,
   0x16bb54b00f2d99416842e6bf0d89a18cdf2855cee9871e9b948ed9691198f8e19e1dc186b95735610ef6034866b53e708a8bbd4b1f74dde8c6b4a61c2e2578ba]

/-- InvSubBytes. -/
def aesUnsub : ByteTable :=
  [0x25d18b6d49a25b76b224d92866a12e084ec3fa420b954cee3d23c2a632947b54cbe9dec444438e3487ff2f9b8239e37cfbd7f3819ea340bf38a53630d56a0952,
   0x6b8a130103bdafc1020f3fca8f1e2cd00645b3b80558e4f70ad3bc8c00abd890849d8da75746155edab9edfd5048706c92b6655dcc5ca4d41698688664f6f872,
   0xf45acd78fec0db9a2079d2c64b3e56fc1bbe18aa0e62b76f89c5291d711af1476edf751ce837f9e28535ade72274ac9673e6b4f0cecff297eadc674f4111913a,
   0x7d0c2155631469e126d677ba7e042b17619953833cbbebc8b0f52aae4d3be0a0ef9cc9939f7ae52d0d4ab519a97f51605fec8027591012b131c7078833a8dd1f]

/-- Byte r of a column or key word. -/
def colByte (w r : Nat) : Nat := w / 2 ^ (8 * r) % 256

/-- A column of four bytes. -/
def column (f : Nat → Nat) : Nat := f 0 + 256 * (f 1 + 256 * (f 2 + 256 * f 3))

/-- A product by x in the field of AES. -/
def fieldDouble (a : Nat) : Nat := if a < 128 then 2 * a else (2 * a) ^^^ 0x11B

/-- A product by a polynomial of degree at most 3. -/
def fieldMul (k a : Nat) : Nat :=
  (if k % 2 = 1 then a else 0) ^^^ (if k / 2 % 2 = 1 then fieldDouble a else 0) ^^^
  (if k / 4 % 2 = 1 then fieldDouble (fieldDouble a) else 0) ^^^
  (if k / 8 % 2 = 1 then fieldDouble (fieldDouble (fieldDouble a)) else 0)

/-- A column times the circulant matrix whose first row is given. -/
def mixColumn (m : List Nat) (w : Nat) : Nat :=
  column (fun r => (List.range 4).foldl (fun acc j => acc ^^^ fieldMul (m.getD ((4 + j - r) % 4) 0) (colByte w j)) 0)

/-- Word i of the key schedule of a 256-bit key from those before it, given latest first. -/
def keyWord (i : Nat) (ws : List Nat) : Nat :=
  let t := ws.headD 0
  let sub (w : Nat) : Nat := column (fun r => tableByte aesSub (colByte w r))
  (if i % 8 = 0 then sub (t / 256 + t % 256 * 2 ^ 24) ^^^ 2 ^ (i / 8 - 1) else if i % 8 = 4 then sub t else t) ^^^ ws.getD 7 0

/-- The 60 words of the key schedule. -/
def keyWords (key : BitVec 256) : List Nat :=
  ((List.range 52).foldl (fun ws i => keyWord (8 + i) ws :: ws) ((List.range 8).map (fun i => key.toNat / 2 ^ (32 * i) % 2 ^ 32)).reverse).reverse

/-- The key of a round, four words. -/
def roundKey (ws : List Nat) (n : Nat) : List Nat := (ws.drop (4 * n)).take 4

/-- A key added to a state of four columns. -/
def addKey (s k : List Nat) : List Nat := List.zipWith (fun a b => a ^^^ b) s k

/-- SubBytes and ShiftRows. -/
def subShift (s : List Nat) : List Nat :=
  (List.range 4).map (fun c => column (fun r => tableByte aesSub (colByte (s.getD ((c + r) % 4) 0) r)))

/-- Their inverses. -/
def unsubShift (s : List Nat) : List Nat :=
  (List.range 4).map (fun c => column (fun r => tableByte aesUnsub (colByte (s.getD ((c + 4 - r) % 4) 0) r)))

/-- A block as four columns. -/
def blockCols (x : Nat) : List Nat := (List.range 4).map (fun c => x / 2 ^ (32 * c) % 2 ^ 32)

/-- Four columns as a block. -/
def colsBlock (s : List Nat) : Nat := s.foldr (fun w acc => w + 2 ^ 32 * acc) 0

/-- AES-256 of a block under the words of a key. -/
def aesEncrypt (ws : List Nat) (x : Nat) : Nat :=
  let s := (List.range 13).foldl (fun s n => addKey ((subShift s).map (mixColumn [2, 3, 1, 1])) (roundKey ws (n + 1)))
    (addKey (blockCols x) (roundKey ws 0))
  colsBlock (addKey (subShift s) (roundKey ws 14))

/-- Its inverse. -/
def aesDecrypt (ws : List Nat) (x : Nat) : Nat :=
  let s := (List.range 13).foldl (fun s n => (addKey (unsubShift s) (roundKey ws (13 - n))).map (mixColumn [14, 11, 13, 9]))
    (addKey (blockCols x) (roundKey ws 14))
  colsBlock (addKey (unsubShift s) (roundKey ws 0))

/-- The tweak of the next block. -/
def nextTweak (t : Nat) : Nat := if 2 * t < 2 ^ 128 then 2 * t else (2 * t) ^^^ (2 ^ 128 + 0x87)

/-- A unit through XTS: each block between two additions of its tweak, which begins as the encrypted unit number. `keys` is data key,
tweak key. -/
def xts (block : List Nat → Nat → Nat) (keys : BitVec 512) (unit : Nat) (x : BitVec 512) : BitVec 512 :=
  let ws := keyWords (keys.extractLsb' 256 256)
  let t0 := aesEncrypt (keyWords (keys.extractLsb' 0 256)) unit
  BitVec.ofNat 512 ((List.range 4).foldl (fun (acc : Nat × Nat) i =>
    (acc.1 + 2 ^ (128 * i) * (block ws (x.toNat / 2 ^ (128 * i) % 2 ^ 128 ^^^ acc.2) ^^^ acc.2), nextTweak acc.2)) (0, t0)).1

/-- A unit encrypted under a slot's keys; the tweak is its number, physical address bits 51:6. -/
def encryptUnit (keys : BitVec 512) (unit : Nat) (x : BitVec 512) : BitVec 512 := xts aesEncrypt keys unit x

/-- A unit decrypted. -/
def decryptUnit (keys : BitVec 512) (unit : Nat) (x : BitVec 512) : BitVec 512 := xts aesDecrypt keys unit x

end Sys2Proof.Machine
end

