-- ==== Sys2Proof/Syntax.lean ====
section
/-! DEFINITION. The instructions and events of the KX-460: one constructor per row of spec/opcode_table.json.
A word's constructor holds the fields of its encoding (03_formats R82, R100-R114) as bits. An event (a row without
an encoding: an action of one of the machine's own units, or of its environment) holds what says which one acts. -/
namespace Sys2Proof

/-- One row of spec/opcode_table.json each. -/
inductive Instr where
  /-- ADD (R153). Adds two 32-bit lane words, wrapping. -/
  | add (d : BitVec 6) (a : BitVec 6) (b : BitVec 6) (p : BitVec 3)
  /-- SUB (R153). Subtracts two 32-bit lane words, wrapping. -/
  | sub (d : BitVec 6) (a : BitVec 6) (b : BitVec 6) (p : BitVec 3)
  /-- MIN_I32 (R153). Signed minimum of two lane words. -/
  | minI32 (d : BitVec 6) (a : BitVec 6) (b : BitVec 6) (p : BitVec 3)
  /-- MIN_N32 (R153). Unsigned minimum of two lane words. -/
  | minN32 (d : BitVec 6) (a : BitVec 6) (b : BitVec 6) (p : BitVec 3)
  /-- MAX_I32 (R153). Signed maximum of two lane words. -/
  | maxI32 (d : BitVec 6) (a : BitVec 6) (b : BitVec 6) (p : BitVec 3)
  /-- MAX_N32 (R153). Unsigned maximum of two lane words. -/
  | maxN32 (d : BitVec 6) (a : BitVec 6) (b : BitVec 6) (p : BitVec 3)
  /-- AND (R153). Bitwise and. -/
  | andB (d : BitVec 6) (a : BitVec 6) (b : BitVec 6) (p : BitVec 3)
  /-- OR (R153). Bitwise or. -/
  | orB (d : BitVec 6) (a : BitVec 6) (b : BitVec 6) (p : BitVec 3)
  /-- XOR (R153). Bitwise exclusive or. -/
  | xorB (d : BitVec 6) (a : BitVec 6) (b : BitVec 6) (p : BitVec 3)
  /-- ANDN (R153). Bitwise a and not b. -/
  | andn (d : BitVec 6) (a : BitVec 6) (b : BitVec 6) (p : BitVec 3)
  /-- ABSD_I32 (R153). Signed absolute difference. -/
  | absdI32 (d : BitVec 6) (a : BitVec 6) (b : BitVec 6) (p : BitVec 3)
  /-- ABSD_N32 (R153). Unsigned absolute difference. -/
  | absdN32 (d : BitVec 6) (a : BitVec 6) (b : BitVec 6) (p : BitVec 3)
  /-- ADDSAT_I32 (R153). Signed saturating add. -/
  | addsatI32 (d : BitVec 6) (a : BitVec 6) (b : BitVec 6) (p : BitVec 3)
  /-- ADDSAT_N32 (R153). Unsigned saturating add. -/
  | addsatN32 (d : BitVec 6) (a : BitVec 6) (b : BitVec 6) (p : BitVec 3)
  /-- SUBSAT_I32 (R153). Signed saturating subtract. -/
  | subsatI32 (d : BitVec 6) (a : BitVec 6) (b : BitVec 6) (p : BitVec 3)
  /-- SUBSAT_N32 (R153). Unsigned saturating subtract. -/
  | subsatN32 (d : BitVec 6) (a : BitVec 6) (b : BitVec 6) (p : BitVec 3)
  /-- IOPW (R153). Performs an IOP function on 64-bit register pairs. -/
  | iopw (d : BitVec 6) (a : BitVec 6) (b : BitVec 6) (f : BitVec 5) (p : BitVec 3)
  /-- ADDI (R154). Adds a sign-extended immediate. -/
  | addi (d : BitVec 6) (a : BitVec 6) (i : BitVec 8) (p : BitVec 3)
  /-- MULI (R154). Multiplies by an immediate, wrapping. -/
  | muli (d : BitVec 6) (a : BitVec 6) (i : BitVec 8) (p : BitVec 3)
  /-- ANDI (R154). Bitwise and with an immediate. -/
  | andi (d : BitVec 6) (a : BitVec 6) (i : BitVec 8) (p : BitVec 3)
  /-- ORI (R154). Bitwise or with an immediate. -/
  | ori (d : BitVec 6) (a : BitVec 6) (i : BitVec 8) (p : BitVec 3)
  /-- XORI (R154). Bitwise xor with an immediate. -/
  | xori (d : BitVec 6) (a : BitVec 6) (i : BitVec 8) (p : BitVec 3)
  /-- SHLI (R154). Shifts left by an immediate count. -/
  | shli (d : BitVec 6) (a : BitVec 6) (i : BitVec 8) (p : BitVec 3)
  /-- SHRI (R154). Shifts logically right by an immediate count. -/
  | shri (d : BitVec 6) (a : BitVec 6) (i : BitVec 8) (p : BitVec 3)
  /-- SARI (R154). Shifts arithmetically right by an immediate count. -/
  | sari (d : BitVec 6) (a : BitVec 6) (i : BitVec 8) (p : BitVec 3)
  /-- SHL (R156). Shifts a 32-bit word left by a register count. -/
  | shl (d : BitVec 6) (a : BitVec 6) (b : BitVec 6) (p : BitVec 3)
  /-- SHR (R156). Shifts a 32-bit word logically right. -/
  | shr (d : BitVec 6) (a : BitVec 6) (b : BitVec 6) (p : BitVec 3)
  /-- SAR (R156). Shifts a 32-bit word arithmetically right. -/
  | sar (d : BitVec 6) (a : BitVec 6) (b : BitVec 6) (p : BitVec 3)
  /-- ROL (R156). Rotates a 32-bit word left. -/
  | rol (d : BitVec 6) (a : BitVec 6) (b : BitVec 6) (p : BitVec 3)
  /-- ROR (R156). Rotates a 32-bit word right. -/
  | ror (d : BitVec 6) (a : BitVec 6) (b : BitVec 6) (p : BitVec 3)
  /-- POPC (R156). Counts set bits of a 32-bit word. -/
  | popc (d : BitVec 6) (a : BitVec 6) (p : BitVec 3)
  /-- CLZ (R156). Counts leading zeros of a 32-bit word. -/
  | clz (d : BitVec 6) (a : BitVec 6) (p : BitVec 3)
  /-- CTZ (R156). Counts trailing zeros of a 32-bit word. -/
  | ctz (d : BitVec 6) (a : BitVec 6) (p : BitVec 3)
  /-- BREV (R156). Reverses the bits of a 32-bit word. -/
  | brev (d : BitVec 6) (a : BitVec 6) (p : BitVec 3)
  /-- BFX_N32 (R157). Extracts a bit field, zero-extended. -/
  | bfxN32 (d : BitVec 6) (a : BitVec 6) (b : BitVec 6) (p : BitVec 3)
  /-- BFX_I32 (R157). Extracts a bit field, sign-extended. -/
  | bfxI32 (d : BitVec 6) (a : BitVec 6) (b : BitVec 6) (p : BitVec 3)
  /-- BFI (R157). Inserts a bit field into the destination. -/
  | bfi (d : BitVec 6) (a : BitVec 6) (b : BitVec 6) (p : BitVec 3)
  /-- PERMB (R158). Builds a word from selected bytes of vd and a. -/
  | permb (d : BitVec 6) (a : BitVec 6) (b : BitVec 6) (p : BitVec 3)
  /-- SHL_B64 (R156). Shifts a 64-bit pair left. -/
  | shlB64 (d : BitVec 6) (a : BitVec 6) (b : BitVec 6) (p : BitVec 3)
  /-- SHR_B64 (R156). Shifts a 64-bit pair logically right. -/
  | shrB64 (d : BitVec 6) (a : BitVec 6) (b : BitVec 6) (p : BitVec 3)
  /-- SAR_B64 (R156). Shifts a 64-bit pair arithmetically right. -/
  | sarB64 (d : BitVec 6) (a : BitVec 6) (b : BitVec 6) (p : BitVec 3)
  /-- ROL_B64 (R156). Rotates a 64-bit pair left. -/
  | rolB64 (d : BitVec 6) (a : BitVec 6) (b : BitVec 6) (p : BitVec 3)
  /-- ROR_B64 (R156). Rotates a 64-bit pair right. -/
  | rorB64 (d : BitVec 6) (a : BitVec 6) (b : BitVec 6) (p : BitVec 3)
  /-- POPC_B64 (R156). Counts set bits of a 64-bit pair. -/
  | popcB64 (d : BitVec 6) (a : BitVec 6) (p : BitVec 3)
  /-- CLZ_B64 (R156). Counts leading zeros of a 64-bit pair. -/
  | clzB64 (d : BitVec 6) (a : BitVec 6) (p : BitVec 3)
  /-- CTZ_B64 (R156). Counts trailing zeros of a 64-bit pair. -/
  | ctzB64 (d : BitVec 6) (a : BitVec 6) (p : BitVec 3)
  /-- BREV_B64 (R156). Reverses the bits of a 64-bit pair. -/
  | brevB64 (d : BitVec 6) (a : BitVec 6) (p : BitVec 3)
  /-- MUL (R159). Multiplies, keeping the low 32 bits. -/
  | mul (d : BitVec 6) (a : BitVec 6) (b : BitVec 6) (p : BitVec 3)
  /-- MULHI_I32 (R159). High 32 bits of the signed product. -/
  | mulhiI32 (d : BitVec 6) (a : BitVec 6) (b : BitVec 6) (p : BitVec 3)
  /-- MULHI_N32 (R159). High 32 bits of the unsigned product. -/
  | mulhiN32 (d : BitVec 6) (a : BitVec 6) (b : BitVec 6) (p : BitVec 3)
  /-- MULW_I32 (R159). Writes the full signed product to a pair. -/
  | mulwI32 (d : BitVec 6) (a : BitVec 6) (b : BitVec 6) (p : BitVec 3)
  /-- MULW_N32 (R159). Writes the full unsigned product to a pair. -/
  | mulwN32 (d : BitVec 6) (a : BitVec 6) (b : BitVec 6) (p : BitVec 3)
  /-- MAD (R159). Multiplies and adds the old destination. -/
  | mad (d : BitVec 6) (a : BitVec 6) (b : BitVec 6) (p : BitVec 3)
  /-- DIV_I32 (R160). Signed division, setting DZ on divide by zero. -/
  | divI32 (d : BitVec 6) (a : BitVec 6) (b : BitVec 6) (p : BitVec 3)
  /-- DIV_N32 (R160). Unsigned division, setting DZ on divide by zero. -/
  | divN32 (d : BitVec 6) (a : BitVec 6) (b : BitVec 6) (p : BitVec 3)
  /-- REM_I32 (R160). Signed remainder. -/
  | remI32 (d : BitVec 6) (a : BitVec 6) (b : BitVec 6) (p : BitVec 3)
  /-- REM_N32 (R160). Unsigned remainder. -/
  | remN32 (d : BitVec 6) (a : BitVec 6) (b : BitVec 6) (p : BitVec 3)
  /-- DIV_I32_TZ (R161). Signed division that traps DIVZ on a zero divisor. -/
  | divI32Tz (d : BitVec 6) (a : BitVec 6) (b : BitVec 6) (p : BitVec 3)
  /-- DIV_N32_TZ (R161). Unsigned division that traps DIVZ on a zero divisor. -/
  | divN32Tz (d : BitVec 6) (a : BitVec 6) (b : BitVec 6) (p : BitVec 3)
  /-- REM_I32_TZ (R161). Signed remainder that traps DIVZ on a zero divisor. -/
  | remI32Tz (d : BitVec 6) (a : BitVec 6) (b : BitVec 6) (p : BitVec 3)
  /-- REM_N32_TZ (R161). Unsigned remainder that traps DIVZ on a zero divisor. -/
  | remN32Tz (d : BitVec 6) (a : BitVec 6) (b : BitVec 6) (p : BitVec 3)
  /-- CMP (R162). Integer compare combined into a predicate. -/
  | cmp (d : BitVec 3) (c : BitVec 4) (m : BitVec 2) (a : BitVec 6) (b : BitVec 6) (t : BitVec 2) (p : BitVec 3)
  /-- FCMP (R163). Floating-point compare combined into a predicate. -/
  | fcmp (d : BitVec 3) (c : BitVec 4) (m : BitVec 2) (a : BitVec 6) (b : BitVec 6) (t : BitVec 2) (p : BitVec 3)
  /-- FCLASS (R164). Classifies a float against a class mask into a predicate. -/
  | fclass (d : BitVec 3) (m : BitVec 2) (a : BitVec 6) (k : BitVec 6) (t : BitVec 2) (p : BitVec 3)
  /-- PAND (R165). Predicate and. -/
  | pand (d : BitVec 6) (a : BitVec 6) (b : BitVec 6) (p : BitVec 3)
  /-- POR (R165). Predicate or. -/
  | por (d : BitVec 6) (a : BitVec 6) (b : BitVec 6) (p : BitVec 3)
  /-- PXOR (R165). Predicate xor. -/
  | pxor (d : BitVec 6) (a : BitVec 6) (b : BitVec 6) (p : BitVec 3)
  /-- PNOT (R165). Predicate not. -/
  | pnot (d : BitVec 6) (a : BitVec 6) (p : BitVec 3)
  /-- PMOV (R165). Copies one predicate to another. -/
  | pmov (d : BitVec 6) (a : BitVec 6) (p : BitVec 3)
  /-- PMOV_FROM_SCALAR (R165). Sets a predicate from the bits of a scalar. -/
  | pmovFromScalar (d : BitVec 6) (a : BitVec 6) (p : BitVec 3)
  /-- PMOV_TO_SCALAR (R165). Writes the active predicate bits into a scalar. -/
  | pmovToScalar (d : BitVec 6) (a : BitVec 6)
  /-- SEL (R165). Selects between two vectors by a predicate. -/
  | sel (d : BitVec 6) (a : BitVec 6) (b : BitVec 6) (n : BitVec 3) (p : BitVec 3)
  /-- FADD (R166). Floating add, rounded once. -/
  | fadd (d : BitVec 6) (a : BitVec 6) (b : BitVec 6) (t : BitVec 2) (p : BitVec 3)
  /-- FSUB (R166). Floating subtract, rounded once. -/
  | fsub (d : BitVec 6) (a : BitVec 6) (b : BitVec 6) (t : BitVec 2) (p : BitVec 3)
  /-- FMUL (R166). Floating multiply, rounded once. -/
  | fmul (d : BitVec 6) (a : BitVec 6) (b : BitVec 6) (t : BitVec 2) (p : BitVec 3)
  /-- FMIN (R168). Floating minimum. -/
  | fmin (d : BitVec 6) (a : BitVec 6) (b : BitVec 6) (t : BitVec 2) (p : BitVec 3)
  /-- FMAX (R168). Floating maximum. -/
  | fmax (d : BitVec 6) (a : BitVec 6) (b : BitVec 6) (t : BitVec 2) (p : BitVec 3)
  /-- FABS (R168). Clears the sign bit. -/
  | fabs (d : BitVec 6) (a : BitVec 6) (t : BitVec 2) (p : BitVec 3)
  /-- FNEG (R168). Inverts the sign bit. -/
  | fneg (d : BitVec 6) (a : BitVec 6) (t : BitVec 2) (p : BitVec 3)
  /-- FMA (R166). Fused a·b + d. -/
  | fma (d : BitVec 6) (a : BitVec 6) (b : BitVec 6) (t : BitVec 2) (p : BitVec 3)
  /-- FMS (R166). Fused a·b − d. -/
  | fms (d : BitVec 6) (a : BitVec 6) (b : BitVec 6) (t : BitVec 2) (p : BitVec 3)
  /-- FNMA (R166). Fused −(a·b) + d. -/
  | fnma (d : BitVec 6) (a : BitVec 6) (b : BitVec 6) (t : BitVec 2) (p : BitVec 3)
  /-- FMAD (R166). Fused a·b + c with c given by HREG. -/
  | fmad (d : BitVec 6) (a : BitVec 6) (b : BitVec 6) (t : BitVec 2) (p : BitVec 3)
  /-- RCP (R170). Reciprocal, correctly rounded. -/
  | rcp (d : BitVec 6) (a : BitVec 6) (t : BitVec 2) (p : BitVec 3)
  /-- RSQ (R170). Reciprocal square root. -/
  | rsq (d : BitVec 6) (a : BitVec 6) (t : BitVec 2) (p : BitVec 3)
  /-- SQRT (R170). Square root, correctly rounded. -/
  | sqrt (d : BitVec 6) (a : BitVec 6) (t : BitVec 2) (p : BitVec 3)
  /-- EXP2 (R170). Base-2 exponential. -/
  | exp2 (d : BitVec 6) (a : BitVec 6) (t : BitVec 2) (p : BitVec 3)
  /-- LOG2 (R170). Base-2 logarithm. -/
  | log2 (d : BitVec 6) (a : BitVec 6) (t : BitVec 2) (p : BitVec 3)
  /-- SIN (R170). Sine of an argument in turns. -/
  | sin (d : BitVec 6) (a : BitVec 6) (t : BitVec 2) (p : BitVec 3)
  /-- COS (R170). Cosine of an argument in turns. -/
  | cos (d : BitVec 6) (a : BitVec 6) (t : BitVec 2) (p : BitVec 3)
  /-- TANH (R170). Hyperbolic tangent. -/
  | tanh (d : BitVec 6) (a : BitVec 6) (t : BitVec 2) (p : BitVec 3)
  /-- CVT (R141). Converts lane elements between types. -/
  | cvt (d : BitVec 6) (a : BitVec 6) (t : BitVec 4) (s : BitVec 4) (p : BitVec 3)
  /-- CVTS (R141). Converts one value between scalar registers. -/
  | cvts (d : BitVec 6) (a : BitVec 6) (t : BitVec 4) (s : BitVec 4)
  /-- QBLK (R144). Quantises each quarter as one scaled block. -/
  | qblk (d : BitVec 6) (a : BitVec 6) (t : BitVec 4) (l : BitVec 1) (p : BitVec 3)
  /-- DQBLK (R145). Decodes a scaled block to FP32. -/
  | dqblk (d : BitVec 6) (a : BitVec 6) (t : BitVec 4) (l : BitVec 1) (p : BitVec 3)
  /-- PACK6 (R146). Packs FP6 bytes into nibble and crumb planes. -/
  | pack6 (d : BitVec 6) (a : BitVec 6) (t : BitVec 4) (p : BitVec 3)
  /-- UNPK6 (R146). Unpacks FP6 planes into bytes. -/
  | unpk6 (d : BitVec 6) (a : BitVec 6) (t : BitVec 4) (p : BitVec 3)
  /-- LGENC (R147). Encodes FP32 elements as LG6. -/
  | lgenc (d : BitVec 6) (a : BitVec 6) (p : BitVec 3)
  /-- LGDEC (R147). Decodes LG6 bytes to FP32. -/
  | lgdec (d : BitVec 6) (a : BitVec 6) (p : BitVec 3)
  /-- SHFL_IDX (R172). Reads va from a lane given per lane. -/
  | shflIdx (d : BitVec 6) (a : BitVec 6) (b : BitVec 6) (p : BitVec 3)
  /-- SHFL_UP (R172). Reads va from lane l − c. -/
  | shflUp (d : BitVec 6) (a : BitVec 6) (c : BitVec 5) (p : BitVec 3)
  /-- SHFL_DOWN (R172). Reads va from lane l + c. -/
  | shflDown (d : BitVec 6) (a : BitVec 6) (c : BitVec 5) (p : BitVec 3)
  /-- SHFL_XOR (R172). Reads va from lane l xor c. -/
  | shflXor (d : BitVec 6) (a : BitVec 6) (c : BitVec 5) (p : BitVec 3)
  /-- BCAST (R172). Broadcasts one lane's value. -/
  | bcast (d : BitVec 6) (a : BitVec 6) (l : BitVec 5) (p : BitVec 3)
  /-- BALLOT (R173). Collects a predicate's active bits into a scalar. -/
  | ballot (d : BitVec 6) (a : BitVec 6)
  /-- MATCH (R173). Writes the mask of lanes with equal values. -/
  | matchLanes (d : BitVec 6) (a : BitVec 6) (p : BitVec 3)
  /-- MOVSR (R174). Writes a lane, slice, group, team, core or quarter number. -/
  | movsr (d : BitVec 6) (s : BitVec 6) (p : BitVec 3)
  /-- RED (R175). Reduces va over the selected lanes. -/
  | red (d : BitVec 6) (a : BitVec 6) (o : BitVec 3) (p : BitVec 3)
  /-- SCAN (R175). Inclusive scan of va over the selected lanes. -/
  | scan (d : BitVec 6) (a : BitVec 6) (o : BitVec 3) (p : BitVec 3)
  /-- MOV (R176). Copies a vector register. -/
  | mov (d : BitVec 6) (a : BitVec 6) (p : BitVec 3)
  /-- MOVI (R176). Writes a sign-extended immediate. -/
  | movi (d : BitVec 6) (i : BitVec 8) (p : BitVec 3)
  /-- MOVHI (R176). Writes an immediate into the upper 16 bits. -/
  | movhi (d : BitVec 6) (i : BitVec 8) (p : BitVec 3)
  /-- MOVX (R177). Reads a register line through an index register. -/
  | movx (d : BitVec 6) (x : BitVec 2) (i : BitVec 8) (p : BitVec 3)
  /-- MOVXW (R177). Writes a register line through an index register. -/
  | movxw (x : BitVec 2) (a : BitVec 6) (i : BitVec 8) (p : BitVec 3)
  /-- XSET (R176). Sets an index register from a vector plus immediate. -/
  | xset (x : BitVec 2) (a : BitVec 6) (i : BitVec 8) (p : BitVec 3)
  /-- XADD (R176). Adds an immediate to an index register. -/
  | xadd (x : BitVec 2) (i : BitVec 8) (p : BitVec 3)
  /-- MOVV2S (R178). Copies one lane into a scalar. -/
  | movv2s (d : BitVec 6) (a : BitVec 6) (l : BitVec 5)
  /-- MOVS2V (R176). Copies a scalar's low word into every selected lane. -/
  | movs2v (d : BitVec 6) (a : BitVec 6) (p : BitVec 3)
  /-- SADD (R179). Scalar add. -/
  | sadd (d : BitVec 5) (a : BitVec 5) (b : BitVec 5)
  /-- SSUB (R179). Scalar subtract. -/
  | ssub (d : BitVec 5) (a : BitVec 5) (b : BitVec 5)
  /-- SMUL (R179). Scalar multiply. -/
  | smul (d : BitVec 5) (a : BitVec 5) (b : BitVec 5)
  /-- SAND (R179). Scalar and. -/
  | sand (d : BitVec 5) (a : BitVec 5) (b : BitVec 5)
  /-- SOR (R179). Scalar or. -/
  | sor (d : BitVec 5) (a : BitVec 5) (b : BitVec 5)
  /-- SXOR (R179). Scalar xor. -/
  | sxor (d : BitVec 5) (a : BitVec 5) (b : BitVec 5)
  /-- SSHL (R179). Scalar shift left. -/
  | sshl (d : BitVec 5) (a : BitVec 5) (b : BitVec 5)
  /-- SSHR (R179). Scalar logical shift right. -/
  | sshr (d : BitVec 5) (a : BitVec 5) (b : BitVec 5)
  /-- SMIN_I64 (R179). Scalar signed minimum. -/
  | sminI64 (d : BitVec 5) (a : BitVec 5) (b : BitVec 5)
  /-- SMIN_N64 (R179). Scalar unsigned minimum. -/
  | sminN64 (d : BitVec 5) (a : BitVec 5) (b : BitVec 5)
  /-- SMAX_I64 (R179). Scalar signed maximum. -/
  | smaxI64 (d : BitVec 5) (a : BitVec 5) (b : BitVec 5)
  /-- SMAX_N64 (R179). Scalar unsigned maximum. -/
  | smaxN64 (d : BitVec 5) (a : BitVec 5) (b : BitVec 5)
  /-- SMOV (R179). Copies a scalar. -/
  | smov (d : BitVec 5) (a : BitVec 5)
  /-- SCMP_I64 (R179). Signed scalar compare writing 1 or 0. -/
  | scmpI64 (d : BitVec 5) (a : BitVec 5) (b : BitVec 5) (c : BitVec 3)
  /-- SCMP_N64 (R179). Unsigned scalar compare writing 1 or 0. -/
  | scmpN64 (d : BitVec 5) (a : BitVec 5) (b : BitVec 5) (c : BitVec 3)
  /-- SADDI (R179). Scalar add immediate. -/
  | saddi (d : BitVec 5) (a : BitVec 5) (i : BitVec 13)
  /-- SANDI (R179). Scalar and immediate. -/
  | sandi (d : BitVec 5) (a : BitVec 5) (i : BitVec 13)
  /-- SSHLI (R179). Scalar shift left by immediate. -/
  | sshli (d : BitVec 5) (a : BitVec 5) (i : BitVec 13)
  /-- SSHRI (R179). Scalar shift right by immediate. -/
  | sshri (d : BitVec 5) (a : BitVec 5) (i : BitVec 13)
  /-- SMOVI (R179). Writes a sign-extended immediate to a scalar. -/
  | smovi (d : BitVec 5) (i : BitVec 13)
  /-- SLD (R181). Extracts a lane string from a 32-byte span. -/
  | sld (d : BitVec 6) (a : BitVec 6) (b : BitVec 6) (p : BitVec 3)
  /-- SST (R181). Writes a lane string into a 32-byte span. -/
  | sst (d : BitVec 6) (a : BitVec 6) (b : BitVec 6) (p : BitVec 3)
  /-- SCMP (R182). Compares two lane strings. -/
  | scmp (d : BitVec 6) (a : BitVec 6) (b : BitVec 6) (p : BitVec 3)
  /-- SFINDB (R183). Finds a byte in a lane string. -/
  | sfindb (d : BitVec 6) (a : BitVec 6) (b : BitVec 6) (p : BitVec 3)
  /-- SFOLD (R184). Folds ASCII capitals to lower case. -/
  | sfold (d : BitVec 6) (a : BitVec 6) (p : BitVec 3)
  /-- SMATCH (R184). Compares two strings byte by byte. -/
  | smatch (d : BitVec 6) (a : BitVec 6) (b : BitVec 6) (p : BitVec 3)
  /-- HCRC (R185). Updates a CRC-32C state with four bytes. -/
  | hcrc (d : BitVec 6) (a : BitVec 6) (b : BitVec 6) (p : BitVec 3)
  /-- HMIX (R186). Mixes a 64-bit value bijectively. -/
  | hmix (d : BitVec 6) (a : BitVec 6) (p : BitVec 3)
  /-- RHASH (R187). One step of the rolling hash. -/
  | rhash (d : BitVec 6) (a : BitVec 6) (b : BitVec 6) (p : BitVec 3)
  /-- PBIN (R188). Maps a hash to one of b bins. -/
  | pbin (d : BitVec 6) (a : BitVec 6) (b : BitVec 6) (p : BitVec 3)
  /-- BEZ (R190). Branches if the scalar is zero. -/
  | bez (s : BitVec 5) (o : BitVec 18)
  /-- BNZ (R190). Branches if the scalar is nonzero. -/
  | bnz (s : BitVec 5) (o : BitVec 18)
  /-- BLTZ (R190). Branches if the scalar is negative. -/
  | bltz (s : BitVec 5) (o : BitVec 18)
  /-- BGEZ (R190). Branches if the scalar is not negative. -/
  | bgez (s : BitVec 5) (o : BitVec 18)
  /-- BGTZ (R190). Branches if the scalar is positive. -/
  | bgtz (s : BitVec 5) (o : BitVec 18)
  /-- BLEZ (R190). Branches if the scalar is not positive. -/
  | blez (s : BitVec 5) (o : BitVec 18)
  /-- LOOP (R190). Decrements a scalar and branches while nonzero. -/
  | loopW (s : BitVec 5) (o : BitVec 18)
  /-- JMP (R189). Jumps to a label. -/
  | jmp (o : BitVec 20)
  /-- CALL (R192). Pushes the link stack, slides the window and jumps. -/
  | callW (l : BitVec 4) (o : BitVec 20)
  /-- JMPI (R191). Jumps to a code offset held in a scalar. -/
  | jmpi (s : BitVec 5)
  /-- TRAP (R193). Raises a lane trap in every active lane. -/
  | trapW (c : BitVec 16)
  /-- BRP (R195). Branches per slice on a predicate, pushing a mask entry. -/
  | brp (p : BitVec 3) (o : BitVec 18)
  /-- REGANG (R198). Arms a join label on the join stack. -/
  | regang (o : BitVec 18)
  /-- LD (R264). Relaxed per-lane load, optionally bypassed. -/
  | ld (d : BitVec 6) (b : BitVec 3) (o : BitVec 6) (w : BitVec 3) (y : BitVec 1) (p : BitVec 3)
  /-- LD_ACQ (R265). Acquire load at a scope. -/
  | ldAcq (d : BitVec 6) (b : BitVec 3) (o : BitVec 6) (w : BitVec 3) (s : BitVec 4) (p : BitVec 3)
  /-- ST (R264). Relaxed per-lane store, optionally bypassed. -/
  | st (d : BitVec 6) (b : BitVec 3) (o : BitVec 6) (w : BitVec 3) (y : BitVec 1) (p : BitVec 3)
  /-- ST_REL (R265). Release store at a scope. -/
  | stRel (d : BitVec 6) (b : BitVec 3) (o : BitVec 6) (w : BitVec 3) (s : BitVec 4) (p : BitVec 3)
  /-- LDS (R267). Loads from own or sibling scratchpad. -/
  | lds (d : BitVec 6) (o : BitVec 6) (w : BitVec 3) (y : BitVec 1) (t : BitVec 3) (p : BitVec 3)
  /-- STS (R267). Stores to own or sibling scratchpad. -/
  | sts (d : BitVec 6) (o : BitVec 6) (w : BitVec 3) (y : BitVec 1) (t : BitVec 3) (p : BitVec 3)
  /-- ATOM_ADD (R270). Atomic add returning the old value. -/
  | atomAdd (d : BitVec 6) (b : BitVec 3) (o : BitVec 4) (a : BitVec 4) (t : BitVec 2) (p : BitVec 3)
  /-- ATOM_MIN (R270). Atomic minimum. -/
  | atomMin (d : BitVec 6) (b : BitVec 3) (o : BitVec 4) (a : BitVec 4) (t : BitVec 2) (p : BitVec 3)
  /-- ATOM_MAX (R270). Atomic maximum. -/
  | atomMax (d : BitVec 6) (b : BitVec 3) (o : BitVec 4) (a : BitVec 4) (t : BitVec 2) (p : BitVec 3)
  /-- ATOM_AND (R270). Atomic and. -/
  | atomAnd (d : BitVec 6) (b : BitVec 3) (o : BitVec 4) (a : BitVec 4) (t : BitVec 2) (p : BitVec 3)
  /-- ATOM_OR (R270). Atomic or. -/
  | atomOr (d : BitVec 6) (b : BitVec 3) (o : BitVec 4) (a : BitVec 4) (t : BitVec 2) (p : BitVec 3)
  /-- ATOM_XOR (R270). Atomic xor. -/
  | atomXor (d : BitVec 6) (b : BitVec 3) (o : BitVec 4) (a : BitVec 4) (t : BitVec 2) (p : BitVec 3)
  /-- ATOM_XCHG (R270). Atomic exchange. -/
  | atomXchg (d : BitVec 6) (b : BitVec 3) (o : BitVec 4) (a : BitVec 4) (t : BitVec 2) (p : BitVec 3)
  /-- ATOM_CAS (R270). Atomic compare and swap. -/
  | atomCas (d : BitVec 6) (b : BitVec 3) (o : BitVec 4) (a : BitVec 4) (t : BitVec 2) (p : BitVec 3)
  /-- ATOM_FADD (R270). Atomic floating add. -/
  | atomFadd (d : BitVec 6) (b : BitVec 3) (o : BitVec 4) (a : BitVec 4) (t : BitVec 2) (p : BitVec 3)
  /-- ATOMG (R271). One group-aggregated atomic add returning prefixes. -/
  | atomg (d : BitVec 6) (b : BitVec 3) (o : BitVec 4) (a : BitVec 4) (t : BitVec 2) (p : BitVec 3)
  /-- ATOMS_ADD (R270). Scratchpad atomic add. -/
  | atomsAdd (d : BitVec 6) (o : BitVec 4) (a : BitVec 4) (t : BitVec 2) (p : BitVec 3)
  /-- ATOMS_MIN (R270). Scratchpad atomic minimum. -/
  | atomsMin (d : BitVec 6) (o : BitVec 4) (a : BitVec 4) (t : BitVec 2) (p : BitVec 3)
  /-- ATOMS_MAX (R270). Scratchpad atomic maximum. -/
  | atomsMax (d : BitVec 6) (o : BitVec 4) (a : BitVec 4) (t : BitVec 2) (p : BitVec 3)
  /-- ATOMS_AND (R270). Scratchpad atomic and. -/
  | atomsAnd (d : BitVec 6) (o : BitVec 4) (a : BitVec 4) (t : BitVec 2) (p : BitVec 3)
  /-- ATOMS_OR (R270). Scratchpad atomic or. -/
  | atomsOr (d : BitVec 6) (o : BitVec 4) (a : BitVec 4) (t : BitVec 2) (p : BitVec 3)
  /-- ATOMS_XOR (R270). Scratchpad atomic xor. -/
  | atomsXor (d : BitVec 6) (o : BitVec 4) (a : BitVec 4) (t : BitVec 2) (p : BitVec 3)
  /-- ATOMS_XCHG (R270). Scratchpad atomic exchange. -/
  | atomsXchg (d : BitVec 6) (o : BitVec 4) (a : BitVec 4) (t : BitVec 2) (p : BitVec 3)
  /-- ATOMS_CAS (R270). Scratchpad compare and swap. -/
  | atomsCas (d : BitVec 6) (o : BitVec 4) (a : BitVec 4) (t : BitVec 2) (p : BitVec 3)
  /-- ATOMS_FADD (R270). Scratchpad atomic floating add. -/
  | atomsFadd (d : BitVec 6) (o : BitVec 4) (a : BitVec 4) (t : BitVec 2) (p : BitVec 3)
  /-- ATOMG_SCRATCH (R271). Group-aggregated atomic add on scratchpad. -/
  | atomgScratch (d : BitVec 6) (o : BitVec 4) (a : BitVec 4) (t : BitVec 2) (p : BitVec 3)
  /-- SDIST (R272). Returns each named tile's distance without touching. -/
  | sdist (d : BitVec 6) (b : BitVec 3) (o : BitVec 6) (p : BitVec 3)
  /-- SPIN (R307). Pins a tile into the pin bay. -/
  | spin (d : BitVec 6) (b : BitVec 3) (o : BitVec 6) (p : BitVec 3)
  /-- SUNPIN (R308). Unpins a tile back to distance 0. -/
  | sunpin (b : BitVec 3) (o : BitVec 6) (p : BitVec 3)
  /-- SBYP (R310). Sets a tile's bypass attribute. -/
  | sbyp (b : BitVec 3) (o : BitVec 6) (p : BitVec 3)
  /-- SCLR (R310). Clears a tile's bypass attribute. -/
  | sclr (b : BitVec 3) (o : BitVec 6) (p : BitVec 3)
  /-- STOUCH (R272). Touches a tile without data. -/
  | stouch (b : BitVec 3) (o : BitVec 6) (p : BitVec 3)
  /-- BSET (R258). Fills a base register by translating its base. -/
  | bset (n : BitVec 3) (s : BitVec 5)
  /-- BLIM (R259). Sets a base register's directly served span. -/
  | blim (n : BitVec 3) (s : BitVec 5)
  /-- LDU_B32 (R262). Uniform 32-bit load into a scalar. -/
  | lduB32 (d : BitVec 5) (n : BitVec 3)
  /-- LDU_B64 (R262). Uniform 64-bit load into a scalar. -/
  | lduB64 (d : BitVec 5) (n : BitVec 3)
  /-- WAITC (R274). Waits until the outstanding counters fall to given values. -/
  | waitc (l : BitVec 6) (s : BitVec 6) (b : BitVec 4) (t : BitVec 5)
  /-- WAITB (R253). Waits for copy batches up to a number. -/
  | waitb (s : BitVec 5)
  /-- WAITV (R275). Waits until a memory word differs from a value. -/
  | waitv (b : BitVec 3) (s : BitVec 5)
  /-- BINIT (R277). Initialises a barrier register. -/
  | binit (s : BitVec 5) (w : BitVec 4)
  /-- BARV (R277). Arrives once for the group at a barrier register. -/
  | barv (w : BitVec 4)
  /-- BEXP (R277). Declares bytes that copy jobs will land. -/
  | bexp (s : BitVec 5) (w : BitVec 4)
  /-- BWAIT (R249). Waits until a barrier phase bit differs from the parity. -/
  | bwait (s : BitVec 5) (w : BitVec 4)
  /-- BTEST (R277). Reads a barrier register into a scalar. -/
  | btest (d : BitVec 5) (w : BitVec 4)
  /-- FENCE (R278). Orders the group's accesses at a scope. -/
  | fence (s : BitVec 4)
  /-- CPY (R282). Issues a memory-to-memory copy job. -/
  | cpy (s : BitVec 5) (w : BitVec 4) (q : BitVec 1)
  /-- CPYG (R282). Issues a scratch-to-memory copy job. -/
  | cpyg (s : BitVec 5) (w : BitVec 4) (q : BitVec 1)
  /-- CPYS (R282). Issues a memory-to-scratch copy job. -/
  | cpys (s : BitVec 5) (w : BitVec 4) (q : BitVec 1)
  /-- CPYC (R282). Issues a memory-to-operand-buffer copy job. -/
  | cpyc (s : BitVec 5) (w : BitVec 4) (q : BitVec 1)
  /-- CLOSE (R252). Seals the pending copy batch with a sequence number. -/
  | close (d : BitVec 5)
  /-- EMIT (R288). Places a launch record, parking while the store is full. -/
  | emit (a : BitVec 5) (b : BitVec 5)
  /-- EMIT_NB (R288). Places a launch record or reports refusal in a predicate. -/
  | emitNb (a : BitVec 5) (b : BitVec 5) (n : BitVec 3)
  /-- RDSYS (R289). Reads a system register into a scalar. -/
  | rdsys (d : BitVec 5) (n : BitVec 11)
  /-- WRSYS (R289). Writes a system register from a scalar. -/
  | wrsys (s : BitVec 5) (n : BitVec 11)
  /-- TICK (R290). Reads the global tick. -/
  | tick (d : BitVec 5)
  /-- CYC (R290). Reads the group's resident-cycle count. -/
  | cyc (d : BitVec 5)
  /-- TIMER_RES (R291). Arms the group timer in resident cycles. -/
  | timerRes (s : BitVec 5)
  /-- TIMER_WALL (R291). Arms the group timer at a global tick. -/
  | timerWall (s : BitVec 5)
  /-- HALTX (R293). Halts the issuing team with a code. -/
  | haltx (c : BitVec 12)
  /-- SHOOT (R293). Shoots down translations across the polder. -/
  | shoot (s : BitVec 5)
  /-- MMQ (R226). Dense matrix product into an accumulator slot per quarter. -/
  | mmq (c : BitVec 4) (a : BitVec 6) (o : BitVec 3) (f : BitVec 4) (r : BitVec 1) (k : BitVec 5) (p : BitVec 3)
  /-- MMS (R227). Structured-sparse matrix product into an accumulator slot. -/
  | mms (c : BitVec 4) (a : BitVec 6) (o : BitVec 3) (f : BitVec 4) (r : BitVec 1) (k : BitVec 5) (p : BitVec 3)
  /-- OBRES (R212). Binds an operand-buffer reservation record. -/
  | obres (s : BitVec 5) (o : BitVec 3)
  /-- OBREL (R213). Releases an operand-buffer record. -/
  | obrel (o : BitVec 3)
  /-- OBLD (R214). Copies units from memory into a record. -/
  | obld (s : BitVec 5) (t : BitVec 5) (o : BitVec 3)
  /-- SCFIFO (R220). Sets a record's expected scale count. -/
  | scfifo (s : BitVec 5) (o : BitVec 3)
  /-- SCPUSH (R220). Pushes scale codes into the team scale FIFO. -/
  | scpush (s : BitVec 5) (t : BitVec 5)
  /-- SCCACHE (R222). Sets a record's scale-cache base and shift. -/
  | sccache (s : BitVec 5) (t : BitVec 5)
  /-- ACCZ (R231). Zeroes an accumulator slot. -/
  | accz (c : BitVec 4)
  /-- ACCLD (R231). Loads an accumulator slot from memory. -/
  | accld (s : BitVec 5) (c : BitVec 4)
  /-- ACCST (R231). Stores an accumulator slot to memory. -/
  | accst (s : BitVec 5) (c : BitVec 4)
  /-- ACCRST (R232). Registers the group's restart label. -/
  | accrst (i : BitVec 5)
  /-- SNPUT (R468). Deposits a snapshot node under a parent. -/
  | snput (d : BitVec 6) (a : BitVec 6) (b : BitVec 6)
  /-- SNFIND (R469). Looks up the deepest matching node and holds it. -/
  | snfind (d : BitVec 6) (a : BitVec 6) (b : BitVec 6)
  /-- SNGET (R470). Reads a node's payload or installs its page lists. -/
  | snget (d : BitVec 6) (a : BitVec 6)
  /-- SNREL (R471). Releases one hold on a node. -/
  | snrel (a : BitVec 6)
  /-- KVMAP (R472). Reports the status of sequence-store positions. -/
  | kvmap (d : BitVec 6) (a : BitVec 6) (b : BitVec 6) (p : BitVec 3)
  /-- KVAPP (R473). Appends one position per quarter to the sequence store. -/
  | kvapp (d : BitVec 6) (a : BitVec 6) (b : BitVec 6) (p : BitVec 3)
  /-- KVCOMMIT (R474). Commits a sequence to a length. -/
  | kvcommit (a : BitVec 6) (b : BitVec 6)
  /-- KVFREE (R475). Closes a sequence and releases its pages. -/
  | kvfree (a : BitVec 6)
  /-- HIMM (R36). Supplies upper immediate bits to the next word. -/
  | himm (p : BitVec 22)
  /-- HOFF (R90). Supplies a byte displacement to the next word. -/
  | hoff (p : BitVec 22)
  /-- HSCHED (R54). Sets yield, stall and pairing of the next word. -/
  | hsched (m : BitVec 2) (s : BitVec 4) (y : BitVec 1)
  /-- HMOD (R98). Supplies rounding, saturation, ftz and inf modifiers. -/
  | hmod (i : BitVec 1) (f : BitVec 1) (s : BitVec 1) (m : BitVec 3)
  /-- HREG (R90). Supplies a fourth register operand. -/
  | hreg (r : BitVec 6)
  /-- HSCOPE (R97). Supplies order and scope to an atomic or WAITV. -/
  | hscope (o : BitVec 2) (s : BitVec 4)
  /-- HAREG (R96). Extends an atomic's register numbers. -/
  | hareg (a : BitVec 2) (o : BitVec 2)
  /-- HMARK (R96). Attaches a trace marker to the next word. -/
  | hmark (m : BitVec 16)
  /-- RET (R192). Pops the link stack and restores the window base. -/
  | ret
  /-- EXIT (R194). Completes as FENCEX and ends the active lanes. -/
  | exitW
  /-- RCV (R196). Switches or pops the top mask entry, rejoining wave splits. -/
  | rcv
  /-- YIELD (R276). Makes the group ineligible for 64 cycles and sets its yielding mark. -/
  | yieldW
  /-- FENCEX (R279). Seals, waits for all counters, fences at system and delivers deferred faults. -/
  | fencex
  /-- LOAD_RETURN (R52). A variable-latency result is written and its counter falls: of a slice, or register j of lane l alone for
  8 + 32·j + l. -/
  | loadReturn (op slice : Nat)
  /-- MATRIX_WORD_COMPLETE (R204). A matrix-major word completes in the matrix unit and tl falls. -/
  | matrixWordComplete (core : Nat)
  /-- JOIN_COMPLETE (R198). Every live slice waits at the armed label and the join completes. -/
  | joinComplete (team g : Nat)
  /-- RCV_RELEASE (R197). Partners of a wave split all wait and are released together. -/
  | rcvRelease (team g : Nat) (at_ : Word)
  /-- TIMER_FIRE (R292). The group timer reaches its deadline and ends waits. -/
  | timerFire (team g : Nat)
  /-- YIELD_EXPIRE (R276). The 64 ineligible cycles of a YIELD end. -/
  | yieldExpire (team g : Nat)
  /-- HANDLER_FORMATION (R381). The trap collector forms a handler group from pending entries. -/
  | handlerFormation (team : Nat)
  /-- TRAP_RELEASE (R387). An origin slice acts on its dispositions in the cycle after the last. -/
  | trapRelease (team g : Nat) (slices : BitVec 8)
  /-- JOB_ACCEPT (R283). The copy unit accepts or rejects a job whole. -/
  | jobAccept (team job : Nat)
  /-- JOB_LAND (R247). Bytes of a copy job land on its barrier register. -/
  | jobLand (team job row lo n : Nat)
  /-- JOB_COMPLETE (R286). A copy job completes and may complete its batch. -/
  | jobComplete (team job : Nat)
  /-- JOB_STOP (R285). A copy job stops on a fault after acceptance. -/
  | jobStop (team job : Nat)
  /-- ENGINE_STEP (R451). The snapshot or sequence engine performs one operation. -/
  | engineStep (polder op : Nat)
  /-- ADMISSION (R311). The quarter front admits pending spiral requests into slots. -/
  | admission (q : Nat)
  /-- FILL_LANDS (R315). A tile's fill data arrives and waiting accesses are served. -/
  | fillLands (q tile : Nat)
  /-- WRITE_BACK_AT_HOME (R317). Dirty bytes reach the home, which invalidates other sharers. -/
  | writeBackAtHome (entry : Nat)
  /-- DRAIN_REQUEST (R318). A quarter writes back every dirty tile on a drain request. -/
  | drainRequest (home q : Nat)
  /-- MASK_DRAIN (R318). A home drains a quarter whose mask bit stood 65,536 cycles. -/
  | maskDrain (home q : Nat)
  /-- BACK_INVALIDATION (R490). A pool back-invalidation removes a tile from every quarter. -/
  | backInvalidation (line : Nat)
  /-- HOST_SNOOP (R352). A host snoop writes back and removes a tile's copies. -/
  | hostSnoop (line : Nat)
  /-- HOST_READ (R353). A host read of exposed device memory is served at the home. -/
  | hostRead (pa n : Nat)
  /-- HOST_WRITE (R353). A host write to exposed device memory merges at the home. -/
  | hostWrite (pa n value : Nat)
  /-- PEER_REQUEST (R436). A peer request arrives over a link and is translated at the home. -/
  | peerRequest (link kind asid va n value : Nat)
  /-- FLIT_RECEIVE (R495). A link receives a flit and acknowledges or asks replay. -/
  | flitReceive (link seq : Nat) (good : Bool)
  /-- REPLAY (R495). The sender resends flits in order from the first bad one. -/
  | replay (link : Nat)
  /-- LINK_RETRAIN (R495). A flit replayed eight times retrains the link and reroutes. -/
  | linkRetrain (link : Nat)
  /-- HOLD (R495). A HOLD stops the sender starting new flits. -/
  | hold (link : Nat)
  /-- GO (R495). A GO lets the sender resume flits. -/
  | go (link : Nat)
  /-- POOL_LINK_LOST (R492). A pool link or expander is lost and its regions become LOST. -/
  | poolLinkLost (port : Nat) (expander : Option Nat)
  /-- DEGRADED_SERVICE (R492). A port or expander reports degraded service. -/
  | degradedService (region : Nat)
  /-- SERVICE_RESTORED (R492). Degraded service is restored. -/
  | serviceRestored (region : Nat)
  /-- ONLINE (R492). RGCMD ONLINE brings a fenced region online. -/
  | online (region : Nat)
  /-- REGION_FENCE (R492). RGCMD FENCE writes back and fences a region. -/
  | regionFence (region : Nat)
  /-- REHOME (R492). RGCMD REHOME writes stranded tiles back and onlines a lost region. -/
  | rehome (region : Nat)
  /-- DISCARD (R492). RGCMD DISCARD drops stranded tiles and fences a lost region. -/
  | discard (region : Nat)
  /-- CLOSE_REFUSE (R483). Closes the sluice unless some queue holds work. -/
  | closeRefuse (polder : Nat)
  /-- CLOSE_DRAIN (R483). Starts closing the sluice after work drains. -/
  | closeDrain (polder : Nat)
  /-- OPEN (R483). Opens the sluice and resumes packet reading. -/
  | openSluice (polder : Nat)
  /-- SLUICE_CLOSED (R483). A CLOSING sluice becomes CLOSED once no queue holds work. -/
  | sluiceClosed (polder : Nat)
  /-- PSHAPE_WRITE (R484). Reshapes polders or refuses with a reason. -/
  | pshapeWrite (q : Nat) (v : DWord)
  /-- BIAS_FLIP (R489). BIASCMD flips one page between device and host bias. -/
  | biasFlip (polder : Nat) (v : DWord)
  /-- QTAIL_WRITE (R401). Submits the packets from HEAD to TAIL of a queue. -/
  | qtailWrite (polder queue : Nat) (v : DWord)
  /-- QCFG_WRITE (R400). Configures a queue, ignored while enabled except clearing ENABLE. -/
  | qcfgWrite (polder queue : Nat) (v : DWord)
  /-- TOKEN_WRITE (R403). The host writes a dependence token count. -/
  | tokenWrite (polder token : Nat) (v : DWord)
  /-- NO_OPERATION (R404). A TYPE 0 packet is read and does nothing. -/
  | noOperation (polder queue : Nat)
  /-- KERNEL_LAUNCH (R405). A TYPE 1 packet starts a launch after checks and ordering. -/
  | kernelLaunch (polder queue : Nat)
  /-- SIGNAL_ONLY (R408). A TYPE 2 packet starts, signals its token and reports. -/
  | signalOnly (polder queue : Nat)
  /-- PREFIX_LOOKUP (R455). The launch unit walks the snapshot tree over the input. -/
  | prefixLookup (launch : Nat)
  /-- LAUNCH_COMPLETE (R408). A launch completes, signals its token and writes its report. -/
  | launchComplete (launch : Nat)
  /-- PLACE_TEAM (R410). The distributor places a waiting team or cluster on a core. -/
  | placeTeam (polder q : Nat)
  /-- CANDIDATE_RESERVED (R411). A candidate skipped for 65,536 cycles becomes reserved. -/
  | candidateReserved (team : Nat)
  /-- FORWARD_PROGRESS_SWAP (R416). At count 4,096 a core swaps out its stalest team. -/
  | forwardProgressSwap (core : Nat)
  /-- DISPATCH_RECORD (R419). The dispatcher places EMIT records into node input queues. -/
  | dispatchRecord (polder : Nat)
  /-- NODE_TEAM_CREATE (R420). A node team is created when THRESH records stand or the launch is idle. -/
  | nodeTeamCreate (launch node : Nat)
  /-- NODE_TIMEOUT (R420). A node's oldest record exceeds TIMEOUT and a team is created. -/
  | nodeTimeout (launch node : Nat)
  /-- CREATE (R426). Loads a context descriptor and makes the context live. -/
  | create (polder ctx : Nat)
  /-- QUOTA (R426). Reloads a context's local and replica quotas. -/
  | quota (polder ctx : Nat)
  /-- SYNC (R426). Writes REPLUSED counts into the context table. -/
  | sync (polder ctx : Nat)
  /-- PREEMPT (R426). Switches out every resident team of a context. -/
  | preempt (polder ctx : Nat)
  /-- RESUME (R426). Allows a context's waiting teams to be placed again. -/
  | resume (polder ctx : Nat)
  /-- TEARDOWN (R444). Tears a context down, ending its teams and launches. -/
  | teardown (polder ctx : Nat)
  /-- SHOOTALL (R426). Removes every translation of a context's ASID. -/
  | shootall (polder ctx : Nat)
  /-- RETRY (R435). Fault response: waiting parties translate again. -/
  | retry (polder index : Nat)
  /-- DENY (R435). Fault response: waiting parties halt, stop or get poison. -/
  | deny (polder index : Nat)
  /-- DUPFILL (R437). Fault response: replicates a peer page into a local frame. -/
  | dupfill (polder index frame : Nat)
  /-- SPFLUSH (R329). Flushes a context's tiles from a quarter's spiral. -/
  | spflush (q : Nat) (v : DWord)
  /-- BROLE_WRITE (R75). Reassigns bank roles, refused while a team is resident. -/
  | broleWrite (core : Nat) (v : DWord)
  /-- PIPE_RATIO_WRITE (R50). Sets pipe clock ratios from the next phase 0. -/
  | pipeRatioWrite (core : Nat) (v : DWord)
  /-- THSET (R503). Sets THALW of a sensor region from the next window. -/
  | thset (v : DWord)
  /-- FEATON_WRITE (R511). Sets a polder's enabled features, refused while in use. -/
  | featonWrite (polder n : Nat) (v : DWord)
  /-- SENSOR_SAMPLE (R501). Each DRAM sensor is sampled every 100 µs. -/
  | sensorSample (region : Nat) (temp : BitVec 12)
  /-- REFRESH (R502). A channel refreshes at its tREFI interval. -/
  | refresh (channel length : Nat)
  /-- THERMAL_WINDOW (R71). A 1,400-tick window begins and the heavy-issue count resets. -/
  | thermalWindow
  /-- SCRUB (R508). A channel scrubs its memory for errors. -/
  | scrub (unit : Nat)
  /-- RETENTION_ENTRY (R505). An idle core enters retention. -/
  | retentionEntry (core : Nat)
  /-- RETENTION_EXIT (R506). A core chosen for placement leaves retention. -/
  | retentionExit (core : Nat) (parityOk : Bool)
  /-- RESET (R13). Reset ends the power-on span and clears all state. -/
  | reset
  /-- POWER_LOSS (R13). Power loss ends the power-on span. -/
  | powerLoss
  /-- RELEASE_FROM_RESET (R513). Boot ROM verifies firmware and boots or enters recovery. -/
  | releaseFromReset (ok0 ok1 : Bool) (svn0 svn1 : BitVec 16)
  /-- READY_SET (R512). Firmware sets a READY bit as a function passes self-test. -/
  | readySet (bits : DWord)
  /-- GET_VERSION (R514). SPDM request for supported versions. -/
  | getVersion (fn : Nat)
  /-- GET_CAPABILITIES (R514). SPDM request for capabilities. -/
  | getCapabilities (fn : Nat)
  /-- NEGOTIATE_ALGORITHMS (R514). SPDM algorithm negotiation. -/
  | negotiateAlgorithms (fn : Nat)
  /-- GET_DIGESTS (R514). SPDM request for certificate digests. -/
  | getDigests (fn : Nat)
  /-- GET_CERTIFICATE (R514). SPDM request for the identity certificate. -/
  | getCertificate (fn : Nat)
  /-- CHALLENGE (R514). SPDM challenge answered with a signature. -/
  | challenge (fn : Nat)
  /-- GET_MEASUREMENTS (R514). SPDM request for firmware and FEATON measurements. -/
  | getMeasurements (fn : Nat)
  /-- KEY_EXCHANGE (R514). SPDM key exchange opening a secured session. -/
  | keyExchange (fn : Nat)
  /-- FINISH (R514). SPDM finish completing a secured session. -/
  | finish (fn : Nat)
  /-- KEY_LOAD (R514). A vendor-defined secured message loads a key slot. -/
  | keyLoad (fn slot : Nat) (data tweak : BitVec 256)
  /-- STOP_TICK (R520). The global tick reaches STOPTICK and every clock is gated. -/
  | stopTick
  /-- EXEC (R524). The debug agent issues stuffed words in a halted group. -/
  | execWords (core : Nat) (v : DWord)
  /-- DBG_RESUME (R524). The debug agent resumes a halted team. -/
  | dbgResume (core : Nat)
  /-- HALT (R524). The debug agent raises BREAK in a selected group. -/
  | halt (core : Nat)
  /-- CLR (R523). Clears every lane-cycle count and loads LCRT0. -/
  | clr (core : Nat)
  /-- REG_WRITE (R25). A write to a register without behaviour of its own. -/
  | regWrite (space : Nat) (num : Nat) (v : DWord)
  /-- NOT_AN_INSTRUCTION (R115). A fetched word that is not an instruction, or a slice running past the code section end, raises ILLOP and halts the team. -/
  | notAnInstruction (word : Option Word)
  /-- LINE_FILL (R64). A register line fill from the context image completes and the line becomes resident. -/
  | lineFill (team g line : Nat)
  /-- MOTION_END (R314). A tile touched at distance 256 or more stops being in motion 28 + floor(d/512) cycles after admission. -/
  | motionEnd (q tile : Nat)
  /-- CYCLE_END (R70). At the end of each cycle the freeboard level recharges by RATE, and the lane-cycle record and forward-progress count advance. -/
  | cycleEnd
  /-- POOL_LINK_UP (R492). A pool port link that was down comes back up. -/
  | poolLinkUp (port : Nat)
  /-- LINK_TRAINED (R495). A Breson link finishes training or retraining and sets BLSTAT.UP. -/
  | linkTrained (link : Nat)
  /-- SNCFG_WRITE (R446). A write to SNCFG enables or disables the snapshot and sequence engines and reads every tree and store descriptor on enable. -/
  | sncfgWrite (polder : Nat) (v : DWord)
  /-- FQHEAD_WRITE (R435). The driver advances FQHEAD, freeing fault-queue slots for faults that wait to be queued. -/
  | fqheadWrite (polder : Nat) (v : DWord)
  /-- FQCFG_WRITE (R435). A write to FQCFG enables or disables the fault queue, and faults that were waiting begin to be queued. -/
  | fqcfgWrite (polder : Nat) (v : DWord)
  /-- READ_CLEAR (R25). A read of an RC register over BAR0 or the debug port returns its value and clears it. -/
  | readClear (space num : Nat)
  /-- SERVICE_KERNEL (R497). Firmware places a service kernel directly on a named core, as one team outside every launch queue:
  physical bases of its sections, bytes of code, groups by role, budget A of every role, scratchpad granules. -/
  | serviceKernel (core code len kdata kconst producer matrix vector budget scratch : Nat)
  deriving DecidableEq, Repr

end Sys2Proof
end

