-- ==== Sys2Proof/Machine/State.lean ====
section
/-! DEFINITION. The state of the KX-460 as plain data: everything INVENTORY.md's State section lists, each in one
home; the faults and refusals of the model; the state right after reset. -/
namespace Sys2Proof.Machine

/-- Why the model stops. None of these is a fault of the KX-460, whose faults are next states (13 R375). -/
inductive Fault where
  /-- Raised by every word's meaning when `iss` names no resident group: a word acts for an issuing sub-gang (02
  R45), so there is nothing for it to act on. Safe: the hardware never issues a word for no group. -/
  | noIssuer
  deriving DecidableEq, Repr

/-- What the model gives no meaning. -/
inductive Refusal where
  /-- Raised by the arms of `exec` of instructions that have no meaning yet, with the mnemonic. Safe. -/
  | notModelled (mnemonic : String)
  deriving DecidableEq, Repr

/-! ## Groups -/

/-- One entry of a slice's active-mask stack (05 R195). -/
structure MaskEntry where
  full : BitVec 4
  pend : BitVec 4
  pendPc : Word
  resumePc : Word
  deriving DecidableEq, Repr

/-- A word stuffed by the debug agent (23 R524, R526): the level of the DBGCMD writer, and the core whose debug registers run
the EXEC. -/
structure Stuffed where
  level : Nat
  agent : Nat
  deriving DecidableEq, Repr

/-- Why a slice does not issue (02 R45, 05 R197, R198, 13 R380). -/
inductive SliceWait where
  /-- It may issue. -/
  | running
  /-- It is inside the wait word at its PC (WAITC, and FENCEX, EXIT, EMIT, SNREL, KVFREE or SHOOT while they wait, not
  issuing). -/
  | inWord
  /-- It is inside the WAITB, WAITV or BWAIT at its PC, which a timer may end (08 R292). -/
  | inTimed
  /-- It waits at the armed REGANG label. -/
  | atJoin
  /-- It waits at the RCV at its PC. -/
  | atRcv
  /-- It waits for the dispositions of its trapped lanes. -/
  | onTrap
  deriving DecidableEq, Repr

/-- A slice: four lanes that share one program counter (00 R17, 02 R43). `disps` are the dispositions of its trapped lanes, the last of them
given in cycle `dispAt` (13 R386, R387). -/
structure Slice where
  pc : Word
  tag : Nat
  live : Bool
  present : BitVec 4
  active : BitVec 4
  stack : List MaskEntry
  hints : List (Nat × BitVec 22)
  bundle : Option Word
  landed : Bool
  wait : SliceWait
  partners : List Nat
  trapped : BitVec 4
  disps : List (Nat × Bool × Option (Word × Word))
  dispAt : Nat
  deriving DecidableEq, Repr

/-- The space of a base register (08 R258). -/
inductive Space where
  | virtual
  | scratch (rank : Nat)
  deriving DecidableEq, Repr

/-- Permissions of a page (16 R430). -/
structure Perm where
  r : Bool
  w : Bool
  x : Bool
  u : Bool
  deriving DecidableEq, Repr

/-- A base register (02 R61, 08 R258). `leaf` holds the two words of the leaf that BSET found, `more` those of the further pages that
BLIM took into the span, each with its offset. -/
structure BaseReg where
  valid : Bool
  space : Space
  vbase : BitVec 56
  frame : BitVec 52
  limit : Nat
  perm : Perm
  leaf : DWord × DWord
  more : List (Nat × (DWord × DWord))
  deriving DecidableEq, Repr

/-- The role of a group (07 R236, 13 R382). -/
inductive Role where
  | producer
  | matrix
  | vector
  | handler
  deriving DecidableEq, Repr

/-- A parked memory word (13 R377, 06 R527): the lanes not yet translated, the address its halt would name, the first
address on each page waited for, and whether it is the matrix unit that waits. -/
structure Park where
  mask : Lanes
  pc : Word
  addrs : List (Nat × Nat)
  unit : Bool
  deriving DecidableEq, Repr

/-- The reuse latch of the matrix unit for a group (06 R228): the lines it was read from, the format, the selected lanes, A with its
scales, and the metadata. -/
structure Latch where
  lines : List Nat
  fmt : Nat
  sel : Lanes
  rows : List Line
  metas : List Line
  deriving DecidableEq, Repr

/-- A restart registration (06 R232). -/
structure Restart where
  label : Word
  depth : Nat
  lanes : Lanes
  scaled : Bool
  deriving DecidableEq, Repr

/-- The timer of a group (08 R291): armed, mode (true: global ticks), deadline. -/
structure Timer where
  armed : Bool
  wall : Bool
  deadline : Nat
  late : Bool
  deriving DecidableEq, Repr

/-- The origin of a handler lane (13 R384): with the number of words its group had issued, and the identifier below which the accesses lie
that the collection releases (13 R385). -/
structure TrapEntry where
  cycle : Nat
  group : Nat
  lane : Nat
  pc : Word
  code : Nat
  operand : Word
  dest : Option Nat
  dbase : Nat
  seq : Nat
  issuedTo : Nat
  deriving DecidableEq, Repr

/-- Where a lane's bytes lie. -/
inductive Loc where
  | phys (pa : Nat) (leaf : DWord × DWord)
  | scratch (team : Nat) (off : Nat)
  | peer (dev : Nat) (va : Nat)
  deriving DecidableEq, Repr

/-- The places of a parked word's lanes that are translated (13 R377): the address of its bundle, its slices, and lane, address and place of
each, for the replay. -/
structure Kept where
  pc : Word
  slices : BitVec 8
  lanes : List (Nat × Nat × Loc)
  deriving DecidableEq, Repr

/-- The control state of a group that the core keeps (02 R62 and the rules INVENTORY.md names). After a RESUME the first issue at `bpSkip`
meets no breakpoint (23 R519); the accesses below `joinTo` are those that the last join or RCV of the group waits for (05 R200). -/
structure Ctl where
  ptr : Nat
  base : Nat
  links : List (Word × Nat)
  joins : List (Word × List Nat)
  lfsr : Word
  dz : Bool
  tfired : Bool
  tlate : Bool
  yielding : Bool
  yieldUntil : Option Nat
  stallUntil : Nat
  cyc : DWord
  timer : Timer
  fence : Option Nat
  park : Option Park
  emitting : Bool
  bpSkip : Option Word
  words : Nat
  readsTo : Nat
  joinTo : Nat
  kept : List Kept
  deriving DecidableEq, Repr

/-- The fault state of a group (13 R392-R398). -/
structure Flt where
  pending : List (Nat × BitVec 56)
  report : Bool
  count : BitVec 16
  first : BitVec 7
  codes : BitVec 7
  addr : BitVec 56
  valid : Bool
  state : Nat
  code : Nat
  skid : Nat
  stopPc : Word
  stopped : Bool
  deriving DecidableEq, Repr

/-- An error in a lane word of a register line, found when the word is read (02 R66): whether it is uncorrectable. -/
structure LineErr where
  line : Nat
  lane : Nat
  bad : Bool
  deriving DecidableEq, Repr

/-- A group (00 R17): eight slices and one copy of each register. -/
structure Group where
  num : Nat
  role : Role
  started : Bool
  slices : List Slice
  budget : Nat
  spill : Nat
  lines : List Line
  resident : List Bool
  dirty : List Bool
  lineErrs : List LineErr
  scalars : List DWord
  preds : List Lanes
  index : List (List (BitVec 16))
  bases : List BaseReg
  acc : List (List Word)
  latch : Option Latch
  restart : Option Restart
  ctl : Ctl
  flt : Flt
  origins : List TrapEntry
  deriving DecidableEq, Repr

/-! ## Teams -/

/-- A barrier register (07 R246). -/
structure Barrier where
  owed : BitVec 32
  phase : Bool
  err : Bool
  cwait : Bool
  cdone : Bool
  arr : BitVec 6
  exp : BitVec 6
  deriving DecidableEq, Repr

/-- An event of the present cycle on a barrier register, applied in the order of 07 R248. -/
inductive BarEvent where
  | binit (group : Nat) (n : BitVec 6)
  | declare (bytes : Nat)
  | land (bytes : Nat) (reject : Bool)
  | arrive
  deriving DecidableEq, Repr

/-- One unit of an operand-buffer range (06 R209): its tag and the scales attached to it. -/
structure ObUnit where
  tag : Option (BitVec 56)
  scales : Option (List Byte)
  deriving DecidableEq, Repr

/-- A reservation record (06 R209-R222). -/
structure ObRec where
  bound : Bool
  desc : DWord
  range : List Word
  units : List ObUnit
  expected : Nat
  popped : Nat
  scBase : DWord
  scShift : Nat
  scCache : List (Nat × Byte)
  deriving DecidableEq, Repr

/-- State of a copy job (08 R282-R286); a job that is done stays listed until its batch is sealed (07 R252). -/
inductive JobState where
  | issued
  | running
  | done
  deriving DecidableEq, Repr

/-- A copy job (08 R281): its form, card, posting register, and the destination bytes already written, one bit per
byte of each row. -/
structure Job where
  id : Nat
  form : Nat
  cardVa : BitVec 56
  card : BitVec 512
  post : Option Nat
  state : JobState
  landed : List Nat
  batch : Option (BitVec 32)
  page : Option Nat
  serviced : List Nat
  deriving DecidableEq, Repr

/-- What a launch gave the team (08 R295-R299, 15 R404). -/
structure LaunchVals where
  team : BitVec 32
  gridX : BitVec 32
  gridY : BitVec 32
  gridZ : BitVec 32
  kdata : BitVec 56
  kconst : BitVec 56
  pfxHit : Bool
  pfxNode : BitVec 22
  pfxPos : DWord
  pfxDepth : BitVec 24
  pfxTree : BitVec 8
  pfxIn : BitVec 56
  pfxLen : DWord
  largs : List DWord
  recBase : BitVec 56
  recNode : BitVec 16
  recCount : BitVec 11
  deriving DecidableEq, Repr

/-- The fault record of a team (13 R395, R396). -/
structure FaultRec where
  halted : Bool
  haltedAt : Nat
  defer : Bool
  sib : Bool
  pending : BitVec 8
  group : BitVec 6
  code : Nat
  pc : Word
  oper : BitVec 56
  tvValid : Bool
  tvOffset : Word
  handlers : BitVec 16
  killed : BitVec 16
  badDisp : BitVec 8
  lost : BitVec 8
  defExit : BitVec 16
  deriving DecidableEq, Repr

/-- Where a team stands (15 R409, 16 R441-R443). -/
inductive Place where
  /-- Never started, waiting to be placed. -/
  | fresh
  /-- Resident on a core, in a team slot. -/
  | resident (core slot : Nat)
  /-- Switched out at a cycle, waiting to be placed again. -/
  | out (cycle : Nat)
  deriving DecidableEq, Repr

/-- How a launch shapes its teams (15 R404). -/
structure Shape where
  groups : Nat
  matrix : Nat
  producer : Nat
  cluster : Nat
  scratch : Nat
  budget : Nat × Nat × Nat
  spill : Nat × Nat × Nat
  code : BitVec 56
  codeLen : Nat
  restarts : List Word
  image : BitVec 56
  level : Nat
  ctx : Option Nat
  qclass : Nat
  deriving DecidableEq, Repr

/-- A pending record at a node's queue (15 R419-R421): its bytes, length, the tick it was placed at, and its slot of the
overflow area where it stands there (R421). -/
structure NodeRec where
  bytes : BitVec 512
  len : Nat
  tick : Nat
  overflow : Option Nat
  deriving DecidableEq, Repr

/-- A word in a core's matrix queue (06 R203): issuer, word, captured operands, by whom it was stuffed, the address on the page it waited for,
kept until it completes (06 R224, R527), and what it has read so far of its block: the pieces, their bytes as one number, and the code and
operand of the first that was poisoned or dropped. -/
structure MxEntry where
  id : Nat
  team : Nat
  group : Nat
  instr : Instr
  pc : Word
  hints : List (Nat × BitVec 22)
  sel : Lanes
  sa : DWord
  sb : DWord
  rows : List Line
  metas : List Line
  stuffed : Option Stuffed
  held : Option Nat
  seq : Nat
  got : Nat × Nat × Option (Nat × Nat)
  deriving DecidableEq, Repr

/-- A team (00 R17, 07). `priv` is the privilege level its words run at: 0 app, 1 drv, 2 fw (00 R21). `records` are those
it was created for and has not yet been placed with (15 R421); its trap collector has been ready since `readySince` (13 R382); a `leaving` team is being switched out (16 R442). -/
structure Team where
  id : Nat
  launch : Option Nat
  node : Option Nat
  imageSlot : Nat
  shape : Shape
  vals : LaunchVals
  priv : Nat
  rank : Nat
  place : Place
  linesAt : Option Nat
  placedAt : Nat
  lastCounted : Nat
  skipped : Nat
  reserved : Bool
  groups : List Group
  handler : Option Group
  scratch : List Word
  bars : List Barrier
  barEvents : List (Nat × BarEvent)
  obs : List ObRec
  fifo : List (Nat × Byte)
  jobs : List Job
  lastBatch : BitVec 32
  batches : List (BitVec 32)
  holds : List Nat
  mxSaved : List MxEntry
  traps : List TrapEntry
  readySince : Option Nat
  fr : FaultRec
  records : List NodeRec
  leaving : Bool
  ended : Bool
  deriving DecidableEq, Repr

/-! ## Cores and quarters -/

/-- A word that issued in the present cycle, for the end-of-cycle accounts (02 R68, 23 R522). -/
structure Issued where
  team : Nat
  group : Nat
  pipe : Nat
  charge : Nat
  heavy : Bool
  counted : Bool
  hint : Bool
  pc : Word
  slices : BitVec 8
  active : Lanes
  sel : Lanes
  lines : List Nat
  deriving DecidableEq, Repr

/-- Why a word offered by a group is not taken in a cycle. -/
inductive Hold where
  /-- A counter stands at its maximum (02 R53). -/
  | counter
  /-- Too many lines are locked as destinations (02 R65). -/
  | locked
  /-- The matrix queue is full (06 R203). -/
  | queue
  /-- The current limit (02 R68). -/
  | current
  /-- The freeboard (02 R70). -/
  | freeboard
  /-- The thermal allowance (02 R71). -/
  | thermal
  /-- A line is not resident (02 R64). -/
  | lines
  /-- The matrix units are not ready (21 R512). -/
  | notReady
  /-- No pipe that takes it is free (02 R48, R49). -/
  | pipe
  deriving DecidableEq, Repr

/-- Clock, limits and counts of a core (02 R49, R68-R80, 15 R415, 21). `holds` gives what held words of the present cycle;
`swapped` says that a swap began in it, and `swapFor` is the team for which a swap frees the core's resources (15 R416). -/
structure CoreClk where
  phase : Nat
  issued : List Issued
  history : List Nat
  heavyHist : List Nat
  window : Nat
  pipeBusy : List Nat
  ratio : BitVec 12
  ratioNext : Option (BitVec 12)
  curLim : BitVec 20
  curLimNext : Option (BitVec 20)
  heldF : Bool
  thalw : BitVec 16
  thalwNext : Option (BitVec 16)
  rr : List Nat
  rrNext : Option Nat
  progress : Nat
  swapped : Bool
  swapFor : Option Nat
  holds : List Hold
  deriving DecidableEq, Repr

/-- Registers of a core for counting and selection (02, 09, 13, 19, 21, 23); `refHeld` says that a unit's load of the present cycle waits for a
refresh (21 R502). -/
structure CoreRegs where
  brole : DWord
  brrej : Bool
  holdTherm : BitVec 22
  holdFbd : BitVec 21
  holdCur : BitVec 21
  wback : BitVec 24
  fills : BitVec 24
  eccFix : BitVec 16
  spCtxSel : BitVec 6
  pqSel : BitVec 2
  rgSel : BitVec 8
  frSel : BitVec 5
  refStall : BitVec 32
  refHeld : Bool
  retIdle : BitVec 24
  retEnable : Bool
  retEntries : BitVec 32
  retReloads : BitVec 16
  asleep : Bool
  idle : Nat
  lru : List (Nat × Nat × Nat)
  stored : List DWord
  deriving DecidableEq, Repr

/-- A marker that a word of the present cycle put into its core's trace (23 R521). -/
structure TraceRec where
  group : Nat
  pc : Word
  marker : Nat
  asid : Nat
  deriving DecidableEq, Repr

/-- Debug registers of a core (23 R526), with the markers of the present cycle, whether LCRCTL.CLR was written in it, and the
lane classes of the groups that ended in it, as (bin, class, lanes). -/
structure CoreDbg where
  bp : List DWord
  lcrEn : Bool
  lcrCtx : BitVec 6
  lcrBin : BitVec 5
  lcrClass : BitVec 3
  counts : List (List (BitVec 48))
  lcrT0 : DWord
  lcrClr : Bool
  lcrOut : List (Nat × Nat × Nat)
  ranges : List DWord
  selCore : BitVec 8
  selSlot : BitVec 5
  selGroup : BitVec 6
  busy : Bool
  level : Nat
  status : BitVec 8
  fcode : BitVec 8
  done : BitVec 5
  count : BitVec 5
  data : DWord
  buf : List Word
  trcEn : Bool
  trcAddr : BitVec 40
  trcLog : BitVec 4
  trcPos : BitVec 32
  trcOut : List TraceRec
  deriving DecidableEq, Repr

/-- One leaf held by a TLB (16 R432): ASID, virtual base, log2 of its size, the two words of its entry. -/
structure TlbEntry where
  asid : BitVec 16
  vbase : Nat
  logSize : Nat
  w0 : DWord
  w1 : DWord
  deriving DecidableEq, Repr

/-- A valid non-leaf entry that a quarter's walker caches (16 R432): an ASID, the lowest address bit the entry indexes, the addresses above it,
and the table it names. -/
structure WalkEntry where
  asid : BitVec 16
  lo : Nat
  above : Nat
  table : Nat
  deriving DecidableEq, Repr

/-- A request waiting at a quarter's front, presented by a core (09 R311). -/
structure Req where
  core : Nat
  op : Nat
  tile : Nat
  lanes : Lanes
  bypass : Bool
  deriving DecidableEq, Repr

/-- A core. -/
structure Core where
  clk : CoreClk
  regs : CoreRegs
  dbg : CoreDbg
  tlb : List TlbEntry
  mx : List MxEntry
  reqs : List Req
  deriving DecidableEq, Repr

/-- A tile's copy in a quarter (09 R304-R320). The owner is a context's number, 64 a service kernel's. `queue` lists the accesses admitted while its fill is awaited, as
(operation, lanes). `errs` lists the latent errors of its 64-byte units, found when the unit is read (21 R507), as (unit, uncorrectable). -/
structure Copy where
  tile : Nat
  owner : Option Nat
  keyslot : Option Nat
  data : BitVec 32768
  valid : BitVec 4096
  dirty : BitVec 4096
  poison : BitVec 64
  errs : List (Nat × Bool)
  filling : Bool
  motion : Option Nat
  queue : List (Nat × Lanes)
  leaf : DWord × DWord
  deriving DecidableEq, Repr

/-- Quotas and charges of one context in one quarter (09 R324, R325). -/
structure Quota where
  pins : BitVec 11
  tiles : BitVec 15
  wback : BitVec 32
  fills : BitVec 32
  deriving DecidableEq, Repr

/-- An entry of the bypass table (09 R310): the tile, the context that set it, and the address it was set under. -/
structure ByEntry where
  tile : Nat
  ctx : Nat
  asid : Option (BitVec 16)
  va : Nat
  deriving DecidableEq, Repr

/-- A quarter (00 R2). The chain lists its tiles by distance. A bay slot holds its copy and who pinned it; a stranded
tile (R320) has no pinner. `frontDone` says that the front has run in this cycle, `cycleSlots` which slots of the cycle are filled, each with the tile it touches if any,
and `unitHeld` that a unit's request was not admitted in it. `flush` lists the tiles that a running flush makes leave (R329). -/
structure Quarter where
  chain : List Copy
  bay : List (Option (Copy × Option Nat))
  bypass : List ByEntry
  quotas : List Quota
  frontPtr : Nat
  frontDone : Bool
  cycleSlots : List (Option Nat)
  unitHeld : Bool
  held : BitVec 22
  merged : BitVec 21
  slots : BitVec 21
  budget : BitVec 11
  flushUnpin : Bool
  flushCtx : BitVec 6
  flush : Option (List Nat)
  level : Nat
  rate : BitVec 4
  rateNext : Option (BitVec 4)
  drawPtr : Nat
  masks : BitVec 4
  maskAge : List Nat
  tlb : List TlbEntry
  walker : List WalkEntry
  ecc : List (BitVec 16)
  deriving DecidableEq, Repr

/-- The partition registers of a quarter (19 R478-R484). -/
structure Part where
  mask : BitVec 4
  rej : Bool
  why : BitVec 3
  drops : BitVec 16
  pass : BitVec 4
  passNext : Option (BitVec 4)
  irBase : List DWord
  irCfg : List DWord
  poolUp : Bool
  deriving DecidableEq, Repr

/-! ## Operations in flight -/

/-- What an outstanding memory operation does. -/
inductive OpKind where
  | load
  | store
  | atomic (op ty : Nat)
  | aggregate (ty : Nat)
  | uniform (dword : Bool)
  | dist
  | pin
  | unpin
  | setByp
  | clrByp
  | touch
  /-- A SEQ word (17 R465); its result is a scalar register or lanes of a vector register. -/
  | engine (scalar : Bool)
  deriving DecidableEq, Repr

/-- An outstanding operation of a group (07 R251, R254): lanes, places and data captured at issue; values served;
lanes not yet served and not yet written, and in `parts` the registers written by themselves in lanes that are not complete (02 R52). `scope` and `order` are those of the word (0 relaxed, 1 acquire, 2 release,
3 both), `page` an address on the page an engine's word waits for. -/
structure MemOp where
  id : Nat
  team : Nat
  group : Nat
  kind : OpKind
  width : Nat
  sel : Lanes
  slices : BitVec 8
  locs : List Loc
  vas : List Nat
  data : List (BitVec 256)
  data2 : List (BitVec 64)
  dst : Nat
  vals : List (BitVec 256)
  served : Lanes
  written : Lanes
  parts : List (Nat × Nat)
  scope : Nat
  order : Nat
  bypass : Bool
  byLd : Bool
  ctx : Option Nat
  instr : Instr
  pc : Word
  sa : DWord
  sb : DWord
  stuffed : Option Stuffed
  page : Option Nat
  deriving DecidableEq, Repr

/-- Dirty bytes of a tile on their way to its home (09 R306, R317). -/
structure WriteBack where
  quarter : Nat
  tile : Nat
  tier : Nat
  data : BitVec 32768
  mask : BitVec 4096
  poison : BitVec 64
  keyslot : Option Nat
  deriving DecidableEq, Repr

/-! ## Launches, contexts and polders -/

/-- Status of a launch (15 R402-R408). -/
inductive LaunchState where
  | waiting
  | running
  | complete
  deriving DecidableEq, Repr

/-- A node of a launch's graph (15 R418-R420). -/
structure Node where
  num : Nat
  thresh : Nat
  timeout : Nat
  shape : Shape
  kdata : BitVec 56
  kconst : BitVec 56
  queue : List NodeRec
  created : Nat
  slotsUsed : List Nat
  relaunch : Bool
  deriving DecidableEq, Repr

/-- A launch (15 R402-R408). `prev` is the launch before it in its queue; `denied` lists pages that the driver refused it. -/
structure Launch where
  id : Nat
  polder : Nat
  queue : Nat
  kind : Nat
  flags : BitVec 8
  shape : Shape
  vals : LaunchVals
  total : Nat
  made : Nat
  report : BitVec 56
  waitTok : Nat
  waitVal : BitVec 32
  sigTok : Nat
  state : LaunchState
  looked : Bool
  nodes : List Node
  hold : Option Nat
  ended : Nat
  defers : Nat
  discarded : Nat
  haltCode : Option Nat
  order : Nat
  skips : Nat
  torn : Bool
  refused : Option (Nat × Nat)
  prev : Option Nat
  denied : List Nat
  deriving DecidableEq, Repr

/-- A launch queue (15 R400). -/
structure Queue where
  enable : Bool
  logSize : BitVec 4
  ctx : BitVec 6
  prio : BitVec 3
  base : BitVec 44
  tail : BitVec 32
  head : BitVec 32
  subs : List (BitVec 32 × Nat)
  deriving DecidableEq, Repr

/-- A record an EMIT has sent to the dispatcher (15 R419), with the address at which the EMIT is repeated where its wait is abandoned. -/
structure Emission where
  cycle : Nat
  core : Nat
  team : Nat
  group : Nat
  node : Nat
  bytes : BitVec 512
  len : Nat
  pred : Option Nat
  slices : BitVec 8
  act : Lanes
  pc : Word
  deriving DecidableEq, Repr

/-- A context (16 R424-R426). `replicas` lists the replicas that REPLUSED counts since the context was created, as (64 KiB page, quota class)
(R437, R438). -/
structure Ctx where
  live : Bool
  polder : Nat
  asid : BitVec 16
  keyslot : BitVec 6
  peerExp : Bool
  root : DWord
  localQ : DWord
  localUsed : DWord
  replQ : List (BitVec 32)
  replUsed : List (BitVec 32)
  replicas : List (Nat × Nat)
  preempted : Bool
  deriving DecidableEq, Repr

/-- Who waits on a fault entry (16 R434). -/
inductive Waiter where
  | group (team g : Nat)
  | job (team job : Nat)
  | op (id : Nat)
  | matrix (core team : Nat)
  | lookup (launch : Nat)
  | place (team : Nat)
  | packet (polder queue : Nat)
  | peer (link kind asid va n value : Nat)
  | lane (op quarter l va : Nat)
  deriving DecidableEq, Repr

/-- An outstanding fault, or one waiting for the queue (16 R434). -/
structure FaultEntry where
  index : Option (BitVec 32)
  ctx : Nat
  page : Nat
  kind : Nat
  entry : BitVec 256
  waiters : List Waiter
  deriving DecidableEq, Repr

/-- A tree descriptor as read at enable (17 R447). -/
structure Tree where
  on : Bool
  tokens : Bool
  full : Bool
  pages : Bool
  log2g : Nat
  slotLog : Nat
  keyslot : Nat
  seed : Nat
  nbase : Nat
  ncount : Nat
  pbase : Nat
  store : Nat
  deriving DecidableEq, Repr

/-- A page of a sequence store (17 R458). -/
structure PageRec where
  page : Nat
  shares : Nat
  prov : Bool
  filled : Nat
  scale : Nat
  deriving DecidableEq, Repr

/-- One (layer, head) of a sequence (17 R458): NEXT and the entries (page, LIMIT) per page index. -/
structure HeadRec where
  layer : Nat
  head : Nat
  next : Nat
  entries : List (Nat × Nat × Nat)
  deriving DecidableEq, Repr

/-- An open sequence (17 R458). -/
structure Seq where
  num : Nat
  committed : Nat
  writer : Option Nat
  heads : List HeadRec
  deriving DecidableEq, Repr

/-- A sequence store as read at enable, with its page records and sequences (17 R456, R458). -/
structure Store where
  on : Bool
  pool : Bool
  layers : Nat
  heads : Nat
  keyslot : Nat
  maxSeq : Nat
  maxPos : Nat
  npages : Nat
  poolPa : Nat
  scalePa : Nat
  privPa : Nat
  pages : List PageRec
  seqs : List Seq
  deriving DecidableEq, Repr

/-- What an engine's access has met (19 R480, R492, 21 R512): a closed dike or no memory, with the address; a region that is LOST or FENCED, by
number; memory that is not ready. -/
inductive EngMet where
  | dropped (pa : Nat)
  | region (r : Nat)
  | notReady
  deriving DecidableEq, Repr

/-- The snapshot-tree and sequence-store engines of a polder (17 R446); `met` is what the accesses of its present step have met. -/
structure Engine where
  snTab : BitVec 31
  snTrees : BitVec 39
  kvTab : BitVec 39
  enable : Bool
  logNodes : BitVec 5
  evict : BitVec 24
  dedup : BitVec 24
  badRel : BitVec 16
  trees : List Tree
  stores : List Store
  met : List EngMet
  unread : Bool
  deriving DecidableEq, Repr

/-- The fault queue of a polder (16 R435). -/
structure FaultQ where
  base : BitVec 47
  enable : Bool
  logSize : BitVec 4
  head : BitVec 32
  tail : BitVec 32
  respOp : BitVec 2
  respFrame : BitVec 36
  respIndex : BitVec 16
  entries : List FaultEntry
  deriving DecidableEq, Repr

/-- A polder's own registers and units, kept under its lowest quarter (15, 16, 17, 19, 21). While a bias flip runs, `biasOps` names the
operations that were in flight when it began (11 R354). -/
structure Polder where
  queues : List Queue
  tokens : List (Nat × BitVec 32)
  plovf : BitVec 46
  plovfn : BitVec 24
  dispatched : Nat × Nat
  ctxTab : BitVec 38
  cmdBusy : Bool
  cmdStatus : BitVec 8
  cmdOp : BitVec 3
  cmdCtx : BitVec 6
  fq : FaultQ
  eng : Engine
  sluice : Nat
  sluiceStatus : BitVec 2
  sluiceIdle : Bool
  busyq : BitVec 7
  biasTo : Bool
  biasPage : BitVec 36
  biasStatus : BitVec 2
  biasOps : Option (List Nat)
  featOn : DWord × DWord
  featRej : Bool
  snReady : Bool
  spdm : Nat
  secure : Bool
  doe : BitVec 1024
  deriving DecidableEq, Repr

/-- State of a pool region (19 R491). -/
inductive RegionState where
  | online
  | degraded
  | lost
  | fenced
  deriving DecidableEq, Repr

/-- A pool region (19 R491-R493). -/
structure Region where
  base : BitVec 22
  size : BitVec 16
  expander : BitVec 8
  port : BitVec 2
  state : RegionState
  status : BitVec 8
  lostDirty : BitVec 16
  replFix : BitVec 16
  poisoned : BitVec 16
  recValid : Bool
  recAddr : BitVec 46
  recTeams : BitVec 12
  recSeen : List Nat
  deriving DecidableEq, Repr

/-- A Breson link (19 R494, R495). -/
structure Link where
  up : Bool
  dev : BitVec 8
  replays : BitVec 20
  holds : BitVec 16
  retrains : BitVec 8
  held : Bool
  rxSeq : BitVec 12
  tries : Nat
  deriving DecidableEq, Repr

/-- A key slot (16 R427, 21 R514). -/
structure KeySlot where
  loaded : Bool
  data : BitVec 256
  tweak : BitVec 256
  deriving DecidableEq, Repr

/-- A DRAM sensor region (21 R501, R504): its last sample, the number of the sampling instants taken, and, until firmware has written the
allowance of the last sample, the tick it was taken at. -/
structure Sensor where
  temp : BitVec 12
  hot : Bool
  sampled : Nat
  owed : Option Nat
  deriving DecidableEq, Repr

/-- The refreshes of a DRAM channel (21 R502): the tick of the next, and the tick at which the last ends. -/
structure Channel where
  refreshes : Nat
  nextRefresh : Nat
  busyTo : Nat
  deriving DecidableEq, Repr

/-- Device-wide registers and units (21, 23). -/
structure Dev where
  sensors : List Sensor
  channels : List Channel
  thRegion : BitVec 4
  thAllow : BitVec 16
  readyLink : BitVec 16
  readyDram : BitVec 16
  readyHost : Bool
  readyPool : BitVec 4
  readyMatrix : BitVec 4
  readySpiral : BitVec 4
  booted : Bool
  svn : BitVec 16
  recov : Bool
  slot : Bool
  fuseSvn : BitVec 16
  stopTick : DWord
  stopAt : Nat
  windowAt : Nat
  nextId : Nat
  deriving DecidableEq, Repr

/-- A 64-byte unit outside the device: of host or pool memory by number, or of a peer's memory by device, ASID and number. -/
inductive FarUnit where
  | phys (unit : Nat)
  | peer (device asid unit : Nat)
  deriving DecidableEq, Repr

/-- Home memory (19, 16 R427, 11 R358): bytes by physical address in canonical form (addresses strictly rising, no
entry equal to `Config.memDefault`); the key slot each 64-byte unit was written under; poisoned units; latent errors
(unit, uncorrectable); units outside the device at whose home an atomic fails (08 R270); pages in host bias; bytes of peer devices by (device, ASID, address). -/
structure Home where
  cells : List Host.Cell
  keys : List (Nat × Nat)
  poison : List Nat
  errors : List (Nat × Bool)
  farFaults : List FarUnit
  hostBias : List Nat
  peers : List ((Nat × Nat × Nat) × Byte)
  deriving DecidableEq, Repr

/-! ## The whole machine -/

/-- A group named by its team's identifier and its number (32: the handler group). -/
structure GRef where
  team : Nat
  g : Nat
  deriving DecidableEq, Repr

/-- The word now issuing (the model's own field, log 2): for which group and slices, the word's bits, and whether
the debug agent stuffed it (23 R524). -/
structure Issue where
  ref : GRef
  slices : BitVec 8
  word : Word
  stuffed : Option Stuffed
  deriving DecidableEq, Repr

/-- One entry of the agenda (the model's own field, log 2): a group issues its offered word, or an event happens. -/
inductive Turn where
  | issue (ref : GRef)
  | event (e : Instr)
  deriving DecidableEq, Repr

/-- What the machine does of itself when the agenda is empty (the model's own, log 2): a group's offered word, or an event
that is due. -/
inductive Due where
  | issue (ref : GRef)
  | loadReturn (op slice : Nat)
  | matrixWord (core : Nat)
  | joinComplete (team g : Nat)
  | rcvRelease (team g : Nat) (at_ : Word)
  | timerFire (team g : Nat)
  | yieldExpire (team g : Nat)
  | handlerFormation (team : Nat)
  | trapRelease (team g : Nat)
  | jobAccept (team job : Nat)
  | jobLand (team job row : Nat)
  | jobComplete (team job : Nat)
  | engineStep (polder op : Nat)
  | admission (q : Nat)
  | fillLands (q tile : Nat)
  | motionEnd (q tile : Nat)
  | writeBack (entry : Nat)
  | maskDrain (home q : Nat)
  | dispatchRecord (polder : Nat)
  | kernelLaunch (polder queue : Nat)
  | noOperation (polder queue : Nat)
  | signalOnly (polder queue : Nat)
  | prefixLookup (launch : Nat)
  | launchComplete (launch : Nat)
  | placeTeam (polder q : Nat)
  | candidateReserved (team : Nat)
  | swap (core : Nat)
  | nodeTeamCreate (launch node : Nat)
  | nodeTimeout (launch node : Nat)
  | retentionEntry (core : Nat)
  | retentionExit (core : Nat)
  | preempt (polder ctx : Nat)
  | teardown (polder ctx : Nat)
  | shootall (polder ctx : Nat)
  | sluiceClosed (polder : Nat)
  | lineFill (team g line : Nat)
  | ctxCommand (polder : Nat)
  | refresh (channel : Nat)
  | sensorSample (region : Nat)
  | thset (region : Nat)
  | linkRetrain (link : Nat)
  | stuffed (core : Nat)
  | thermalWindow
  | stopTick
  | cycleEnd
  deriving DecidableEq, Repr

/-- The state of the device. `slow` gives, for the core cycles to come, by how many ticks each lasts longer than one, where the core clock
is scaled down (00 R11, R12, log 39); the cycle that ended last took `tickStep`. `tried` lists what has had its turn in the present cycle (log 2); `regLog` lists the register writes of the present cycle as (number, unit, writing core): of
two cores that write one shared register in a cycle the lower-numbered wins (02 R78, 09 R321, 19 R478); `cmds` lists the writes of the cycle that
take their effect when it ends, as (writing core, number, unit, value). `saved` lists the teams as the switch left them in their images, by
the ASID and the address of the image (`State.imageKey`, 15 R406, log 81). -/
structure State where
  tick : DWord
  tickStep : Nat
  slow : List Nat
  cycle : Nat
  stopped : Bool
  agenda : List Turn
  tried : List Due
  iss : Option Issue
  free : Nat
  cores : List Core
  quarters : List Quarter
  parts : List Part
  polders : List Polder
  teams : List Team
  ops : List MemOp
  wbq : List WriteBack
  launches : List Launch
  emits : List Emission
  regLog : List (Nat × Nat × Nat)
  cmds : List (Nat × Nat × Nat × DWord)
  saved : List ((Nat × Nat) × Team)
  ctxs : List Ctx
  regions : List Region
  links : List Link
  keys : List KeySlot
  dev : Dev
  home : Home
  deriving DecidableEq, Repr

/-! ## Reset -/

/-- A core right after reset (02 R75-R80, 09 R323, 13 R395, 19 R478, 21 R515, 23 R526; pointers: log 5). -/
def Core.reset : Core :=
  { clk :=
      { phase := 0, issued := [], history := [], heavyHist := [], window := 0, pipeBusy := List.replicate 6 0,
        ratio := 0, ratioNext := none, curLim := 0x16800, curLimNext := none, heldF := false, thalw := 0xFFFF, thalwNext := none,
        rr := List.replicate 6 0, rrNext := none, progress := 0, swapped := false, swapFor := none,
        holds := [] },
    regs :=
      { brole := 0xFFFFFFAAAA555555, brrej := false, holdTherm := 0, holdFbd := 0, holdCur := 0, wback := 0,
        fills := 0, eccFix := 0, spCtxSel := 0, pqSel := 0, rgSel := 0, frSel := 0, refStall := 0, refHeld := false,
        retIdle := 0x10000, retEnable := false, retEntries := 0, retReloads := 0, asleep := false, idle := 0,
        lru := [], stored := [] },
    dbg :=
      { bp := List.replicate 4 0, lcrEn := false, lcrCtx := 0, lcrBin := 0, lcrClass := 0,
        counts := List.replicate 17 (List.replicate 5 0), lcrT0 := 0, lcrClr := false, lcrOut := [], ranges := List.replicate 16 0,
        selCore := 0, selSlot := 0, selGroup := 0, busy := false, level := 0, status := 0, fcode := 0, done := 0, count := 0,
        data := 0, buf := List.replicate 16 0, trcEn := false, trcAddr := 0, trcLog := 0, trcPos := 0, trcOut := [] },
    tlb := [], mx := [], reqs := [] }

/-- Quotas at reset (09 R324, R325). -/
def Quota.reset : Quota := { pins := 0, tiles := 24576, wback := 0, fills := 0 }

/-- A quarter right after reset (02 R70, R78, 09 R322-R329, 21 R515). -/
def Quarter.reset : Quarter :=
  { chain := [], bay := List.replicate 1024 none, bypass := [], quotas := List.replicate 64 Quota.reset,
    frontPtr := 0, frontDone := false, cycleSlots := [], unitHeld := false, held := 0, merged := 0, slots := 0, budget := 256, flushUnpin := false,
    flushCtx := 0, flush := none, level := 255, rate := 2, rateNext := none, drawPtr := 0, masks := 0,
    maskAge := List.replicate 4 0, tlb := [], walker := [], ecc := List.replicate 4 0 }

/-- Partition registers of a quarter at reset (19 R476, R480, R481, R484): the whole device is one polder. -/
def Part.reset : Part :=
  { mask := 0xF, rej := false, why := 0, drops := 0, pass := 0xF, passNext := none, irBase := List.replicate 8 0,
    irCfg := List.replicate 8 0, poolUp := false }

/-- A launch queue at reset (15 R400). -/
def Queue.reset : Queue := { enable := false, logSize := 0, ctx := 0, prio := 0, base := 0, tail := 0, head := 0, subs := [] }

/-- The engines of a polder at reset (17 R446). -/
def Engine.reset : Engine :=
  { snTab := 0, snTrees := 0, kvTab := 0, enable := false, logNodes := 0, evict := 0, dedup := 0, badRel := 0,
    trees := [], stores := [], met := [], unread := false }

/-- A polder at reset (15, 16, 17, 19, 21 R511: FEATON holds bit 0 alone). -/
def Polder.reset : Polder :=
  { queues := List.replicate 128 Queue.reset, tokens := [], plovf := 0, plovfn := 0, dispatched := (0, 0), ctxTab := 0, cmdBusy := false,
    cmdStatus := 0, cmdOp := 0, cmdCtx := 0,
    fq := { base := 0, enable := false, logSize := 0, head := 0, tail := 0, respOp := 0, respFrame := 0,
            respIndex := 0, entries := [] },
    eng := Engine.reset, sluice := 0, sluiceStatus := 0, sluiceIdle := false, busyq := 0, biasTo := false,
    biasPage := 0, biasStatus := 0, biasOps := none, featOn := (1, 0), featRej := false, snReady := false, spdm := 0,
    secure := false, doe := 0 }

/-- A context that is not live (16 R424). -/
def Ctx.reset : Ctx :=
  { live := false, polder := 0, asid := 0, keyslot := 0, peerExp := false, root := 0, localQ := 0, localUsed := 0,
    replQ := List.replicate 16 0, replUsed := List.replicate 16 0, replicas := [], preempted := false }

/-- A pool region at reset (19 R491): unused and FENCED. -/
def Region.reset : Region :=
  { base := 0, size := 0, expander := 0, port := 0, state := .fenced, status := 0, lostDirty := 0,
    replFix := 0, poisoned := 0, recValid := false, recAddr := 0, recTeams := 0, recSeen := [] }

/-- A Breson link at reset (19 R495). -/
def Link.reset : Link :=
  { up := false, dev := 0xFF, replays := 0, holds := 0, retrains := 0, held := false, rxSeq := 0, tries := 0 }

/-- Device-wide registers at reset (21 R515, 23 R526). -/
def Dev.reset : Dev :=
  { sensors := List.replicate 16 { temp := 0, hot := false, sampled := 0, owed := none },
    channels := List.replicate 256 { refreshes := 0, nextRefresh := 5460, busyTo := 0 },
    thRegion := 0, thAllow := 0xFFFF, readyLink := 0, readyDram := 0, readyHost := false, readyPool := 0,
    readyMatrix := 0, readySpiral := 0, booted := false, svn := 0, recov := false, slot := false, fuseSvn := 0,
    stopTick := 0xFFFFFFFFFFFFFFFF, stopAt := 0xFFFFFFFFFFFFFFFF, windowAt := 0, nextId := 1 }

/-- Home memory with nothing listed (log 1). -/
def Home.reset : Home := { cells := [], keys := [], poison := [], errors := [], farFaults := [], hostBias := [], peers := [] }

/-- The machine right after reset: every register at the value the spec gives, the others as log 5 says. No team is
resident: a program comes to run as log 4 says. -/
def State.reset : State :=
  { tick := 0, tickStep := 1, slow := [], cycle := 0, stopped := false, agenda := [], tried := [], iss := none, free := 0,
    cores := List.replicate 256 Core.reset, quarters := List.replicate 4 Quarter.reset,
    parts := List.replicate 4 Part.reset, polders := List.replicate 4 Polder.reset, teams := [], ops := [],
    wbq := [], launches := [], emits := [], regLog := [], cmds := [], saved := [], ctxs := List.replicate 64 Ctx.reset,
    regions := List.replicate 256 Region.reset, links := List.replicate 16 Link.reset,
    keys := List.replicate 64 { loaded := false, data := 0, tweak := 0 }, dev := Dev.reset, home := Home.reset }

end Sys2Proof.Machine
end

