-- ==== Sys2Proof/Machine/Home.lean ====
section
/-! DEFINITION. Home memory (00 R22, 11 R358, 16 R427, R428): bytes in canonical form, the keys its units were
written under, and poison. -/
namespace Sys2Proof.Machine

/-- The byte at an address; an unlisted one reads as `Config.memDefault` (log 1). -/
def cellsRead : List Host.Cell → Nat → Byte
  | [], _ => Config.memDefault
  | c :: cs, a => if c.1 = a then c.2 else cellsRead cs a

/-- The list with the byte at an address written, in canonical form. -/
def cellsWrite : List Host.Cell → Nat → Byte → List Host.Cell
  | [], a, b => if b = Config.memDefault then [] else [(a, b)]
  | c :: cs, a, b =>
    if a < c.1 then (if b = Config.memDefault then c :: cs else (a, b) :: c :: cs)
    else if a = c.1 then (if b = Config.memDefault then cs else (a, b) :: cs)
    else c :: cellsWrite cs a b

/-- Addresses strictly rising from `lo`, and no entry equal to what an unlisted address reads as. -/
def cellsWfFrom : Nat → List Host.Cell → Bool
  | _, [] => true
  | lo, c :: cs => decide (lo ≤ c.1) && decide (c.2 ≠ Config.memDefault) && cellsWfFrom (c.1 + 1) cs

/-- The canonical form of memory. -/
def Memory.wf (m : List Host.Cell) : Bool := cellsWfFrom 0 m

/-- One byte of home memory as it stands. -/
def Home.byte (h : Home) (pa : Nat) : Byte := cellsRead h.cells pa

/-- One byte written as it stands. -/
def Home.setByte (h : Home) (pa : Nat) (b : Byte) : Home := { h with cells := cellsWrite h.cells pa b }

/-- n bytes from an address, little-endian (R22). -/
def Home.nat (h : Home) (pa : Nat) : Nat → Nat
  | 0 => 0
  | n + 1 => (h.byte pa).toNat + 256 * h.nat (pa + 1) n

/-- The low n bytes of a number written from an address, little-endian. -/
def Home.setNat (h : Home) (pa : Nat) : Nat → Nat → Home
  | 0, _ => h
  | n + 1, v => (h.setByte pa (BitVec.ofNat 8 v)).setNat (pa + 1) n (v / 256)

/-- The value of the first entry of an association list with a key. -/
def lookupNat {α : Type} : List (Nat × α) → Nat → Option α
  | [], _ => none
  | p :: ps, k => if p.1 = k then some p.2 else lookupNat ps k

/-- An association list with the entry of a key replaced or removed. -/
def putNat {α : Type} (ps : List (Nat × α)) (k : Nat) (v : Option α) : List (Nat × α) :=
  let rest := ps.filter (fun p => p.1 != k)
  match v with
  | none => rest
  | some x => (k, x) :: rest

/-- The keys of a slot as one number: data key and tweak key (R427). -/
def slotKeys (ks : List KeySlot) (slot : Nat) : BitVec 512 :=
  match ks[slot]? with
  | some k => k.data ++ k.tweak
  | none => 0

/-- The 64-byte unit of an address as one number. -/
def Home.unitBits (h : Home) (u : Nat) : BitVec 512 := BitVec.ofNat 512 (h.nat (64 * u) 64)

/-- Whether what was written under one slot reads as it was under another: both none, or slots of the same keys. -/
def sameKey (ks : List KeySlot) (w r : Option Nat) : Bool :=
  match w, r with
  | none, none => true
  | some a, some b => a == b || slotKeys ks a == slotKeys ks b
  | _, _ => false

/-- What a reader under slot r finds of a unit written as `x` under slot w (R427, R428): memory holds what the writer's keys make of it, or
`x` itself where nothing encrypted it, and the reader decrypts that under its own keys. -/
def recrypt (ks : List KeySlot) (w r : Option Nat) (u : Nat) (x : BitVec 512) : BitVec 512 :=
  if sameKey ks w r then x
  else
    let held := match w with
      | some k => encryptUnit (slotKeys ks k) u x
      | none => x
    match r with
    | some k => decryptUnit (slotKeys ks k) u held
    | none => held

/-- A byte as a reader under a key slot finds it. `cells` holds each unit as its writer's keys read it. -/
def Home.readAs (h : Home) (ks : List KeySlot) (slot : Option Nat) (pa : Nat) : Byte :=
  let u := pa / 64
  if sameKey ks (lookupNat h.keys u) slot then h.byte pa
  else BitVec.extractLsb' (8 * (pa % 64)) 8 (recrypt ks (lookupNat h.keys u) slot u (h.unitBits u))

/-- A byte written under a key slot: the rest of its unit stands as that slot's keys read it. -/
def Home.writeAs (h : Home) (ks : List KeySlot) (slot : Option Nat) (pa : Nat) (b : Byte) : Home :=
  let u := pa / 64
  let h := if sameKey ks (lookupNat h.keys u) slot then h
    else h.setNat (64 * u) 64 (recrypt ks (lookupNat h.keys u) slot u (h.unitBits u)).toNat
  { h.setByte pa b with keys := putNat h.keys u slot }

/-- n bytes under a key slot, little-endian. -/
def Home.natAs (h : Home) (ks : List KeySlot) (slot : Option Nat) (pa : Nat) : Nat → Nat
  | 0 => 0
  | n + 1 => (h.readAs ks slot pa).toNat + 256 * h.natAs ks slot (pa + 1) n

/-- n bytes written under a key slot, little-endian. -/
def Home.setNatAs (h : Home) (ks : List KeySlot) (slot : Option Nat) (pa : Nat) : Nat → Nat → Home
  | 0, _ => h
  | n + 1, v => (h.writeAs ks slot pa (BitVec.ofNat 8 v)).setNatAs ks slot (pa + 1) n (v / 256)

/-! ## Runs of bytes -/

/-- n bytes from an address of a list whose entries begin at it or above. -/
def runBytes : List Host.Cell → Nat → Nat → List Byte
  | _, _, 0 => []
  | [], a, n + 1 => Config.memDefault :: runBytes [] (a + 1) n
  | c :: cs, a, n + 1 => if c.1 = a then c.2 :: runBytes cs (a + 1) n else Config.memDefault :: runBytes (c :: cs) (a + 1) n

/-- The list with a run of bytes written from an address, in canonical form. -/
def cellsPut (m : List Host.Cell) (a : Nat) (bs : List Byte) : List Host.Cell :=
  m.filter (fun c => decide (c.1 < a)) ++ ((bs.mapIdx (fun i b => (a + i, b))).filter (fun c => c.2 != Config.memDefault)) ++
  m.filter (fun c => decide (a + bs.length ≤ c.1))

/-- Bytes as one number, little-endian (R22). -/
def bytesNat (bs : List Byte) : Nat := bs.foldr (fun b acc => b.toNat + 256 * acc) 0

/-- n bytes of a number, little-endian. -/
def natBytesList : Nat → Nat → List Byte
  | 0, _ => []
  | n + 1, v => BitVec.ofNat 8 v :: natBytesList n (v / 256)

/-- Whole 64-byte units under a key slot, from the first of them. -/
def Home.unitsAs (h : Home) (ks : List KeySlot) (slot : Option Nat) (pa n : Nat) : List Byte :=
  let cs := h.cells.filter (fun c => decide (pa ≤ c.1 ∧ c.1 < pa + 64 * n))
  (List.range n).flatMap (fun i =>
    let u := pa / 64 + i
    let bs := runBytes (cs.filter (fun c => decide (64 * u ≤ c.1))) (64 * u) 64
    if sameKey ks (lookupNat h.keys u) slot then bs
    else natBytesList 64 (recrypt ks (lookupNat h.keys u) slot u (BitVec.ofNat 512 (bytesNat bs))).toNat)

/-- Whole 64-byte units written under a key slot; their poison and errors go, as a write of every byte of a unit does (R358). -/
def Home.putUnits (h : Home) (slot : Option Nat) (pa : Nat) (bs : List Byte) : Home :=
  let us := (List.range (bs.length / 64)).map (fun i => pa / 64 + i)
  { h with
    cells := cellsPut h.cells pa bs,
    keys := (match slot with
      | some k => us.map (fun u => (u, k))
      | none => []) ++ h.keys.filter (fun p => !us.contains p.1),
    poison := h.poison.filter (fun u => !us.contains u), errors := h.errors.filter (fun e => !us.contains e.1) }

/-- Whether a 64-byte unit is poisoned (R358). -/
def Home.isPoisoned (h : Home) (pa : Nat) : Bool := h.poison.contains (pa / 64)

/-- A unit poisoned. -/
def Home.poisonUnit (h : Home) (u : Nat) : Home :=
  if h.poison.contains u then h else { h with poison := u :: h.poison }

/-- A unit's poison cleared, as a write of every byte of it does (R358). -/
def Home.cleanUnit (h : Home) (u : Nat) : Home :=
  { h with poison := h.poison.filter (fun x => x != u), errors := h.errors.filter (fun e => e.1 != u) }

/-- Bytes of a tile whose mask bit is set, written home in ascending order; a unit written whole loses its poison, and
a unit whose copy is poisoned becomes poisoned (R306, R317, R358). -/
def Home.mergeTile (h : Home) (ks : List KeySlot) (slot : Option Nat) (tile : Nat) (data : BitVec 32768)
    (mask : BitVec 4096) (poison : BitVec 64) : Home :=
  let h := (List.range 4096).foldl (fun h i =>
    if mask.getLsbD i then h.writeAs ks slot (4096 * tile + i) (data.extractLsb' (8 * i) 8) else h) h
  (List.range 64).foldl (fun h u =>
    if poison.getLsbD u && mask.extractLsb' (64 * u) 64 != 0 then h.poisonUnit (64 * tile + u)
    else if mask.extractLsb' (64 * u) 64 = BitVec.allOnes 64 then h.cleanUnit (64 * tile + u) else h) h

/-- A tile's bytes under a key slot as one number. -/
def Home.tileBits (h : Home) (ks : List KeySlot) (slot : Option Nat) (tile : Nat) : BitVec 32768 :=
  let held := BitVec.ofNat 32768 (h.cells.foldl (fun acc c =>
    if c.1 / 4096 = tile then acc + c.2.toNat * 2 ^ (8 * (c.1 % 4096)) else acc) 0)
  (List.range 64).foldl (fun x i =>
    let w := lookupNat h.keys (64 * tile + i)
    if sameKey ks w slot then x
    else
      let unit := held.extractLsb' (512 * i) 512
      x ^^^ ((unit ^^^ recrypt ks w slot (64 * tile + i) unit).setWidth 32768 <<< (512 * i))) held

/-- The poisoned units of a tile at its home. -/
def Home.tilePoison (h : Home) (tile : Nat) : BitVec 64 :=
  h.poison.foldl (fun acc u => if u / 64 = tile then acc ||| ((1#64) <<< (u % 64)) else acc) 0

end Sys2Proof.Machine
end

