-- ==== Sys2Proof/WellFormed.lean ====
section
/-! DEFINITION. Which words are instructions as far as their own fields say (03_formats R83, R86-R88, R100-R115,
04 R140, R143, 06 R225, 08 R263, R269, 17 R465). What a word's hints decide is checked by its meaning. -/
namespace Sys2Proof

/-- Width in bits of a format code (R88, R139); 0 where CVT has no such type. -/
def fmtBits : Nat → Nat
  | 0 | 13 | 14 => 64
  | 1 | 11 | 12 => 32
  | 2 | 3 => 16
  | 4 | 5 | 6 | 7 | 10 => 8
  | 8 => 4
  | _ => 0

/-- The pairs (destination, source) of R140's table. -/
def cvtPair (t s : Nat) : Bool :=
  match s with
  | 0 => [1, 2, 3, 11, 12, 13, 14].contains t
  | 1 => [0, 2, 3, 4, 5, 6, 7, 8, 10, 11, 12, 13, 14].contains t
  | 2 => [0, 1, 3, 4, 5].contains t
  | 3 => [0, 1, 2, 4, 5].contains t
  | 4 | 5 => [1, 2, 3].contains t
  | 6 | 7 | 8 => t == 1
  | 10 => [1, 11].contains t
  | 11 => [0, 1, 10, 13].contains t
  | 12 => [0, 1, 14].contains t
  | 13 => [0, 1, 11].contains t
  | 14 => [0, 1, 12].contains t
  | _ => false

/-- Elements per lane of a conversion (R139): max(1, 32/min(ws, wd)). -/
def cvtCount (t s : Nat) : Nat := max 1 (32 / min (fmtBits t) (fmtBits s))

/-- R139, R140: an allocated pair whose register numbers are multiples of their register counts. -/
def cvtOk (t s d a : Nat) : Bool :=
  cvtPair t s && decide (d % max 1 (cvtCount t s * fmtBits t / 32) = 0 ∧
    a % max 1 (cvtCount t s * fmtBits s / 32) = 0)

/-- The pairs of CVTS (R140). -/
def cvtsOk (t s : Nat) : Bool := decide (
  (t = 0 ∧ (s = 1 ∨ s = 13 ∨ s = 14)) ∨ (s = 0 ∧ (t = 1 ∨ t = 13 ∨ t = 14)) ∨
  (t = 1 ∧ (s = 13 ∨ s = 14)) ∨ (s = 1 ∧ (t = 13 ∨ t = 14)))

/-- R86, R263: an allocated width code whose destination is a multiple of w/32. -/
def widthOk (w d : Nat) : Bool :=
  decide (w < 6 ∧ (w = 3 → d % 2 = 0) ∧ (w = 4 → d % 4 = 0) ∧ (w = 5 → d % 8 = 0))

/-- The word's own fields meet R83 and the allocations of R100 to R115; an event has no such conditions. -/
def Instr.wf : Instr → Bool
  | .iopw d a b f _ => decide (f.toNat < 16 ∧ d.toNat % 2 = 0 ∧ a.toNat % 2 = 0 ∧ b.toNat % 2 = 0)
  | .shlB64 d a _ _ => decide (d.toNat % 2 = 0 ∧ a.toNat % 2 = 0)
  | .shrB64 d a _ _ => decide (d.toNat % 2 = 0 ∧ a.toNat % 2 = 0)
  | .sarB64 d a _ _ => decide (d.toNat % 2 = 0 ∧ a.toNat % 2 = 0)
  | .rolB64 d a _ _ => decide (d.toNat % 2 = 0 ∧ a.toNat % 2 = 0)
  | .rorB64 d a _ _ => decide (d.toNat % 2 = 0 ∧ a.toNat % 2 = 0)
  | .popcB64 d a _ => decide (d.toNat % 2 = 0 ∧ a.toNat % 2 = 0)
  | .clzB64 d a _ => decide (d.toNat % 2 = 0 ∧ a.toNat % 2 = 0)
  | .ctzB64 d a _ => decide (d.toNat % 2 = 0 ∧ a.toNat % 2 = 0)
  | .brevB64 d a _ => decide (d.toNat % 2 = 0 ∧ a.toNat % 2 = 0)
  | .mulwI32 d _ _ _ => decide (d.toNat % 2 = 0)
  | .mulwN32 d _ _ _ => decide (d.toNat % 2 = 0)
  | .cmp _ c _ a b t _ => decide (c.toNat < 6 ∧ (2 ≤ t.toNat → a.toNat % 2 = 0 ∧ b.toNat % 2 = 0))
  | .fcmp _ c _ a b t _ => decide (c.toNat < 8 ∧ (t.toNat = 1 → a.toNat % 2 = 0 ∧ b.toNat % 2 = 0))
  | .fclass _ _ a _ t _ => decide ((t.toNat = 1 → a.toNat % 2 = 0))
  | .pand d a b _ => decide (d.toNat < 8 ∧ a.toNat < 8 ∧ b.toNat < 8)
  | .por d a b _ => decide (d.toNat < 8 ∧ a.toNat < 8 ∧ b.toNat < 8)
  | .pxor d a b _ => decide (d.toNat < 8 ∧ a.toNat < 8 ∧ b.toNat < 8)
  | .pnot d a _ => decide (d.toNat < 8 ∧ a.toNat < 8)
  | .pmov d a _ => decide (d.toNat < 8 ∧ a.toNat < 8)
  | .pmovFromScalar d a _ => decide (d.toNat < 8 ∧ a.toNat < 32)
  | .pmovToScalar d a => decide (d.toNat < 32 ∧ a.toNat < 8)
  | .fadd d a b t _ => decide ((t.toNat = 1 → d.toNat % 2 = 0 ∧ a.toNat % 2 = 0 ∧ b.toNat % 2 = 0))
  | .fsub d a b t _ => decide ((t.toNat = 1 → d.toNat % 2 = 0 ∧ a.toNat % 2 = 0 ∧ b.toNat % 2 = 0))
  | .fmul d a b t _ => decide ((t.toNat = 1 → d.toNat % 2 = 0 ∧ a.toNat % 2 = 0 ∧ b.toNat % 2 = 0))
  | .fmin d a b t _ => decide ((t.toNat = 1 → d.toNat % 2 = 0 ∧ a.toNat % 2 = 0 ∧ b.toNat % 2 = 0))
  | .fmax d a b t _ => decide ((t.toNat = 1 → d.toNat % 2 = 0 ∧ a.toNat % 2 = 0 ∧ b.toNat % 2 = 0))
  | .fabs d a t _ => decide ((t.toNat = 1 → d.toNat % 2 = 0 ∧ a.toNat % 2 = 0))
  | .fneg d a t _ => decide ((t.toNat = 1 → d.toNat % 2 = 0 ∧ a.toNat % 2 = 0))
  | .fma d a b t _ => decide ((t.toNat = 1 → d.toNat % 2 = 0 ∧ a.toNat % 2 = 0 ∧ b.toNat % 2 = 0))
  | .fms d a b t _ => decide ((t.toNat = 1 → d.toNat % 2 = 0 ∧ a.toNat % 2 = 0 ∧ b.toNat % 2 = 0))
  | .fnma d a b t _ => decide ((t.toNat = 1 → d.toNat % 2 = 0 ∧ a.toNat % 2 = 0 ∧ b.toNat % 2 = 0))
  | .fmad d a b t _ => decide ((t.toNat = 1 → d.toNat % 2 = 0 ∧ a.toNat % 2 = 0 ∧ b.toNat % 2 = 0))
  | .rcp d a t _ => decide (t.toNat < 3 ∧ (t.toNat = 1 → d.toNat % 2 = 0 ∧ a.toNat % 2 = 0))
  | .rsq d a t _ => decide (t.toNat < 3 ∧ (t.toNat = 1 → d.toNat % 2 = 0 ∧ a.toNat % 2 = 0))
  | .sqrt d a t _ => decide (t.toNat < 3 ∧ (t.toNat = 1 → d.toNat % 2 = 0 ∧ a.toNat % 2 = 0))
  | .exp2 _ _ t _ => decide ((t.toNat = 0 ∨ t.toNat = 2))
  | .log2 _ _ t _ => decide ((t.toNat = 0 ∨ t.toNat = 2))
  | .sin _ _ t _ => decide ((t.toNat = 0 ∨ t.toNat = 2))
  | .cos _ _ t _ => decide ((t.toNat = 0 ∨ t.toNat = 2))
  | .tanh _ _ t _ => decide ((t.toNat = 0 ∨ t.toNat = 2))
  | .cvt d a t s _ => cvtOk t.toNat s.toNat d.toNat a.toNat
  | .cvts d a t s => cvtsOk t.toNat s.toNat && decide (d.toNat < 32 ∧ a.toNat < 32)
  | .qblk d a t l _ => decide ((t.toNat = 4 ∨ t.toNat = 5 ∨ t.toNat = 6 ∨ t.toNat = 7 ∨ t.toNat = 8 ∨ t.toNat = 10) ∧ d.toNat % 2 = 0 ∧ a.toNat % (2 + 2 * l.toNat) = 0)
  | .dqblk d a t l _ => decide ((t.toNat = 4 ∨ t.toNat = 5 ∨ t.toNat = 6 ∨ t.toNat = 7 ∨ t.toNat = 8 ∨ t.toNat = 10) ∧ a.toNat % 2 = 0 ∧ d.toNat % (2 + 2 * l.toNat) = 0)
  | .pack6 d a t _ => decide ((t.toNat = 6 ∨ t.toNat = 7) ∧ d.toNat % 4 = 0 ∧ a.toNat % 4 = 0)
  | .unpk6 d a t _ => decide ((t.toNat = 6 ∨ t.toNat = 7) ∧ d.toNat % 4 = 0 ∧ a.toNat % 4 = 0)
  | .lgenc _ a _ => decide (a.toNat % 4 = 0)
  | .lgdec d _ _ => decide (d.toNat % 4 = 0)
  | .ballot d a => decide (d.toNat < 32 ∧ a.toNat < 8)
  | .movsr _ s _ => decide (s.toNat < 6)
  | .movv2s d _ _ => decide (d.toNat < 32)
  | .movs2v _ a _ => decide (a.toNat < 32)
  | .sld d a _ _ => decide (d.toNat % 4 = 0 ∧ a.toNat % 8 = 0)
  | .sst d a _ _ => decide (d.toNat % 8 = 0 ∧ a.toNat % 4 = 0)
  | .scmp _ a b _ => decide (a.toNat % 4 = 0 ∧ b.toNat % 4 = 0)
  | .sfindb _ a _ _ => decide (a.toNat % 4 = 0)
  | .sfold d a _ => decide (d.toNat % 4 = 0 ∧ a.toNat % 4 = 0)
  | .smatch _ a b _ => decide (a.toNat % 4 = 0 ∧ b.toNat % 4 = 0)
  | .hmix d a _ => decide (d.toNat % 2 = 0 ∧ a.toNat % 2 = 0)
  | .ld d _ _ w _ _ => widthOk w.toNat d.toNat
  | .ldAcq d _ _ w s _ => widthOk w.toNat d.toNat && decide (s.toNat < 10)
  | .st d _ _ w _ _ => widthOk w.toNat d.toNat
  | .stRel d _ _ w s _ => widthOk w.toNat d.toNat && decide (s.toNat < 10)
  | .lds d _ w y t _ => widthOk w.toNat d.toNat && decide ((y.toNat = 0 → t.toNat = 0))
  | .sts d _ w y t _ => widthOk w.toNat d.toNat && decide ((y.toNat = 0 → t.toNat = 0))
  | .atomAdd d _ _ a t _ => decide ((t.toNat = 0 ∨ t.toNat = 2 ∧ d.toNat % 2 = 0 ∧ a.toNat % 2 = 0))
  | .atomMin d _ _ a t _ => decide ((2 ≤ t.toNat → d.toNat % 2 = 0 ∧ a.toNat % 2 = 0))
  | .atomMax d _ _ a t _ => decide ((2 ≤ t.toNat → d.toNat % 2 = 0 ∧ a.toNat % 2 = 0))
  | .atomAnd d _ _ a t _ => decide ((t.toNat = 0 ∨ t.toNat = 2 ∧ d.toNat % 2 = 0 ∧ a.toNat % 2 = 0))
  | .atomOr d _ _ a t _ => decide ((t.toNat = 0 ∨ t.toNat = 2 ∧ d.toNat % 2 = 0 ∧ a.toNat % 2 = 0))
  | .atomXor d _ _ a t _ => decide ((t.toNat = 0 ∨ t.toNat = 2 ∧ d.toNat % 2 = 0 ∧ a.toNat % 2 = 0))
  | .atomXchg d _ _ a t _ => decide ((t.toNat = 0 ∨ t.toNat = 2 ∧ d.toNat % 2 = 0 ∧ a.toNat % 2 = 0))
  | .atomCas d _ _ a t _ => decide ((t.toNat = 0 ∧ a.toNat % 2 = 0 ∨ t.toNat = 2 ∧ d.toNat % 2 = 0 ∧ a.toNat % 4 = 0))
  | .atomFadd d _ _ a t _ => decide ((t.toNat < 2 ∨ t.toNat = 2 ∧ d.toNat % 2 = 0 ∧ a.toNat % 2 = 0))
  | .atomg d _ _ a t _ => decide ((t.toNat = 0 ∨ t.toNat = 2 ∧ d.toNat % 2 = 0 ∧ a.toNat % 2 = 0))
  | .atomsAdd d _ a t _ => decide ((t.toNat = 0 ∨ t.toNat = 2 ∧ d.toNat % 2 = 0 ∧ a.toNat % 2 = 0))
  | .atomsMin d _ a t _ => decide ((2 ≤ t.toNat → d.toNat % 2 = 0 ∧ a.toNat % 2 = 0))
  | .atomsMax d _ a t _ => decide ((2 ≤ t.toNat → d.toNat % 2 = 0 ∧ a.toNat % 2 = 0))
  | .atomsAnd d _ a t _ => decide ((t.toNat = 0 ∨ t.toNat = 2 ∧ d.toNat % 2 = 0 ∧ a.toNat % 2 = 0))
  | .atomsOr d _ a t _ => decide ((t.toNat = 0 ∨ t.toNat = 2 ∧ d.toNat % 2 = 0 ∧ a.toNat % 2 = 0))
  | .atomsXor d _ a t _ => decide ((t.toNat = 0 ∨ t.toNat = 2 ∧ d.toNat % 2 = 0 ∧ a.toNat % 2 = 0))
  | .atomsXchg d _ a t _ => decide ((t.toNat = 0 ∨ t.toNat = 2 ∧ d.toNat % 2 = 0 ∧ a.toNat % 2 = 0))
  | .atomsCas d _ a t _ => decide ((t.toNat = 0 ∧ a.toNat % 2 = 0 ∨ t.toNat = 2 ∧ d.toNat % 2 = 0 ∧ a.toNat % 4 = 0))
  | .atomsFadd d _ a t _ => decide ((t.toNat < 2 ∨ t.toNat = 2 ∧ d.toNat % 2 = 0 ∧ a.toNat % 2 = 0))
  | .atomgScratch d _ a t _ => decide ((t.toNat = 0 ∨ t.toNat = 2 ∧ d.toNat % 2 = 0 ∧ a.toNat % 2 = 0))
  | .fence s => decide (s.toNat < 10)
  | .mmq c a _ f _ _ _ => decide (f.toNat < 11 ∧ a.toNat % 8 = 0 ∧ (f.toNat = 0 → c.toNat % 2 = 0))
  | .mms _ a _ f _ _ _ => decide (0 < f.toNat ∧ f.toNat < 11 ∧ a.toNat % 8 = 0)
  | .snput d a b => decide (d.toNat < 32 ∧ a.toNat < 32 ∧ b.toNat < 32)
  | .snfind d a b => decide (d.toNat < 32 ∧ a.toNat < 32 ∧ b.toNat < 32)
  | .snget d a => decide (d.toNat < 32 ∧ a.toNat < 32)
  | .snrel a => decide (a.toNat < 32)
  | .kvmap _ a _ _ => decide (a.toNat % 2 = 0)
  | .kvapp _ a _ _ => decide (a.toNat % 8 = 0)
  | .kvcommit a b => decide (a.toNat < 32 ∧ b.toNat < 32)
  | .kvfree a => decide (a.toNat < 32)
  | .hsched m _ _ => decide (m.toNat < 3)
  | .hmod _ _ _ m => decide (m.toNat < 5)
  | .hscope _ s => decide (s.toNat < 10)
  | .add .. => true
  | .sub .. => true
  | .minI32 .. => true
  | .minN32 .. => true
  | .maxI32 .. => true
  | .maxN32 .. => true
  | .andB .. => true
  | .orB .. => true
  | .xorB .. => true
  | .andn .. => true
  | .absdI32 .. => true
  | .absdN32 .. => true
  | .addsatI32 .. => true
  | .addsatN32 .. => true
  | .subsatI32 .. => true
  | .subsatN32 .. => true
  | .addi .. => true
  | .muli .. => true
  | .andi .. => true
  | .ori .. => true
  | .xori .. => true
  | .shli .. => true
  | .shri .. => true
  | .sari .. => true
  | .shl .. => true
  | .shr .. => true
  | .sar .. => true
  | .rol .. => true
  | .ror .. => true
  | .popc .. => true
  | .clz .. => true
  | .ctz .. => true
  | .brev .. => true
  | .bfxN32 .. => true
  | .bfxI32 .. => true
  | .bfi .. => true
  | .permb .. => true
  | .mul .. => true
  | .mulhiI32 .. => true
  | .mulhiN32 .. => true
  | .mad .. => true
  | .divI32 .. => true
  | .divN32 .. => true
  | .remI32 .. => true
  | .remN32 .. => true
  | .divI32Tz .. => true
  | .divN32Tz .. => true
  | .remI32Tz .. => true
  | .remN32Tz .. => true
  | .sel .. => true
  | .shflIdx .. => true
  | .shflUp .. => true
  | .shflDown .. => true
  | .shflXor .. => true
  | .bcast .. => true
  | .matchLanes .. => true
  | .red .. => true
  | .scan .. => true
  | .mov .. => true
  | .movi .. => true
  | .movhi .. => true
  | .movx .. => true
  | .movxw .. => true
  | .xset .. => true
  | .xadd .. => true
  | .sadd .. => true
  | .ssub .. => true
  | .smul .. => true
  | .sand .. => true
  | .sor .. => true
  | .sxor .. => true
  | .sshl .. => true
  | .sshr .. => true
  | .sminI64 .. => true
  | .sminN64 .. => true
  | .smaxI64 .. => true
  | .smaxN64 .. => true
  | .smov .. => true
  | .scmpI64 _ _ _ c => decide (c.toNat < 6)
  | .scmpN64 _ _ _ c => decide (c.toNat < 6)
  | .saddi .. => true
  | .sandi .. => true
  | .sshli .. => true
  | .sshri .. => true
  | .smovi .. => true
  | .hcrc .. => true
  | .rhash .. => true
  | .pbin .. => true
  | .bez .. => true
  | .bnz .. => true
  | .bltz .. => true
  | .bgez .. => true
  | .bgtz .. => true
  | .blez .. => true
  | .loopW .. => true
  | .jmp .. => true
  | .callW .. => true
  | .jmpi .. => true
  | .ret .. => true
  | .exitW .. => true
  | .trapW .. => true
  | .brp .. => true
  | .regang .. => true
  | .rcv .. => true
  | .sdist .. => true
  | .spin .. => true
  | .sunpin .. => true
  | .sbyp .. => true
  | .sclr .. => true
  | .stouch .. => true
  | .bset .. => true
  | .blim .. => true
  | .lduB32 .. => true
  | .lduB64 .. => true
  | .waitc .. => true
  | .waitb .. => true
  | .waitv .. => true
  | .yieldW .. => true
  | .binit .. => true
  | .barv .. => true
  | .bexp .. => true
  | .bwait .. => true
  | .btest .. => true
  | .fencex .. => true
  | .cpy _ w q => decide (q.toNat = 0 → w.toNat = 0)
  | .cpyg _ w q => decide (q.toNat = 0 → w.toNat = 0)
  | .cpys _ w q => decide (q.toNat = 0 → w.toNat = 0)
  | .cpyc _ w q => decide (q.toNat = 0 → w.toNat = 0)
  | .close .. => true
  | .emit .. => true
  | .emitNb .. => true
  | .rdsys .. => true
  | .wrsys .. => true
  | .tick .. => true
  | .cyc .. => true
  | .timerRes .. => true
  | .timerWall .. => true
  | .haltx .. => true
  | .shoot .. => true
  | .obres .. => true
  | .obrel .. => true
  | .obld .. => true
  | .scfifo .. => true
  | .scpush .. => true
  | .sccache .. => true
  | .accz .. => true
  | .accld .. => true
  | .accst .. => true
  | .accrst .. => true
  | .himm .. => true
  | .hoff .. => true
  | .hreg .. => true
  | .hareg .. => true
  | .hmark .. => true
  | .loadReturn .. => true
  | .matrixWordComplete .. => true
  | .joinComplete .. => true
  | .rcvRelease .. => true
  | .timerFire .. => true
  | .yieldExpire .. => true
  | .handlerFormation .. => true
  | .trapRelease .. => true
  | .jobAccept .. => true
  | .jobLand .. => true
  | .jobComplete .. => true
  | .jobStop .. => true
  | .engineStep .. => true
  | .admission .. => true
  | .fillLands .. => true
  | .writeBackAtHome .. => true
  | .drainRequest .. => true
  | .maskDrain .. => true
  | .backInvalidation .. => true
  | .hostSnoop .. => true
  | .hostRead .. => true
  | .hostWrite .. => true
  | .peerRequest .. => true
  | .flitReceive .. => true
  | .replay .. => true
  | .linkRetrain .. => true
  | .hold .. => true
  | .go .. => true
  | .poolLinkLost .. => true
  | .degradedService .. => true
  | .serviceRestored .. => true
  | .online .. => true
  | .regionFence .. => true
  | .rehome .. => true
  | .discard .. => true
  | .closeRefuse .. => true
  | .closeDrain .. => true
  | .openSluice .. => true
  | .sluiceClosed .. => true
  | .pshapeWrite .. => true
  | .biasFlip .. => true
  | .qtailWrite .. => true
  | .qcfgWrite .. => true
  | .tokenWrite .. => true
  | .noOperation .. => true
  | .kernelLaunch .. => true
  | .signalOnly .. => true
  | .prefixLookup .. => true
  | .launchComplete .. => true
  | .placeTeam .. => true
  | .candidateReserved .. => true
  | .forwardProgressSwap .. => true
  | .dispatchRecord .. => true
  | .nodeTeamCreate .. => true
  | .nodeTimeout .. => true
  | .create .. => true
  | .quota .. => true
  | .sync .. => true
  | .preempt .. => true
  | .resume .. => true
  | .teardown .. => true
  | .shootall .. => true
  | .retry .. => true
  | .deny .. => true
  | .dupfill .. => true
  | .spflush .. => true
  | .broleWrite .. => true
  | .pipeRatioWrite .. => true
  | .thset .. => true
  | .featonWrite .. => true
  | .sensorSample .. => true
  | .refresh .. => true
  | .thermalWindow .. => true
  | .scrub .. => true
  | .retentionEntry .. => true
  | .retentionExit .. => true
  | .reset .. => true
  | .powerLoss .. => true
  | .releaseFromReset .. => true
  | .readySet .. => true
  | .getVersion .. => true
  | .getCapabilities .. => true
  | .negotiateAlgorithms .. => true
  | .getDigests .. => true
  | .getCertificate .. => true
  | .challenge .. => true
  | .getMeasurements .. => true
  | .keyExchange .. => true
  | .finish .. => true
  | .keyLoad .. => true
  | .stopTick .. => true
  | .execWords .. => true
  | .dbgResume .. => true
  | .halt .. => true
  | .clr .. => true
  | .regWrite .. => true
  | .notAnInstruction .. => true
  | .lineFill .. => true
  | .motionEnd .. => true
  | .cycleEnd .. => true
  | .poolLinkUp .. => true
  | .linkTrained .. => true
  | .sncfgWrite .. => true
  | .fqheadWrite .. => true
  | .fqcfgWrite .. => true
  | .readClear .. => true
  | .serviceKernel .. => true

end Sys2Proof
end

