-- ==== Sys2Proof/Machine/Info.lean ====
section
/-! DEFINITION. What the issue of a word needs to know of it before its effect: major, guard, pipe, weight, hints
accepted, feature bits, roles (02 R48, R67, 03 R84, R91, R97, R117, 06 R205, 07 R238, 13 R383). -/
namespace Sys2Proof.Machine

/-- The major opcode of a word (R99); 0x40 for an event, which has none. -/
def majorOf : Instr → Nat
  | .add .. => 0x00
  | .sub .. => 0x00
  | .minI32 .. => 0x00
  | .minN32 .. => 0x00
  | .maxI32 .. => 0x00
  | .maxN32 .. => 0x00
  | .andB .. => 0x00
  | .orB .. => 0x00
  | .xorB .. => 0x00
  | .andn .. => 0x00
  | .absdI32 .. => 0x00
  | .absdN32 .. => 0x00
  | .addsatI32 .. => 0x00
  | .addsatN32 .. => 0x00
  | .subsatI32 .. => 0x00
  | .subsatN32 .. => 0x00
  | .iopw .. => 0x02
  | .addi .. => 0x01
  | .muli .. => 0x01
  | .andi .. => 0x01
  | .ori .. => 0x01
  | .xori .. => 0x01
  | .shli .. => 0x01
  | .shri .. => 0x01
  | .sari .. => 0x01
  | .shl .. => 0x03
  | .shr .. => 0x03
  | .sar .. => 0x03
  | .rol .. => 0x03
  | .ror .. => 0x03
  | .popc .. => 0x03
  | .clz .. => 0x03
  | .ctz .. => 0x03
  | .brev .. => 0x03
  | .bfxN32 .. => 0x03
  | .bfxI32 .. => 0x03
  | .bfi .. => 0x03
  | .permb .. => 0x03
  | .shlB64 .. => 0x03
  | .shrB64 .. => 0x03
  | .sarB64 .. => 0x03
  | .rolB64 .. => 0x03
  | .rorB64 .. => 0x03
  | .popcB64 .. => 0x03
  | .clzB64 .. => 0x03
  | .ctzB64 .. => 0x03
  | .brevB64 .. => 0x03
  | .mul .. => 0x04
  | .mulhiI32 .. => 0x04
  | .mulhiN32 .. => 0x04
  | .mulwI32 .. => 0x04
  | .mulwN32 .. => 0x04
  | .mad .. => 0x04
  | .divI32 .. => 0x04
  | .divN32 .. => 0x04
  | .remI32 .. => 0x04
  | .remN32 .. => 0x04
  | .divI32Tz .. => 0x04
  | .divN32Tz .. => 0x04
  | .remI32Tz .. => 0x04
  | .remN32Tz .. => 0x04
  | .cmp .. => 0x05
  | .fcmp .. => 0x06
  | .fclass .. => 0x06
  | .pand .. => 0x07
  | .por .. => 0x07
  | .pxor .. => 0x07
  | .pnot .. => 0x07
  | .pmov .. => 0x07
  | .pmovFromScalar .. => 0x07
  | .pmovToScalar .. => 0x07
  | .sel .. => 0x07
  | .fadd .. => 0x08
  | .fsub .. => 0x08
  | .fmul .. => 0x08
  | .fmin .. => 0x08
  | .fmax .. => 0x08
  | .fabs .. => 0x08
  | .fneg .. => 0x08
  | .fma .. => 0x09
  | .fms .. => 0x09
  | .fnma .. => 0x09
  | .fmad .. => 0x09
  | .rcp .. => 0x0A
  | .rsq .. => 0x0A
  | .sqrt .. => 0x0A
  | .exp2 .. => 0x0A
  | .log2 .. => 0x0A
  | .sin .. => 0x0A
  | .cos .. => 0x0A
  | .tanh .. => 0x0A
  | .cvt .. => 0x0B
  | .cvts .. => 0x0B
  | .qblk .. => 0x0C
  | .dqblk .. => 0x0C
  | .pack6 .. => 0x0C
  | .unpk6 .. => 0x0C
  | .lgenc .. => 0x0C
  | .lgdec .. => 0x0C
  | .shflIdx .. => 0x0D
  | .shflUp .. => 0x0D
  | .shflDown .. => 0x0D
  | .shflXor .. => 0x0D
  | .bcast .. => 0x0D
  | .ballot .. => 0x0D
  | .matchLanes .. => 0x0D
  | .movsr .. => 0x0D
  | .red .. => 0x0D
  | .scan .. => 0x0D
  | .mov .. => 0x0E
  | .movi .. => 0x0E
  | .movhi .. => 0x0E
  | .movx .. => 0x0E
  | .movxw .. => 0x0E
  | .xset .. => 0x0E
  | .xadd .. => 0x0E
  | .movv2s .. => 0x0E
  | .movs2v .. => 0x0E
  | .sadd .. => 0x0F
  | .ssub .. => 0x0F
  | .smul .. => 0x0F
  | .sand .. => 0x0F
  | .sor .. => 0x0F
  | .sxor .. => 0x0F
  | .sshl .. => 0x0F
  | .sshr .. => 0x0F
  | .sminI64 .. => 0x0F
  | .sminN64 .. => 0x0F
  | .smaxI64 .. => 0x0F
  | .smaxN64 .. => 0x0F
  | .smov .. => 0x0F
  | .scmpI64 .. => 0x0F
  | .scmpN64 .. => 0x0F
  | .saddi .. => 0x10
  | .sandi .. => 0x10
  | .sshli .. => 0x10
  | .sshri .. => 0x10
  | .smovi .. => 0x10
  | .sld .. => 0x11
  | .sst .. => 0x11
  | .scmp .. => 0x11
  | .sfindb .. => 0x11
  | .sfold .. => 0x11
  | .smatch .. => 0x11
  | .hcrc .. => 0x12
  | .hmix .. => 0x12
  | .rhash .. => 0x12
  | .pbin .. => 0x12
  | .bez .. => 0x18
  | .bnz .. => 0x18
  | .bltz .. => 0x18
  | .bgez .. => 0x18
  | .bgtz .. => 0x18
  | .blez .. => 0x18
  | .loopW .. => 0x1B
  | .jmp .. => 0x19
  | .callW .. => 0x19
  | .jmpi .. => 0x19
  | .ret .. => 0x19
  | .exitW .. => 0x19
  | .trapW .. => 0x19
  | .brp .. => 0x1A
  | .regang .. => 0x1A
  | .rcv .. => 0x1A
  | .ld .. => 0x20
  | .ldAcq .. => 0x20
  | .st .. => 0x21
  | .stRel .. => 0x21
  | .lds .. => 0x22
  | .sts .. => 0x23
  | .atomAdd .. => 0x24
  | .atomMin .. => 0x24
  | .atomMax .. => 0x24
  | .atomAnd .. => 0x24
  | .atomOr .. => 0x24
  | .atomXor .. => 0x24
  | .atomXchg .. => 0x24
  | .atomCas .. => 0x24
  | .atomFadd .. => 0x24
  | .atomg .. => 0x24
  | .atomsAdd .. => 0x25
  | .atomsMin .. => 0x25
  | .atomsMax .. => 0x25
  | .atomsAnd .. => 0x25
  | .atomsOr .. => 0x25
  | .atomsXor .. => 0x25
  | .atomsXchg .. => 0x25
  | .atomsCas .. => 0x25
  | .atomsFadd .. => 0x25
  | .atomgScratch .. => 0x25
  | .sdist .. => 0x26
  | .spin .. => 0x26
  | .sunpin .. => 0x26
  | .sbyp .. => 0x26
  | .sclr .. => 0x26
  | .stouch .. => 0x26
  | .bset .. => 0x27
  | .blim .. => 0x27
  | .lduB32 .. => 0x27
  | .lduB64 .. => 0x27
  | .waitc .. => 0x28
  | .waitb .. => 0x28
  | .waitv .. => 0x28
  | .yieldW .. => 0x28
  | .binit .. => 0x29
  | .barv .. => 0x29
  | .bexp .. => 0x29
  | .bwait .. => 0x29
  | .btest .. => 0x29
  | .fence .. => 0x2A
  | .fencex .. => 0x2A
  | .cpy .. => 0x2B
  | .cpyg .. => 0x2B
  | .cpys .. => 0x2B
  | .cpyc .. => 0x2B
  | .close .. => 0x2B
  | .emit .. => 0x2C
  | .emitNb .. => 0x2C
  | .rdsys .. => 0x3D
  | .wrsys .. => 0x3D
  | .tick .. => 0x3D
  | .cyc .. => 0x3D
  | .timerRes .. => 0x3D
  | .timerWall .. => 0x3D
  | .haltx .. => 0x3D
  | .shoot .. => 0x3D
  | .mmq .. => 0x30
  | .mms .. => 0x31
  | .obres .. => 0x32
  | .obrel .. => 0x32
  | .obld .. => 0x32
  | .scfifo .. => 0x33
  | .scpush .. => 0x33
  | .sccache .. => 0x33
  | .accz .. => 0x34
  | .accld .. => 0x34
  | .accst .. => 0x34
  | .accrst .. => 0x34
  | .snput .. => 0x3C
  | .snfind .. => 0x3C
  | .snget .. => 0x3C
  | .snrel .. => 0x3C
  | .kvmap .. => 0x3C
  | .kvapp .. => 0x3C
  | .kvcommit .. => 0x3C
  | .kvfree .. => 0x3C
  | .himm .. => 0x3F
  | .hoff .. => 0x3F
  | .hsched .. => 0x3F
  | .hmod .. => 0x3F
  | .hreg .. => 0x3F
  | .hscope .. => 0x3F
  | .hareg .. => 0x3F
  | .hmark .. => 0x3F
  | .loadReturn .. => 0x40
  | .matrixWordComplete .. => 0x40
  | .joinComplete .. => 0x40
  | .rcvRelease .. => 0x40
  | .timerFire .. => 0x40
  | .yieldExpire .. => 0x40
  | .handlerFormation .. => 0x40
  | .trapRelease .. => 0x40
  | .jobAccept .. => 0x40
  | .jobLand .. => 0x40
  | .jobComplete .. => 0x40
  | .jobStop .. => 0x40
  | .engineStep .. => 0x40
  | .admission .. => 0x40
  | .fillLands .. => 0x40
  | .writeBackAtHome .. => 0x40
  | .drainRequest .. => 0x40
  | .maskDrain .. => 0x40
  | .backInvalidation .. => 0x40
  | .hostSnoop .. => 0x40
  | .hostRead .. => 0x40
  | .hostWrite .. => 0x40
  | .peerRequest .. => 0x40
  | .flitReceive .. => 0x40
  | .replay .. => 0x40
  | .linkRetrain .. => 0x40
  | .hold .. => 0x40
  | .go .. => 0x40
  | .poolLinkLost .. => 0x40
  | .degradedService .. => 0x40
  | .serviceRestored .. => 0x40
  | .online .. => 0x40
  | .regionFence .. => 0x40
  | .rehome .. => 0x40
  | .discard .. => 0x40
  | .closeRefuse .. => 0x40
  | .closeDrain .. => 0x40
  | .openSluice .. => 0x40
  | .sluiceClosed .. => 0x40
  | .pshapeWrite .. => 0x40
  | .biasFlip .. => 0x40
  | .qtailWrite .. => 0x40
  | .qcfgWrite .. => 0x40
  | .tokenWrite .. => 0x40
  | .noOperation .. => 0x40
  | .kernelLaunch .. => 0x40
  | .signalOnly .. => 0x40
  | .prefixLookup .. => 0x40
  | .launchComplete .. => 0x40
  | .placeTeam .. => 0x40
  | .candidateReserved .. => 0x40
  | .forwardProgressSwap .. => 0x40
  | .dispatchRecord .. => 0x40
  | .nodeTeamCreate .. => 0x40
  | .nodeTimeout .. => 0x40
  | .create .. => 0x40
  | .quota .. => 0x40
  | .sync .. => 0x40
  | .preempt .. => 0x40
  | .resume .. => 0x40
  | .teardown .. => 0x40
  | .shootall .. => 0x40
  | .retry .. => 0x40
  | .deny .. => 0x40
  | .dupfill .. => 0x40
  | .spflush .. => 0x40
  | .broleWrite .. => 0x40
  | .pipeRatioWrite .. => 0x40
  | .thset .. => 0x40
  | .featonWrite .. => 0x40
  | .sensorSample .. => 0x40
  | .refresh .. => 0x40
  | .thermalWindow .. => 0x40
  | .scrub .. => 0x40
  | .retentionEntry .. => 0x40
  | .retentionExit .. => 0x40
  | .reset .. => 0x40
  | .powerLoss .. => 0x40
  | .releaseFromReset .. => 0x40
  | .readySet .. => 0x40
  | .getVersion .. => 0x40
  | .getCapabilities .. => 0x40
  | .negotiateAlgorithms .. => 0x40
  | .getDigests .. => 0x40
  | .getCertificate .. => 0x40
  | .challenge .. => 0x40
  | .getMeasurements .. => 0x40
  | .keyExchange .. => 0x40
  | .finish .. => 0x40
  | .keyLoad .. => 0x40
  | .stopTick .. => 0x40
  | .execWords .. => 0x40
  | .dbgResume .. => 0x40
  | .halt .. => 0x40
  | .clr .. => 0x40
  | .regWrite .. => 0x40
  | .notAnInstruction .. => 0x40
  | .lineFill .. => 0x40
  | .motionEnd .. => 0x40
  | .cycleEnd .. => 0x40
  | .poolLinkUp .. => 0x40
  | .linkTrained .. => 0x40
  | .sncfgWrite .. => 0x40
  | .fqheadWrite .. => 0x40
  | .fqcfgWrite .. => 0x40
  | .readClear .. => 0x40
  | .serviceKernel .. => 0x40

/-- The guard field pg of a word (R84), 0 where its format has none. -/
def guardOf : Instr → Nat
  | .add _ _ _ p => p.toNat
  | .sub _ _ _ p => p.toNat
  | .minI32 _ _ _ p => p.toNat
  | .minN32 _ _ _ p => p.toNat
  | .maxI32 _ _ _ p => p.toNat
  | .maxN32 _ _ _ p => p.toNat
  | .andB _ _ _ p => p.toNat
  | .orB _ _ _ p => p.toNat
  | .xorB _ _ _ p => p.toNat
  | .andn _ _ _ p => p.toNat
  | .absdI32 _ _ _ p => p.toNat
  | .absdN32 _ _ _ p => p.toNat
  | .addsatI32 _ _ _ p => p.toNat
  | .addsatN32 _ _ _ p => p.toNat
  | .subsatI32 _ _ _ p => p.toNat
  | .subsatN32 _ _ _ p => p.toNat
  | .iopw _ _ _ _ p => p.toNat
  | .addi _ _ _ p => p.toNat
  | .muli _ _ _ p => p.toNat
  | .andi _ _ _ p => p.toNat
  | .ori _ _ _ p => p.toNat
  | .xori _ _ _ p => p.toNat
  | .shli _ _ _ p => p.toNat
  | .shri _ _ _ p => p.toNat
  | .sari _ _ _ p => p.toNat
  | .shl _ _ _ p => p.toNat
  | .shr _ _ _ p => p.toNat
  | .sar _ _ _ p => p.toNat
  | .rol _ _ _ p => p.toNat
  | .ror _ _ _ p => p.toNat
  | .popc _ _ p => p.toNat
  | .clz _ _ p => p.toNat
  | .ctz _ _ p => p.toNat
  | .brev _ _ p => p.toNat
  | .bfxN32 _ _ _ p => p.toNat
  | .bfxI32 _ _ _ p => p.toNat
  | .bfi _ _ _ p => p.toNat
  | .permb _ _ _ p => p.toNat
  | .shlB64 _ _ _ p => p.toNat
  | .shrB64 _ _ _ p => p.toNat
  | .sarB64 _ _ _ p => p.toNat
  | .rolB64 _ _ _ p => p.toNat
  | .rorB64 _ _ _ p => p.toNat
  | .popcB64 _ _ p => p.toNat
  | .clzB64 _ _ p => p.toNat
  | .ctzB64 _ _ p => p.toNat
  | .brevB64 _ _ p => p.toNat
  | .mul _ _ _ p => p.toNat
  | .mulhiI32 _ _ _ p => p.toNat
  | .mulhiN32 _ _ _ p => p.toNat
  | .mulwI32 _ _ _ p => p.toNat
  | .mulwN32 _ _ _ p => p.toNat
  | .mad _ _ _ p => p.toNat
  | .divI32 _ _ _ p => p.toNat
  | .divN32 _ _ _ p => p.toNat
  | .remI32 _ _ _ p => p.toNat
  | .remN32 _ _ _ p => p.toNat
  | .divI32Tz _ _ _ p => p.toNat
  | .divN32Tz _ _ _ p => p.toNat
  | .remI32Tz _ _ _ p => p.toNat
  | .remN32Tz _ _ _ p => p.toNat
  | .cmp _ _ _ _ _ _ p => p.toNat
  | .fcmp _ _ _ _ _ _ p => p.toNat
  | .fclass _ _ _ _ _ p => p.toNat
  | .pand _ _ _ p => p.toNat
  | .por _ _ _ p => p.toNat
  | .pxor _ _ _ p => p.toNat
  | .pnot _ _ p => p.toNat
  | .pmov _ _ p => p.toNat
  | .pmovFromScalar _ _ p => p.toNat
  | .pmovToScalar .. => 0
  | .sel _ _ _ _ p => p.toNat
  | .fadd _ _ _ _ p => p.toNat
  | .fsub _ _ _ _ p => p.toNat
  | .fmul _ _ _ _ p => p.toNat
  | .fmin _ _ _ _ p => p.toNat
  | .fmax _ _ _ _ p => p.toNat
  | .fabs _ _ _ p => p.toNat
  | .fneg _ _ _ p => p.toNat
  | .fma _ _ _ _ p => p.toNat
  | .fms _ _ _ _ p => p.toNat
  | .fnma _ _ _ _ p => p.toNat
  | .fmad _ _ _ _ p => p.toNat
  | .rcp _ _ _ p => p.toNat
  | .rsq _ _ _ p => p.toNat
  | .sqrt _ _ _ p => p.toNat
  | .exp2 _ _ _ p => p.toNat
  | .log2 _ _ _ p => p.toNat
  | .sin _ _ _ p => p.toNat
  | .cos _ _ _ p => p.toNat
  | .tanh _ _ _ p => p.toNat
  | .cvt _ _ _ _ p => p.toNat
  | .cvts .. => 0
  | .qblk _ _ _ _ p => p.toNat
  | .dqblk _ _ _ _ p => p.toNat
  | .pack6 _ _ _ p => p.toNat
  | .unpk6 _ _ _ p => p.toNat
  | .lgenc _ _ p => p.toNat
  | .lgdec _ _ p => p.toNat
  | .shflIdx _ _ _ p => p.toNat
  | .shflUp _ _ _ p => p.toNat
  | .shflDown _ _ _ p => p.toNat
  | .shflXor _ _ _ p => p.toNat
  | .bcast _ _ _ p => p.toNat
  | .ballot .. => 0
  | .matchLanes _ _ p => p.toNat
  | .movsr _ _ p => p.toNat
  | .red _ _ _ p => p.toNat
  | .scan _ _ _ p => p.toNat
  | .mov _ _ p => p.toNat
  | .movi _ _ p => p.toNat
  | .movhi _ _ p => p.toNat
  | .movx _ _ _ p => p.toNat
  | .movxw _ _ _ p => p.toNat
  | .xset _ _ _ p => p.toNat
  | .xadd _ _ p => p.toNat
  | .movv2s .. => 0
  | .movs2v _ _ p => p.toNat
  | .sadd .. => 0
  | .ssub .. => 0
  | .smul .. => 0
  | .sand .. => 0
  | .sor .. => 0
  | .sxor .. => 0
  | .sshl .. => 0
  | .sshr .. => 0
  | .sminI64 .. => 0
  | .sminN64 .. => 0
  | .smaxI64 .. => 0
  | .smaxN64 .. => 0
  | .smov .. => 0
  | .scmpI64 .. => 0
  | .scmpN64 .. => 0
  | .saddi .. => 0
  | .sandi .. => 0
  | .sshli .. => 0
  | .sshri .. => 0
  | .smovi .. => 0
  | .sld _ _ _ p => p.toNat
  | .sst _ _ _ p => p.toNat
  | .scmp _ _ _ p => p.toNat
  | .sfindb _ _ _ p => p.toNat
  | .sfold _ _ p => p.toNat
  | .smatch _ _ _ p => p.toNat
  | .hcrc _ _ _ p => p.toNat
  | .hmix _ _ p => p.toNat
  | .rhash _ _ _ p => p.toNat
  | .pbin _ _ _ p => p.toNat
  | .bez .. => 0
  | .bnz .. => 0
  | .bltz .. => 0
  | .bgez .. => 0
  | .bgtz .. => 0
  | .blez .. => 0
  | .loopW .. => 0
  | .jmp .. => 0
  | .callW .. => 0
  | .jmpi .. => 0
  | .ret .. => 0
  | .exitW .. => 0
  | .trapW .. => 0
  | .brp .. => 0
  | .regang .. => 0
  | .rcv .. => 0
  | .ld _ _ _ _ _ p => p.toNat
  | .ldAcq _ _ _ _ _ p => p.toNat
  | .st _ _ _ _ _ p => p.toNat
  | .stRel _ _ _ _ _ p => p.toNat
  | .lds _ _ _ _ _ p => p.toNat
  | .sts _ _ _ _ _ p => p.toNat
  | .atomAdd _ _ _ _ _ p => p.toNat
  | .atomMin _ _ _ _ _ p => p.toNat
  | .atomMax _ _ _ _ _ p => p.toNat
  | .atomAnd _ _ _ _ _ p => p.toNat
  | .atomOr _ _ _ _ _ p => p.toNat
  | .atomXor _ _ _ _ _ p => p.toNat
  | .atomXchg _ _ _ _ _ p => p.toNat
  | .atomCas _ _ _ _ _ p => p.toNat
  | .atomFadd _ _ _ _ _ p => p.toNat
  | .atomg _ _ _ _ _ p => p.toNat
  | .atomsAdd _ _ _ _ p => p.toNat
  | .atomsMin _ _ _ _ p => p.toNat
  | .atomsMax _ _ _ _ p => p.toNat
  | .atomsAnd _ _ _ _ p => p.toNat
  | .atomsOr _ _ _ _ p => p.toNat
  | .atomsXor _ _ _ _ p => p.toNat
  | .atomsXchg _ _ _ _ p => p.toNat
  | .atomsCas _ _ _ _ p => p.toNat
  | .atomsFadd _ _ _ _ p => p.toNat
  | .atomgScratch _ _ _ _ p => p.toNat
  | .sdist _ _ _ p => p.toNat
  | .spin _ _ _ p => p.toNat
  | .sunpin _ _ p => p.toNat
  | .sbyp _ _ p => p.toNat
  | .sclr _ _ p => p.toNat
  | .stouch _ _ p => p.toNat
  | .bset .. => 0
  | .blim .. => 0
  | .lduB32 .. => 0
  | .lduB64 .. => 0
  | .waitc .. => 0
  | .waitb .. => 0
  | .waitv .. => 0
  | .yieldW .. => 0
  | .binit .. => 0
  | .barv .. => 0
  | .bexp .. => 0
  | .bwait .. => 0
  | .btest .. => 0
  | .fence .. => 0
  | .fencex .. => 0
  | .cpy .. => 0
  | .cpyg .. => 0
  | .cpys .. => 0
  | .cpyc .. => 0
  | .close .. => 0
  | .emit .. => 0
  | .emitNb .. => 0
  | .rdsys .. => 0
  | .wrsys .. => 0
  | .tick .. => 0
  | .cyc .. => 0
  | .timerRes .. => 0
  | .timerWall .. => 0
  | .haltx .. => 0
  | .shoot .. => 0
  | .mmq _ _ _ _ _ _ p => p.toNat
  | .mms _ _ _ _ _ _ p => p.toNat
  | .obres .. => 0
  | .obrel .. => 0
  | .obld .. => 0
  | .scfifo .. => 0
  | .scpush .. => 0
  | .sccache .. => 0
  | .accz .. => 0
  | .accld .. => 0
  | .accst .. => 0
  | .accrst .. => 0
  | .snput .. => 0
  | .snfind .. => 0
  | .snget .. => 0
  | .snrel .. => 0
  | .kvmap _ _ _ p => p.toNat
  | .kvapp _ _ _ p => p.toNat
  | .kvcommit .. => 0
  | .kvfree .. => 0
  | .himm .. => 0
  | .hoff .. => 0
  | .hsched .. => 0
  | .hmod .. => 0
  | .hreg .. => 0
  | .hscope .. => 0
  | .hareg .. => 0
  | .hmark .. => 0
  | .loadReturn .. => 0
  | .matrixWordComplete .. => 0
  | .joinComplete .. => 0
  | .rcvRelease .. => 0
  | .timerFire .. => 0
  | .yieldExpire .. => 0
  | .handlerFormation .. => 0
  | .trapRelease .. => 0
  | .jobAccept .. => 0
  | .jobLand .. => 0
  | .jobComplete .. => 0
  | .jobStop .. => 0
  | .engineStep .. => 0
  | .admission .. => 0
  | .fillLands .. => 0
  | .writeBackAtHome .. => 0
  | .drainRequest .. => 0
  | .maskDrain .. => 0
  | .backInvalidation .. => 0
  | .hostSnoop .. => 0
  | .hostRead .. => 0
  | .hostWrite .. => 0
  | .peerRequest .. => 0
  | .flitReceive .. => 0
  | .replay .. => 0
  | .linkRetrain .. => 0
  | .hold .. => 0
  | .go .. => 0
  | .poolLinkLost .. => 0
  | .degradedService .. => 0
  | .serviceRestored .. => 0
  | .online .. => 0
  | .regionFence .. => 0
  | .rehome .. => 0
  | .discard .. => 0
  | .closeRefuse .. => 0
  | .closeDrain .. => 0
  | .openSluice .. => 0
  | .sluiceClosed .. => 0
  | .pshapeWrite .. => 0
  | .biasFlip .. => 0
  | .qtailWrite .. => 0
  | .qcfgWrite .. => 0
  | .tokenWrite .. => 0
  | .noOperation .. => 0
  | .kernelLaunch .. => 0
  | .signalOnly .. => 0
  | .prefixLookup .. => 0
  | .launchComplete .. => 0
  | .placeTeam .. => 0
  | .candidateReserved .. => 0
  | .forwardProgressSwap .. => 0
  | .dispatchRecord .. => 0
  | .nodeTeamCreate .. => 0
  | .nodeTimeout .. => 0
  | .create .. => 0
  | .quota .. => 0
  | .sync .. => 0
  | .preempt .. => 0
  | .resume .. => 0
  | .teardown .. => 0
  | .shootall .. => 0
  | .retry .. => 0
  | .deny .. => 0
  | .dupfill .. => 0
  | .spflush .. => 0
  | .broleWrite .. => 0
  | .pipeRatioWrite .. => 0
  | .thset .. => 0
  | .featonWrite .. => 0
  | .sensorSample .. => 0
  | .refresh .. => 0
  | .thermalWindow .. => 0
  | .scrub .. => 0
  | .retentionEntry .. => 0
  | .retentionExit .. => 0
  | .reset .. => 0
  | .powerLoss .. => 0
  | .releaseFromReset .. => 0
  | .readySet .. => 0
  | .getVersion .. => 0
  | .getCapabilities .. => 0
  | .negotiateAlgorithms .. => 0
  | .getDigests .. => 0
  | .getCertificate .. => 0
  | .challenge .. => 0
  | .getMeasurements .. => 0
  | .keyExchange .. => 0
  | .finish .. => 0
  | .keyLoad .. => 0
  | .stopTick .. => 0
  | .execWords .. => 0
  | .dbgResume .. => 0
  | .halt .. => 0
  | .clr .. => 0
  | .regWrite .. => 0
  | .notAnInstruction .. => 0
  | .lineFill .. => 0
  | .motionEnd .. => 0
  | .cycleEnd .. => 0
  | .poolLinkUp .. => 0
  | .linkTrained .. => 0
  | .sncfgWrite .. => 0
  | .fqheadWrite .. => 0
  | .fqcfgWrite .. => 0
  | .readClear .. => 0
  | .serviceKernel .. => 0

/-- An event of the table, not a word. -/
def isEvent (i : Instr) : Bool := majorOf i == 0x40
/-- A hint word (R90). -/
def isHint (i : Instr) : Bool := majorOf i == 0x3F

/-- The pipes of R48: 0 MX, 1 V0, 2 V1, 3 XF, 4 LS, 5 SC (the order of R68); a V word may take 1 or 2; 6 is none. -/
def pipeOf (i : Instr) : Nat :=
  let m := majorOf i
  if 0x30 ≤ m ∧ m ≤ 0x34 then 0
  else if m ∈ [0x0A, 0x0B, 0x0C, 0x11, 0x12] then 3
  else if (0x20 ≤ m ∧ m ≤ 0x27) ∨ m ∈ [0x2B, 0x2C, 0x3C] then 4
  else if m ∈ [0x0F, 0x10, 0x18, 0x19, 0x1A, 0x1B, 0x28, 0x29, 0x2A, 0x3D] then 5
  else if m ≥ 0x3F then 6
  else 1

/-- The repeat interval of a word in enabled pipe cycles (R48). -/
def repeatOf (i : Instr) : Nat :=
  match i with
  | .divI32 .. | .divN32 .. | .remI32 .. | .remN32 .. | .divI32Tz .. | .divN32Tz .. | .remI32Tz .. | .remN32Tz .. => 8
  | .fadd _ _ _ t _ | .fsub _ _ _ t _ | .fmul _ _ _ t _ | .fmin _ _ _ t _ | .fmax _ _ _ t _ | .fma _ _ _ t _
  | .fms _ _ _ t _ | .fnma _ _ _ t _ | .fmad _ _ _ t _ | .fabs _ _ t _ | .fneg _ _ t _ => if t = 1 then 2 else 1
  | .iopw .. => 2
  | _ => if pipeOf i = 3 then 2 else 1

/-- The weight of MMQ on a format code (R67). -/
def mmqWeight (f : Nat) : Nat :=
  match f with
  | 0 => 13
  | 1 => 11
  | 2 | 3 => 12
  | 8 => 15
  | _ => 14

/-- The weight of a word (R67). -/
def weightOf (i : Instr) : Nat :=
  match i with
  | .mmq _ _ _ f _ _ _ => mmqWeight f.toNat
  | .mms _ _ _ f _ _ _ => min 15 (mmqWeight f.toNat + 1)
  | .divI32 .. | .divN32 .. | .remI32 .. | .remN32 .. | .divI32Tz .. | .divN32Tz .. | .remI32Tz .. | .remN32Tz .. => 6
  | .fadd _ _ _ t _ | .fsub _ _ _ t _ | .fmul _ _ _ t _ | .fmin _ _ _ t _ | .fmax _ _ _ t _
  | .fabs _ _ t _ | .fneg _ _ t _ => if t = 1 then 7 else 4
  | .fma _ _ _ t _ | .fms _ _ _ t _ | .fnma _ _ _ t _ | .fmad _ _ _ t _ => if t = 1 then 9 else 5
  | _ =>
    let m := majorOf i
    if m ∈ [0x02, 0x20, 0x21, 0x22, 0x23, 0x3C, 0x32, 0x33] then 3
    else if m ∈ [0x0B, 0x0C, 0x12, 0x24, 0x25, 0x34] then 4
    else if m ∈ [0x04, 0x11] then 5
    else if m = 0x0A then 6
    else if m ∈ [0x0F, 0x10, 0x18, 0x19, 0x1A, 0x1B, 0x29, 0x2A, 0x3D] then 1
    else if m = 0x28 ∨ m ≥ 0x3F then 0
    else 2

/-- RED and SCAN operations on .f32 (R104). -/
def redIsFloat (o : Nat) : Bool := o == 1 || o == 4 || o == 5

/-- Which HMOD bits a word accepts (R91): mode and ftz, sat, inf. -/
def hmodAccepted (i : Instr) : Bool × Bool × Bool :=
  match i with
  | .red _ _ o _ => (redIsFloat o.toNat, false, false)
  | .scan _ _ o _ => (redIsFloat o.toNat, false, false)
  | _ =>
    match majorOf i with
    | 0x08 => (true, true, false)
    | 0x09 => (true, true, false)
    | 0x0A => (true, false, false)
    | 0x0B => (true, true, true)
    | 0x0C => (true, true, true)
    | _ => (false, false, false)

/-- Whether a word accepts a hint of a kind (R91). -/
def acceptsHint (i : Instr) (kind : Nat) : Bool :=
  let m := majorOf i
  match kind with
  | 0 => m == 0x01 || m == 0x10 || m == 0x30 || m == 0x31 ||
    (match i with
     | .movi .. | .movhi .. | .movx .. | .movxw .. | .xset .. | .xadd .. => true
     | _ => false)
  | 1 => (0x20 ≤ m && m ≤ 0x26) ||
    (match i with
     | .lduB32 .. | .lduB64 .. | .waitv .. => true
     | _ => false)
  | 2 => true
  | 3 => (hmodAccepted i).1
  | 4 => (match i with
     | .fmad .. | .mms .. => true
     | _ => false)
  | 5 => m == 0x24 || m == 0x25 ||
    (match i with
     | .waitv .. => true
     | _ => false)
  | 6 => m == 0x24 || m == 0x25
  | 7 => true
  | _ => false

/-- The scope code a word's own field holds (R86, R111), if it has one. -/
def scopeField (i : Instr) : Option Nat :=
  match i with
  | .ldAcq _ _ _ _ s _ => some s.toNat
  | .stRel _ _ _ _ s _ => some s.toNat
  | .fence s => some s.toNat
  | _ => none

/-- The feature bits that gate a word, its hints aside (R117). -/
def featuresOf (i : Instr) : List Nat :=
  let fmt4 (f : Nat) : List Nat := if f = 6 ∨ f = 7 ∨ f = 8 ∨ f = 9 then [4] else []
  let m := majorOf i
  (match i with
   | .mmq _ _ _ f _ _ _ => 1 :: (if f = 0 then [3] else []) ++ fmt4 f.toNat
   | .mms _ _ _ f _ _ _ => 2 :: fmt4 f.toNat
   | .cvt _ _ t s _ => fmt4 t.toNat ++ fmt4 s.toNat
   | .qblk _ _ t _ _ | .dqblk _ _ t _ _ => fmt4 t.toNat
   | .pack6 .. | .unpk6 .. | .lgenc .. | .lgdec .. => [4]
   | .lds _ _ _ y _ _ | .sts _ _ _ y _ _ => if y = 1 then [13] else []
   | .divI32Tz .. | .divN32Tz .. | .remI32Tz .. | .remN32Tz .. => [14]
   | _ => []) ++
  (if 0x32 ≤ m ∧ m ≤ 0x34 then [1] else if m = 0x11 then [5] else if m = 0x12 then [6] else if m = 0x3C then [7]
   else if m = 0x2C then [8] else if m = 0x2B then [9] else []) ++
  (match scopeField i with
   | some 8 => [10]
   | some 7 => [11]
   | _ => [])

/-- Whether a role may issue a word (R205, R238, R383). -/
def roleAdmits (r : Role) (i : Instr) : Bool :=
  let m := majorOf i
  match r with
  | .producer => !(m == 0x30 || m == 0x31 || m == 0x34)
  | .matrix => !(m == 0x2B)
  | .vector => !(m == 0x2B || (0x30 ≤ m && m ≤ 0x34))
  | .handler => !(m == 0x2B || m == 0x2C || (0x30 ≤ m && m ≤ 0x34)) &&
    (match i with
     | .binit .. | .barv .. | .bexp .. => false
     | _ => true)

/-- Words whose issue clears the yielding mark (R276). -/
def clearsYield (i : Instr) : Bool :=
  let m := majorOf i
  m == 0x21 || m == 0x23 || m == 0x24 || m == 0x25 || m == 0x2B || m == 0x2C || (0x30 ≤ m && m ≤ 0x34) || m == 0x3C ||
  (match i with
   | .spin .. | .sunpin .. | .sbyp .. | .sclr .. | .stouch .. | .barv .. | .binit .. | .bexp .. | .wrsys .. => true
   | .exitW => true
   | _ => false)

/-- A word that accesses memory or a scratchpad, which an earlier FENCE of its group holds (R278). -/
def isMemoryWord (i : Instr) : Bool :=
  let m := majorOf i
  (0x20 ≤ m && m ≤ 0x26) || m == 0x2B || m == 0x2C || m == 0x32 || m == 0x34 || m == 0x3C || m == 0x2A ||
  (match i with
   | .lduB32 .. | .lduB64 .. | .waitv .. | .exitW => true
   | _ => false)

end Sys2Proof.Machine
end

