-- ==== Sys2Proof/Machine/Operands.lean ====
section
/-! DEFINITION. The operand forms (01 R31, R36, R41, 02 R55 to R61, 03 R84, R96, 04 R121): registers of a group by
class, elements of packed operands, strings, and what a bundle's hints supply. -/
namespace Sys2Proof.Machine

/-- The banks of a role under BROLE (R75). -/
def roleBanks (brole : DWord) (r : Nat) : Nat := ((List.range 32).filter (fun n => (brole.extractLsb' (2 * n) 2).toNat == r)).length

/-! ## Vector registers -/

/-- Line i of a group (R55); a line it does not have reads as zeros. -/
def Group.line (g : Group) (i : Nat) : Line := g.lines.getD i zeroLine

/-- v(n, l) of R41: lane l of vector register n, relative to the window base. -/
def Group.v (g : Group) (n l : Nat) : Word := Line.at (g.line (g.ctl.base + n)) l

/-- A pair of registers as a 64-bit lane value, the even register low (R57). -/
def Group.v64 (g : Group) (n l : Nat) : DWord := g.v (n + 1) l ++ g.v n l

/-- k consecutive registers as one number, the lowest register low (R57, R121). -/
def Group.vN (g : Group) (n l : Nat) : Nat → Nat
  | 0 => 0
  | k + 1 => (g.v n l).toNat + 2 ^ 32 * g.vN (n + 1) l k

/-- The reuse latch of a group after a write of line i: released where it was read from it (R228). -/
def Group.latchWithout (g : Group) (i : Nat) : Option Latch := g.latch.bind (fun x => if x.lines.contains i then none else some x)

/-- Line i with the selected lanes replaced; the others keep their value, and with no lane selected nothing changes (R149). A lane word
that is written has no error (R66). -/
def Group.setLine (g : Group) (i : Nat) (sel : Lanes) (f : Nat → Word) : Group :=
  { g with
    lines := modAt g.lines i (fun x => mkLine (fun l => if sel.getLsbD l then f l else Line.at x l)),
    dirty := if sel = 0 then g.dirty else g.dirty.set i true,
    latch := if sel = 0 then g.latch else g.latchWithout i,
    lineErrs := g.lineErrs.filter (fun e => !(e.line == i && sel.getLsbD e.lane)) }

/-- Vector register n with the selected lanes replaced. -/
def Group.setV (g : Group) (n : Nat) (sel : Lanes) (f : Nat → Word) : Group := g.setLine (g.ctl.base + n) sel f

/-- k consecutive registers from n written from one number per lane, lowest register first. -/
def Group.setVN (g : Group) (n : Nat) (sel : Lanes) (f : Nat → Nat) : Nat → Group
  | 0 => g
  | k + 1 => (g.setV n sel (fun l => BitVec.ofNat 32 (f l))).setVN (n + 1) sel (fun l => f l / 2 ^ 32) k

/-- A pair written with a 64-bit lane value (R57). -/
def Group.setV64 (g : Group) (n : Nat) (sel : Lanes) (f : Nat → DWord) : Group :=
  (g.setV n sel (fun l => (f l).extractLsb' 0 32)).setV (n + 1) sel (fun l => (f l).extractLsb' 32 32)

/-! ## Scalars, predicates, index registers -/

/-- s(n) (R60). -/
def Group.s (g : Group) (n : Nat) : DWord := g.scalars.getD n 0

/-- s(n) written: the group's single copy (R60). -/
def Group.setS (g : Group) (n : Nat) (x : DWord) : Group := { g with scalars := g.scalars.set n x }

/-- p(n) of every lane; p0 reads as all ones (R59). -/
def Group.p (g : Group) (n : Nat) : Lanes := if n = 0 then BitVec.allOnes 32 else g.preds.getD n 0

/-- p(n) written in the selected lanes; a write to p0 is discarded (R59). -/
def Group.setP (g : Group) (n : Nat) (sel bits : Lanes) : Group :=
  if n = 0 then g else { g with preds := modAt g.preds n (fun old => (old &&& ~~~sel) ||| (bits &&& sel)) }

/-- x(n, l) (R58). -/
def Group.x (g : Group) (n l : Nat) : BitVec 16 := (g.index.getD n []).getD l 0

/-- x(n) written in the selected lanes. -/
def Group.setX (g : Group) (n : Nat) (sel : Lanes) (f : Nat → BitVec 16) : Group :=
  { g with index := modAt g.index n (fun old => laneList.map (fun l => if sel.getLsbD l then f l else old.getD l 0)) }

/-- Lanes for which a test holds, as a mask. -/
def lanesWhere (f : Nat → Bool) : Lanes :=
  laneList.foldl (fun acc l => if f l then acc ||| ((1#32) <<< l) else acc) 0

/-- The lanes of a mask in ascending order. -/
def laneNums (m : Lanes) : List Nat := laneList.filter (fun l => m.getLsbD l)

/-! ## Slices -/

/-- A slice that does not exist. -/
def Slice.none : Slice :=
  { pc := 0, tag := 0, live := false, present := 0, active := 0, stack := [], hints := [], bundle := .none,
    landed := false, wait := .running, partners := [], trapped := 0, disps := [], dispAt := 0 }

/-- Slice i of a group. -/
def Group.slice (g : Group) (i : Nat) : Slice := g.slices.getD i Slice.none

/-- The slices of a mask changed, each by its number. -/
def Group.modSlices (g : Group) (m : BitVec 8) (f : Nat → Slice → Slice) : Group :=
  { g with slices := g.slices.mapIdx (fun i s => if m.getLsbD i then f i s else s) }

/-- The slices for which a test holds. -/
def Group.slicesWhere (g : Group) (f : Slice → Bool) : BitVec 8 :=
  (List.range 8).foldl (fun acc i => if f (g.slice i) then acc ||| ((1#8) <<< i) else acc) 0

/-- The lanes of a slice that have not ended: its active mask and every stored one. -/
def Slice.alive (sl : Slice) : BitVec 4 := sl.stack.foldl (fun m e => m ||| e.full ||| e.pend) sl.active

/-- The live slices (R43). -/
def Group.liveSlices (g : Group) : BitVec 8 := g.slicesWhere (fun s => s.live)

/-- The numbers of a mask of slices. -/
def sliceNums (m : BitVec 8) : List Nat := (List.range 8).filter (fun i => m.getLsbD i)

/-- The active lanes of a mask of slices (R41). -/
def Group.activeLanes (g : Group) (m : BitVec 8) : Lanes :=
  lanesWhere (fun l => m.getLsbD (l / 4) && (g.slice (l / 4)).live && (g.slice (l / 4)).active.getLsbD (l % 4))

/-- The present lanes of a group (R46). -/
def Group.presentLanes (g : Group) : Lanes := lanesWhere (fun l => (g.slice (l / 4)).present.getLsbD (l % 4))

/-! ## Hints -/

/-- The payload of the hint of a kind in a bundle (R41). -/
def hintOf (hs : List (Nat × BitVec 22)) (kind : Nat) : Option (BitVec 22) := lookupNat hs kind

/-- The composed immediate of a VI word (R36): imm8 sign-extended, or payload·2^8 + imm8 read as 30 bits. -/
def immVI (hs : List (Nat × BitVec 22)) (imm : BitVec 8) : Int :=
  match hintOf hs 0 with
  | none => imm.toInt
  | some p => (p ++ imm).toInt

/-- The composed immediate of a SOPI word (R36): imm13 sign-extended, or payload·2^13 + imm13 read as 35 bits. -/
def immSI (hs : List (Nat × BitVec 22)) (imm : BitVec 13) : Int :=
  match hintOf hs 0 with
  | none => imm.toInt
  | some p => (p ++ imm).toInt

/-- The HOFF displacement, 0 without one (R41, R90). -/
def dispOf (hs : List (Nat × BitVec 22)) : Int :=
  match hintOf hs 1 with
  | none => 0
  | some p => p.toInt

/-- What HMOD sets for a word (R90, R98). -/
def modsOf (hs : List (Nat × BitVec 22)) : Mods :=
  match hintOf hs 3 with
  | none => Mods.plain
  | some p => ⟨rmOf (p.toNat % 8), p.getLsbD 3, p.getLsbD 4, p.getLsbD 5⟩

/-- The HREG register number (R90). -/
def hregOf (hs : List (Nat × BitVec 22)) : Nat := ((hintOf hs 4).getD 0).toNat % 64

/-- HSCOPE: order and scope, or order 0 at the scope a word takes without it (R97). -/
def scopeOf (hs : List (Nat × BitVec 22)) (dflt : Nat) : Nat × Nat :=
  match hintOf hs 5 with
  | none => (0, dflt)
  | some p => (p.toNat / 16 % 4, p.toNat % 16)

/-- HAREG: o and a extended to six bits (R96). -/
def haregO (hs : List (Nat × BitVec 22)) (o : BitVec 4) : Nat := o.toNat + 16 * (((hintOf hs 6).getD 0).toNat % 4)
def haregA (hs : List (Nat × BitVec 22)) (a : BitVec 4) : Nat := a.toNat + 16 * (((hintOf hs 6).getD 0).toNat / 4 % 4)

/-- The unit index of a matrix word (R113, R225): payload·32 + blk with an HIMM. -/
def blkOf (hs : List (Nat × BitVec 22)) (k : BitVec 5) : Nat := ((hintOf hs 0).getD 0).toNat * 32 + k.toNat

/-! ## Packed elements (R121) -/

/-- Element e of width w in the registers from v, lane l. -/
def Group.elem (g : Group) (v l e w : Nat) : Nat :=
  if w = 64 then (g.v64 (v + 2 * e) l).toNat
  else (g.v (v + e * w / 32) l).toNat / 2 ^ (e * w % 32) % 2 ^ w

/-- Elements of width w packed into one number, element 0 lowest. -/
def packElems (w : Nat) : List Nat → Nat
  | [] => 0
  | x :: xs => x % 2 ^ w + 2 ^ w * packElems w xs

/-! ## Lane strings (R180) -/

/-- Byte j of the string or span that starts at register s, lane l. -/
def Group.strByte (g : Group) (s l j : Nat) : Nat := (g.v (s + j / 4) l).toNat / 2 ^ (8 * (j % 4)) % 256

/-! ## System status of a group -/

/-- A group's control state changed. -/
def Group.modCtl (g : Group) (f : Ctl → Ctl) : Group := { g with ctl := f g.ctl }

/-- A group's fault state changed. -/
def Group.modFlt (g : Group) (f : Flt → Flt) : Group := { g with flt := f g.flt }

end Sys2Proof.Machine
end

