-- ==== Sys2Proof/Machine/Flags.lean ====
section
/-! DEFINITION. The truth values and status bits that words compute: compares, classes, branch conditions and the
sticky bits of GSTAT (05 R160 to R164, R179, R190, 08 R296). -/
namespace Sys2Proof.Machine

/-- cc 0 to 5 of R101 from an ordering. -/
def ccHolds (cc : Nat) (o : Ordering) : Bool :=
  match cc with
  | 0 => o == .eq
  | 1 => o != .eq
  | 2 => o == .lt
  | 3 => o != .gt
  | 4 => o == .gt
  | _ => o != .lt

/-- ICMP's truth value on two words (R162): ty 0 and 2 signed, 1 and 3 unsigned. -/
def icmp {w : Nat} (cc ty : Nat) (a b : BitVec w) : Bool :=
  ccHolds cc (if ty % 2 = 0 then compare a.toInt b.toInt else compare a.toNat b.toNat)

/-- FCMP's truth value (R163): with a NaN only ne and un hold. -/
def fcmp (cc : Nat) (a b : Exact) : Bool :=
  match a, b with
  | .nan, _ => cc == 1 || cc == 6
  | _, .nan => cc == 1 || cc == 6
  | x, y => if cc = 6 then false else if cc = 7 then true else ccHolds cc (x.cmp y)

/-- The class of a code (R164): 0 NaN, 1 infinity, 2 normal, 3 subnormal, 4 zero. -/
def fclassOf (f : Fmt) (c : Nat) : Nat :=
  match f.decode c with
  | .nan => 0
  | .inf _ => 1
  | .fin _ m _ => if m = 0 then 4 else if c / 2 ^ f.mbits % 2 ^ f.ebits = 0 then 3 else 2

/-- FCLASS's truth value (R164). -/
def fclass (f : Fmt) (mask : BitVec 6) (c : Nat) : Bool :=
  let k := fclassOf f c
  mask.getLsbD k && (!mask.getLsbD 5 || (k != 0 && c / 2 ^ (f.ebits + f.mbits) % 2 == 1))

/-- The types of FCMP and FCLASS (R101). -/
def fcmpFmt : Nat → Fmt
  | 0 => fmtF32
  | 1 => fmtF64
  | 2 => fmtF16
  | _ => fmtBf16

/-- The new predicate bit of a compare (R162): comb 0 set, 1 and, 2 or, 3 xor. -/
def combine (comb : Nat) (old r : Bool) : Bool :=
  match comb with
  | 0 => r
  | 1 => old && r
  | 2 => old || r
  | _ => old != r

/-- Carry of GSTAT as RDSYS reads it (R296). -/
def gstatOf (c : Ctl) : DWord :=
  BitVec.ofNat 64 ((if c.dz then 1 else 0) + (if c.tfired then 2 else 0) + (if c.tlate then 4 else 0) +
    (if c.yielding then 8 else 0))

/-- DZ set: the group's sticky bit of R160. -/
def Group.setDz (g : Group) (b : Bool) : Group := if b then g.modCtl (fun c => { c with dz := true }) else g

end Sys2Proof.Machine
end

