-- ==== Sys2Proof/Machine/Lines.lean ====
section
/-! DEFINITION. The register lines a word reads or writes, and those it locks as destinations of variable latency (02 R55, R56, R63
to R65). -/
namespace Sys2Proof.Machine

/-- Registers of a type of FOP, FMAC, FSPC, FCMP and FCLASS. -/
def floatRegs (t : BitVec 2) : Nat := if t = 1 then 2 else 1

/-- Registers of a memory width code (R86). -/
def widthRegs (w : BitVec 3) : Nat := if w.toNat = 3 then 2 else if w.toNat = 4 then 4 else if w.toNat = 5 then 8 else 1

/-- Registers of an atomic's type. -/
def atomRegs (t : BitVec 2) : Nat := if 2 ≤ t.toNat then 2 else 1

/-- Destination, offset and operand registers of an atomic. -/
def atomVregs (hs : List (Nat × BitVec 22)) (d : BitVec 6) (o a : BitVec 4) (t : BitVec 2) (k : Nat) : List (Nat × Nat) :=
  [(d.toNat, atomRegs t), (haregO hs o, 1), (haregA hs a, k * atomRegs t)]

/-- Vector registers a word names, with how many follow one another. MOVX and MOVXW name further lines by their index register, and
MMQ and MMS their A scales by the record: see `lateLines`. -/
def vregsOf (hs : List (Nat × BitVec 22)) (i : Instr) : List (Nat × Nat) :=
  let two (a b : BitVec 6) (n m : Nat) : List (Nat × Nat) := [(a.toNat, n), (b.toNat, m)]
  let three (a b c : BitVec 6) (n m k : Nat) : List (Nat × Nat) := [(a.toNat, n), (b.toNat, m), (c.toNat, k)]
  match i with
  | .add d a b _ | .sub d a b _ | .minI32 d a b _ | .minN32 d a b _ | .maxI32 d a b _ | .maxN32 d a b _ | .andB d a b _ | .orB d a b _
  | .xorB d a b _ | .andn d a b _ | .absdI32 d a b _ | .absdN32 d a b _ | .addsatI32 d a b _ | .addsatN32 d a b _ | .subsatI32 d a b _
  | .subsatN32 d a b _ | .shl d a b _ | .shr d a b _ | .sar d a b _ | .rol d a b _ | .ror d a b _ | .bfxN32 d a b _ | .bfxI32 d a b _
  | .bfi d a b _ | .permb d a b _ | .mul d a b _ | .mulhiI32 d a b _ | .mulhiN32 d a b _ | .mad d a b _ | .divI32 d a b _
  | .divN32 d a b _ | .remI32 d a b _ | .remN32 d a b _ | .divI32Tz d a b _ | .divN32Tz d a b _ | .remI32Tz d a b _
  | .remN32Tz d a b _ | .hcrc d a b _ | .rhash d a b _ | .pbin d a b _ | .shflIdx d a b _ | .sel d a b _ _ => three d a b 1 1 1
  | .iopw d a b _ _ => three d a b 2 2 2
  | .mulwI32 d a b _ | .mulwN32 d a b _ => three d a b 2 1 1
  | .shlB64 d a b _ | .shrB64 d a b _ | .sarB64 d a b _ | .rolB64 d a b _ | .rorB64 d a b _ => three d a b 2 2 1
  | .popcB64 d a _ | .clzB64 d a _ | .ctzB64 d a _ | .brevB64 d a _ | .hmix d a _ => two d a 2 2
  | .addi d a _ _ | .muli d a _ _ | .andi d a _ _ | .ori d a _ _ | .xori d a _ _ | .shli d a _ _ | .shri d a _ _ | .sari d a _ _
  | .popc d a _ | .clz d a _ | .ctz d a _ | .brev d a _ | .mov d a _ | .matchLanes d a _ | .shflUp d a _ _ | .shflDown d a _ _
  | .shflXor d a _ _ | .bcast d a _ _ | .red d a _ _ | .scan d a _ _ => two d a 1 1
  | .cmp _ _ _ a b t _ => two a b (atomRegs t) (atomRegs t)
  | .fcmp _ _ _ a b t _ => two a b (floatRegs t) (floatRegs t)
  | .fclass _ _ a _ t _ => [(a.toNat, floatRegs t)]
  | .fadd d a b t _ | .fsub d a b t _ | .fmul d a b t _ | .fmin d a b t _ | .fmax d a b t _ | .fma d a b t _ | .fms d a b t _
  | .fnma d a b t _ => three d a b (floatRegs t) (floatRegs t) (floatRegs t)
  | .fmad d a b t _ => (hregOf hs, floatRegs t) :: three d a b (floatRegs t) (floatRegs t) (floatRegs t)
  | .fabs d a t _ | .fneg d a t _ | .rcp d a t _ | .rsq d a t _ | .sqrt d a t _ | .exp2 d a t _ | .log2 d a t _ | .sin d a t _
  | .cos d a t _ | .tanh d a t _ => two d a (floatRegs t) (floatRegs t)
  | .cvt d a t s _ =>
    let n := cvtCount t.toNat s.toNat
    two d a (max 1 (n * fmtBits t.toNat / 32)) (max 1 (n * fmtBits s.toNat / 32))
  | .qblk d a _ l _ => two d a 2 (2 + 2 * l.toNat)
  | .dqblk d a _ l _ => two d a (2 + 2 * l.toNat) 2
  | .pack6 d a _ _ => two d a 4 4
  | .unpk6 d a _ _ => two d a 4 3
  | .lgenc d a _ => two d a 1 4
  | .lgdec d a _ => two d a 4 1
  | .movsr d _ _ | .movi d _ _ | .movhi d _ _ | .movs2v d _ _ | .movx d _ _ _ => [(d.toNat, 1)]
  | .movxw _ a _ _ | .xset _ a _ _ | .movv2s _ a _ => [(a.toNat, 1)]
  | .sld d a b _ => three d a b 4 8 1
  | .sst d a b _ => three d a b 8 4 1
  | .scmp d a b _ | .smatch d a b _ => three d a b 1 4 4
  | .sfindb d a b _ => three d a b 1 4 1
  | .sfold d a _ => two d a 4 4
  | .ld d _ o w _ _ | .st d _ o w _ _ | .lds d o w _ _ _ | .sts d o w _ _ _ => two d o (widthRegs w) 1
  | .ldAcq d _ o w _ _ | .stRel d _ o w _ _ => two d o (widthRegs w) 1
  | .atomAdd d _ o a t _ | .atomMin d _ o a t _ | .atomMax d _ o a t _ | .atomAnd d _ o a t _ | .atomOr d _ o a t _ | .atomXor d _ o a t _
  | .atomXchg d _ o a t _ | .atomFadd d _ o a t _ | .atomg d _ o a t _ | .atomsAdd d o a t _ | .atomsMin d o a t _
  | .atomsMax d o a t _ | .atomsAnd d o a t _ | .atomsOr d o a t _ | .atomsXor d o a t _ | .atomsXchg d o a t _ | .atomsFadd d o a t _
  | .atomgScratch d o a t _ => atomVregs hs d o a t 1
  | .atomCas d _ o a t _ | .atomsCas d o a t _ => atomVregs hs d o a t 2
  | .sdist d _ o _ | .spin d _ o _ => two d o 1 1
  | .sunpin _ o _ | .sbyp _ o _ | .sclr _ o _ | .stouch _ o _ => [(o.toNat, 1)]
  | .mmq _ a _ _ _ _ _ => [(a.toNat, 8)]
  | .mms _ a _ _ _ _ _ => [(a.toNat, 8), (hregOf hs, 8)]
  | .kvmap d a b _ => three d a b 1 2 1
  | .kvapp d a b _ => three d a b 1 8 1
  | _ => []

/-- The registers of a word that an operation of variable latency writes (R52, R65). -/
def lateRegs (i : Instr) : Nat :=
  match i with
  | .ld _ _ _ w _ _ | .lds _ _ w _ _ _ | .ldAcq _ _ _ w _ _ => widthRegs w
  | .atomAdd _ _ _ _ t _ | .atomMin _ _ _ _ t _ | .atomMax _ _ _ _ t _ | .atomAnd _ _ _ _ t _ | .atomOr _ _ _ _ t _
  | .atomXor _ _ _ _ t _ | .atomXchg _ _ _ _ t _ | .atomFadd _ _ _ _ t _ | .atomg _ _ _ _ t _ | .atomCas _ _ _ _ t _
  | .atomsAdd _ _ _ t _ | .atomsMin _ _ _ t _ | .atomsMax _ _ _ t _ | .atomsAnd _ _ _ t _ | .atomsOr _ _ _ t _ | .atomsXor _ _ _ t _
  | .atomsXchg _ _ _ t _ | .atomsFadd _ _ _ t _ | .atomgScratch _ _ _ t _ | .atomsCas _ _ _ t _ => atomRegs t
  | .sdist .. | .spin .. | .kvmap .. | .kvapp .. => 1
  | _ => 0

/-- The line an index register addresses in a lane (R58, 05 R177). -/
def Group.indexLine (g : Group) (hs : List (Nat × BitVec 22)) (x : Nat) (imm : BitVec 8) (l : Nat) : Int :=
  (g.ctl.base : Int) + (g.x x l).toInt + immVI hs imm

/-! ## A record as the matrix words ahead leave it (06 R212, R213) -/

/-- A scales stand in a register (06 R210). -/
def descAscale (d : DWord) : Bool := d.getLsbD 20

/-- An unbound record. -/
def ObRec.unbound : ObRec :=
  { bound := false, desc := 0, range := [], units := [], expected := 0, popped := 0, scBase := 0, scShift := 0, scCache := [] }

/-- Record n of a team. -/
def Team.obRec (t : Team) (n : Nat) : ObRec := t.obs.getD n ObRec.unbound

/-- Word 0 of record n as the words of a team ahead of one in the queue leave it; none while it is unbound. -/
def Team.descAhead (t : Team) (n : Nat) (ahead : List MxEntry) : Option DWord :=
  ahead.foldl (fun d e => match e.instr with
    | .obres _ o => if o.toNat = n then some e.sa else d
    | .obrel o => if o.toNat = n then none else d
    | _ => d) (if (t.obRec n).bound then some (t.obRec n).desc else none)

/-! ## The lines of a word -/

/-- The lines that MOVX and MOVXW reach by index in the lanes they select (05 R177), and the A scales of MMQ and MMS, in v(a + 8)
(06 R217), where the record that they name has them. `ahead` are the matrix words of the team that stand in the queue. -/
def lateLines (t : Team) (ahead : List MxEntry) (g : Group) (hs : List (Nat × BitVec 22)) (act : Lanes) (i : Instr) : List Nat :=
  let reached (x : BitVec 2) (k : BitVec 8) (p : BitVec 3) : List Nat :=
    ((laneNums (act &&& g.p p.toNat)).map (fun l => g.indexLine hs x.toNat k l)).filterMap (fun (n : Int) =>
      if 0 ≤ n ∧ n < (g.budget : Int) then some n.toNat else none)
  let scales (a : BitVec 6) (o : BitVec 3) : List Nat :=
    if ((t.descAhead o.toNat ahead).map descAscale).getD false then [g.ctl.base + a.toNat + 8] else []
  match i with
  | .movx _ x k p => reached x k p
  | .movxw x _ k p => reached x k p
  | .mmq _ a o .. | .mms _ a o .. => scales a o
  | _ => []

/-- The lines that the reuse latch is read from (06 R228): A in va to va + 7 with its scales behind it, and the metadata in eight registers from m. -/
def Group.latchNames (g : Group) (va : Nat) (m : Option Nat) : List Nat :=
  (List.range (if 48 < va then 8 else 9)).map (fun k => g.ctl.base + va + k) ++ (match m with
    | some n => (List.range 8).map (fun k => g.ctl.base + n + k)
    | none => [])

/-- The reuse latch of a group where it holds what a word names (06 R228). -/
def Group.latchFor (g : Group) (va fmt : Nat) (m : Option Nat) (sel : Lanes) : Option Latch :=
  g.latch.bind (fun x => if x.lines == g.latchNames va m && x.fmt == fmt && x.sel == sel then some x else none)

/-- Whether a word takes its A, scales and metadata from the latch, and reads no register (06 R228). -/
def Group.latched (g : Group) (hs : List (Nat × BitVec 22)) (act : Lanes) (i : Instr) : Bool :=
  match i with
  | .mmq _ a _ f _ _ p => (g.latchFor a.toNat f.toNat none (act &&& g.p p.toNat)).isSome
  | .mms _ a _ f _ _ p => (g.latchFor a.toNat f.toNat (some (hregOf hs)) (act &&& g.p p.toNat)).isSome
  | _ => false

/-- The lines of a group that a word names (R55, R56): no more than the group has. -/
def wordLines (g : Group) (hs : List (Nat × BitVec 22)) (i : Instr) : List Nat :=
  ((vregsOf hs i).flatMap (fun r => (List.range r.2).map (fun k => g.ctl.base + r.1 + k))).filter (fun n => n < g.lines.length)

/-- Vector registers that a word reads, with how many follow one another: those it names but its destination, which most words name
first. -/
def sourcesOf (hs : List (Nat × BitVec 22)) (i : Instr) : List (Nat × Nat) :=
  match i with
  | .bfi .. | .permb .. | .mad .. | .fma .. | .fms .. | .fnma .. | .sst .. | .cmp .. | .fcmp .. | .fclass .. | .movxw .. | .xset ..
  | .movv2s .. | .st .. | .stRel .. | .sts .. | .sunpin .. | .sbyp .. | .sclr .. | .stouch .. | .mmq .. | .mms .. => vregsOf hs i
  | .fmad _ a b t _ => [(hregOf hs, floatRegs t), (a.toNat, floatRegs t), (b.toNat, floatRegs t)]
  | .kvcommit .. => []
  | _ => (vregsOf hs i).tail

/-- The lines that a word locks as destinations of variable latency (R65): those from its first register on. -/
def lockLines (g : Group) (hs : List (Nat × BitVec 22)) (i : Instr) : List Nat :=
  match vregsOf hs i with
  | [] => []
  | r :: _ => (List.range (lateRegs i)).map (fun k => g.ctl.base + r.1 + k)

/-- The lines of a group that a word reads by name (R66). -/
def sourceLines (g : Group) (hs : List (Nat × BitVec 22)) (i : Instr) : List Nat :=
  (sourcesOf hs i).flatMap (fun r => (List.range r.2).map (fun k => g.ctl.base + r.1 + k))

end Sys2Proof.Machine
end

