-- ==== Sys2Proof/Machine/Ops.lean ====
section
/-! DEFINITION. The named operations every meaning is built from: access to the parts of the state, what issuing a
word means (02, 03 R116), the four ways a word can stop (13 R375): team halt, lane trap, park, deferred fault, and
trace records (23 R521). -/
namespace Sys2Proof.Machine

/-- The outcome of a step. -/
abbrev Out := Host.Outcome State Fault Refusal

/-! ## Parts of the state -/

def State.core (s : State) (c : Nat) : Core := s.cores.getD c Core.reset
def State.modCore (s : State) (c : Nat) (f : Core → Core) : State := { s with cores := modAt s.cores c f }
def State.quarter (s : State) (q : Nat) : Quarter := s.quarters.getD q Quarter.reset
def State.modQuarter (s : State) (q : Nat) (f : Quarter → Quarter) : State :=
  { s with quarters := modAt s.quarters q f }
def State.part (s : State) (q : Nat) : Part := s.parts.getD q Part.reset
def State.modPart (s : State) (q : Nat) (f : Part → Part) : State := { s with parts := modAt s.parts q f }
def State.polder (s : State) (p : Nat) : Polder := s.polders.getD p Polder.reset
def State.modPolder (s : State) (p : Nat) (f : Polder → Polder) : State :=
  { s with polders := modAt s.polders p f }
def State.ctx (s : State) (n : Nat) : Ctx := s.ctxs.getD n Ctx.reset
def State.modCtx (s : State) (n : Nat) (f : Ctx → Ctx) : State := { s with ctxs := modAt s.ctxs n f }
def State.region (s : State) (r : Nat) : Region := s.regions.getD r Region.reset
def State.modRegion (s : State) (r : Nat) (f : Region → Region) : State := { s with regions := modAt s.regions r f }
def State.link (s : State) (n : Nat) : Link := s.links.getD n Link.reset
def State.modLink (s : State) (n : Nat) (f : Link → Link) : State := { s with links := modAt s.links n f }
def State.modDev (s : State) (f : Dev → Dev) : State := { s with dev := f s.dev }
def State.modHome (s : State) (f : Home → Home) : State := { s with home := f s.home }

/-- The team with an identifier. -/
def State.team? (s : State) (id : Nat) : Option Team := s.teams.find? (fun t => t.id == id)
def State.modTeam (s : State) (id : Nat) (f : Team → Team) : State :=
  { s with teams := s.teams.map (fun t => if t.id == id then f t else t) }
/-- Group g of a team; 32 is its handler group (13 R383). -/
def Team.group? (t : Team) (g : Nat) : Option Group := if g = 32 then t.handler else t.groups[g]?
def Team.modGroup (t : Team) (g : Nat) (f : Group → Group) : Team :=
  if g = 32 then { t with handler := t.handler.map f } else { t with groups := modAt t.groups g f }
/-- Every group of a team, its handler group last. -/
def Team.allGroups (t : Team) : List Group := t.groups ++ t.handler.toList
def State.group? (s : State) (r : GRef) : Option Group :=
  match s.team? r.team with
  | none => none
  | some t => t.group? r.g
def State.modGroup (s : State) (r : GRef) (f : Group → Group) : State := s.modTeam r.team (fun t => t.modGroup r.g f)
def State.launch? (s : State) (id : Nat) : Option Launch := s.launches.find? (fun l => l.id == id)
def State.modLaunch (s : State) (id : Nat) (f : Launch → Launch) : State :=
  { s with launches := s.launches.map (fun l => if l.id == id then f l else l) }
def State.op? (s : State) (id : Nat) : Option MemOp := s.ops.find? (fun o => o.id == id)
def State.modOp (s : State) (id : Nat) (f : MemOp → MemOp) : State :=
  { s with ops := s.ops.map (fun o => if o.id == id then f o else o) }
/-- A fresh identifier for a team, launch, job or operation. -/
def State.fresh (s : State) : Nat × State := (s.dev.nextId, s.modDev (fun d => { d with nextId := d.nextId + 1 }))
/-- A draw for a free value (log 6): the counter, and the state with the counter advanced. -/
def State.draw (s : State) : Nat × State := (s.free, { s with free := s.free + 1 })

/-- The core a team is resident on. -/
def Team.core? (t : Team) : Option Nat :=
  match t.place with
  | .resident c _ => some c
  | _ => none
/-- The slot a team is resident in. -/
def Team.slot? (t : Team) : Option Nat :=
  match t.place with
  | .resident _ k => some k
  | _ => none
/-- The teams resident on a core. -/
def State.residents (s : State) (c : Nat) : List Team := s.teams.filter (fun t => t.core? == some c && !t.ended)
/-- The polder of a quarter is its lowest quarter (19 R476). -/
def lowestQuarter (mask : BitVec 4) : Nat := ((List.range 4).find? (fun q => mask.getLsbD q)).getD 0
def State.polderOf (s : State) (q : Nat) : Nat := lowestQuarter (s.part q).mask
/-- A polder's function is present: its number is the lowest quarter of some polder (R477). -/
def State.present (s : State) (p : Nat) : Bool := decide (p < 4) && s.polderOf p == p
/-- The quarters of a quarter's polder. -/
def State.polderQuarters (s : State) (q : Nat) : List Nat := (List.range 4).filter (fun k => (s.part q).mask.getLsbD k)
/-- The quarter of a core (00 R1). -/
def quarterOf (core : Nat) : Nat := core / 64
/-- A feature bit of a polder (21 R510, R511). -/
def State.feature (s : State) (p bit : Nat) : Bool :=
  let f := (s.polder p).featOn
  if bit < 64 then f.1.getLsbD bit else f.2.getLsbD (bit - 64)

/-- Saturating addition to a count (R80). -/
def satAdd {w : Nat} (x : BitVec w) (n : Nat) : BitVec w :=
  if x.toNat + n < 2 ^ w then BitVec.ofNat w (x.toNat + n) else BitVec.allOnes w

/-! ## The word that issues -/

/-- What a word sees at its issue: its issuer, address, hints, active and selected lanes. -/
structure Cx where
  ref : GRef
  team : Team
  grp : Group
  core : Nat
  slot : Nat
  word : Word
  pc : Word
  bundle : Word
  slices : BitVec 8
  act : Lanes
  hs : List (Nat × BitVec 22)
  landed : Bool
  stuffed : Option Stuffed
  deriving DecidableEq, Repr

/-- The lanes a word selects by its guard (R84). -/
def Cx.sel (c : Cx) (pg : Nat) : Lanes := c.act &&& c.grp.p pg

/-- The quarter of the issuing core. -/
def Cx.quarter (c : Cx) : Nat := quarterOf c.core
/-- The polder of the issuing core. -/
def Cx.polder (c : Cx) (s : State) : Nat := s.polderOf c.quarter
/-- The privilege level the word runs at (R21, R524). -/
def Cx.level (c : Cx) : Nat := (c.stuffed.map Stuffed.level).getD c.team.priv

/-- The issuing context of the state's `iss`, if a resident group issues. -/
def cxOf (s : State) : Option Cx :=
  match s.iss with
  | none => none
  | some is =>
    match s.team? is.ref.team with
    | none => none
    | some t =>
      match t.group? is.ref.g, t.place with
      | some g, .resident core slot =>
        let k := ((sliceNums is.slices).head?).getD 0
        let sl := g.slice k
        some { ref := is.ref, team := t, grp := g, core := core, slot := slot, word := is.word, pc := sl.pc,
               bundle := sl.bundle.getD sl.pc, slices := is.slices, act := g.activeLanes is.slices, hs := sl.hints,
               landed := sl.landed && is.stuffed.isNone, stuffed := is.stuffed }
      | _, _ => none

/-- The lines of its group that a word reads or writes (R63, R64): those it names, and those it reaches by an index or a record; none where the
reuse latch has them (06 R228). -/
def Cx.lines (c : Cx) (s : State) (i : Instr) : List Nat :=
  if c.grp.latched c.hs c.act i then []
  else wordLines c.grp c.hs i ++
    (lateLines c.team ((s.core c.core).mx.filter (fun e => e.team == c.ref.team)) c.grp c.hs c.act i).filter (fun n => n < c.grp.lines.length)

/-- The lines of its group that a word reads (R66). -/
def Cx.reads (c : Cx) (s : State) (i : Instr) : List Nat :=
  if c.grp.latched c.hs c.act i then []
  else sourceLines c.grp c.hs i ++ (match i with
    | .movxw .. => []
    | _ => lateLines c.team ((s.core c.core).mx.filter (fun e => e.team == c.ref.team)) c.grp c.hs c.act i)

/-- Whether the issuing sub-gang is every live slice of its group (R192, R232, R277). -/
def Cx.wholeGroup (c : Cx) : Bool := c.grp.liveSlices == (c.slices &&& c.grp.liveSlices)

/-- Whether a byte offset is a word of the kernel's code section (R89). -/
def Team.inCode (t : Team) (off : Int) : Bool :=
  0 ≤ off && off % 4 == 0 && off + 4 ≤ (t.shape.codeLen : Int)

/-! ## Trace records (23 R521) -/

/-- The 32 bytes of a trace record as a number. -/
def traceBytes (tick : DWord) (kind core group code : Nat) (pc : Word) (marker asid : Nat) : Nat :=
  tick.toNat + 2 ^ 64 * kind + 2 ^ 72 * core + 2 ^ 80 * group + 2 ^ 88 * code + 2 ^ 96 * pc.toNat + 2 ^ 128 * marker +
  2 ^ 144 * asid

/-- A record into a core's ring: a write of no party, past the spiral, not encrypted. -/
def State.traceRecord (s : State) (core kind group code : Nat) (pc : Word) (marker asid : Nat) : State :=
  let d := (s.core core).dbg
  let ring := 2 ^ (d.trcLog.toNat + 7)
  let pa := d.trcAddr.toNat * 4096 + 32 * (d.trcPos.toNat % ring)
  (s.modHome (fun h => h.setNat pa 32 (traceBytes s.tick kind core group code pc marker asid))).modCore core
    (fun c => { c with dbg := { c.dbg with trcPos := c.dbg.trcPos + 1 } })

/-- A marker noted while tracing is enabled; its record is written when the cycle ends. -/
def State.traceMark (s : State) (core group : Nat) (pc : Word) (marker asid : Nat) : State :=
  s.modCore core (fun c =>
    if c.dbg.trcEn then { c with dbg := { c.dbg with trcOut := c.dbg.trcOut ++ [{ group := group, pc := pc, marker := marker, asid := asid }] } }
    else c)

/-- The ASID of a team's context; 0 for a service kernel, which has none (R497). -/
def State.asidOf (s : State) (t : Team) : Nat :=
  match t.shape.ctx with
  | some n => (s.ctx n).asid.toNat
  | none => 0

/-- The records of a core's cycle: its markers, then the halts of its teams in that cycle, each with what FRSTAT and FRPC hold (13 R391). -/
def State.traceCore (s : State) (core : Nat) : State :=
  let d := (s.core core).dbg
  let marked := (d.trcOut.foldl (fun (s : State) x => s.traceRecord core 1 x.group 0 x.pc x.marker x.asid) s).modCore core
    (fun c => { c with dbg := { c.dbg with trcOut := [] } })
  if d.trcEn then
    (s.teams.filter (fun t => t.core? == some core && t.fr.halted && t.fr.haltedAt == s.cycle)).foldl
      (fun (s : State) t => s.traceRecord core 2 t.fr.group.toNat t.fr.code t.fr.pc 0 (s.asidOf t)) marked
  else marked

/-- The records of a cycle, in ascending core number (23 R521). -/
def State.traceCycle (s : State) : State :=
  ((List.range s.cores.length).filter (fun i => (s.core i).dbg.trcEn || !(s.core i).dbg.trcOut.isEmpty)).foldl State.traceCore s

/-! ## Team halt (13 R389 to R391) -/

/-- The first live slice at or after the slice pointer, counting cyclically (R45, R390). -/
def Group.firstSlice (g : Group) : Option Nat :=
  ((List.range 8).map (fun i => (g.ctl.ptr + i) % 8)).find? (fun i => (g.slice i).live)

/-- The FRGRP state of a group (R398): 0 issuing, 1 waiting, 2 parked, 3 waiting on a lane trap. Where the live slices differ it is that of the first
at or after the slice pointer, whose PC the record holds (DESIGN CHOICE, log 84): R398 gives a group one state and no rule for this. -/
def Group.stopState (g : Group) : Nat :=
  if g.ctl.park.isSome then 2
  else
    match g.firstSlice with
    | none => 0
    | some k =>
      match (g.slice k).wait with
      | .running => 0
      | .onTrap => 3
      | _ => 1

/-- Where a slice of a group resumes: the first word of its bundle (R95). -/
def Slice.resume (sl : Slice) : Word := sl.bundle.getD sl.pc

/-- The address of the first word a group has not issued (R390). -/
def Group.stopPcNow (g : Group) : Word :=
  match g.firstSlice with
  | some k => (g.slice k).resume
  | none => 0

/-- A slice at its resume point: the hint state of a bundle in progress is discarded, and the hints issue again, so that a slice inside
the word they serve, or at a join label behind them, no longer waits there (R95). -/
def Slice.rewind (sl : Slice) : Slice :=
  { sl with pc := sl.resume, hints := [], bundle := .none, wait := if sl.bundle.isSome then .running else sl.wait }

/-- What a group that raised a halt records of it: the code, the faulting word's address, and how many words it had issued after it. -/
structure Raised where
  code : Nat
  pc : Word
  skid : Nat
  deriving DecidableEq, Repr

/-- A group's own record at a halt (R390, R398): the stop PC, state, and its code if it raised the halt. A group that raised the halt,
that is parked (R379), or that stands inside a bundle, stops at once; the others may go on for their skid (log 10). Each slice stands at its resume point. -/
def Group.stop (g : Group) (raised : Option Raised) : Group :=
  { g with
    slices := g.slices.map Slice.rewind,
    flt := { g.flt with
      valid := g.liveSlices != 0, state := g.stopState, skid := (raised.map Raised.skid).getD 0,
      stopPc := (raised.map Raised.pc).getD g.stopPcNow, code := (raised.map Raised.code).getD 0,
      stopped := raised.isSome || g.ctl.park.isSome || g.slices.any (fun sl => sl.bundle.isSome) } }

/-- A group of a halted team that raises a condition of its own (R391): its first code and its PC, and it stops. Where it takes FRSTAT it is the
faulting group, whose skid counts from its faulting word (R390). -/
def Group.stopAgain (g : Group) (x : Raised) (takes : Bool) : Group :=
  if g.flt.code = 0 then
    { g with slices := g.slices.map Slice.rewind,
             flt := { g.flt with code := x.code, stopPc := x.pc, stopped := true, skid := if takes then x.skid else g.flt.skid } }
  else g

/-- Whether two teams belong to one cluster (R243). -/
def sameCluster (a b : Team) : Bool :=
  a.shape.cluster > 1 && a.launch == b.launch && a.launch.isSome && a.node.isNone && b.node.isNone &&
  a.vals.team.toNat / a.shape.cluster == b.vals.team.toNat / b.shape.cluster

/-- Whether a condition of group g takes the place of the first one in FRSTAT: it is of the same cycle and g is lower (R391). Of two teams of a
cluster that raise conditions in one cycle the one processed later is the SIB one (DESIGN CHOICE, log 83): R391 does not say which is. -/
def FaultRec.yields (f : FaultRec) (cycle g : Nat) : Bool := f.halted && f.haltedAt == cycle && !f.sib && decide (g < f.group.toNat)

/-- A team stopped in a cycle by a halt of group `who` (or of another team of the cluster: none, where FRSTAT.GROUP is 0 and CODE, FRPC and FROPER are
those of the other team's halt: DESIGN CHOICE, log 83; R391 gives SIB and the groups' codes alone). -/
def Team.halt (t : Team) (cycle : Nat) (who : Option Nat) (x : Raised) (oper : BitVec 56) (defer : Bool) : Team :=
  if t.fr.halted then
    match who with
    | some g =>
      { t.modGroup g (fun y => y.stopAgain x (t.fr.yields cycle g)) with
        fr := if t.fr.yields cycle g then
            { t.fr with group := BitVec.ofNat 6 g, code := x.code, pc := x.pc, oper := oper, defer := defer }
          else t.fr }
    | none => t
  else
    let stopG (g : Group) (k : Nat) : Group := g.stop (if who == some k then some x else none)
    { t with
      groups := t.groups.mapIdx (fun k g => stopG g k),
      handler := t.handler.map (fun g => stopG g 32),
      traps := [],
      fr := { t.fr with
        halted := true, haltedAt := cycle, defer := defer && who.isSome, sib := who.isNone,
        pending := satAdd 0 t.traps.length, group := BitVec.ofNat 6 (who.getD 0), code := x.code, pc := x.pc, oper := oper } }

/-- A team-halt condition (R389, R391): the team halts, every other team of its cluster with it, a SEQ word that waits
for a page is discarded (17 R467), a word of the matrix unit that does never performs (R379), and the launch notes the first code for its report (15 R407, R408). The trace record of the halt is written
when the cycle ends (23 R521).
`skid` is what the group had issued after the faulting word. -/
def State.halt (s : State) (r : GRef) (code : Nat) (pc : Word) (oper : BitVec 56) (defer : Bool := false) (skid : Nat := 0) : State :=
  match s.team? r.team with
  | none => s
  | some t =>
    let x : Raised := { code := code, pc := pc, skid := skid }
    let hit (u : Team) : Bool := u.id == t.id || sameCluster t u
    let s1 := { s with
      teams := s.teams.map (fun u =>
        if u.id == t.id then u.halt s.cycle (some r.g) x oper defer
        else if sameCluster t u then u.halt s.cycle none x oper false else u),
      ops := s.ops.filter (fun o => o.page.isNone || !s.teams.any (fun u => u.id == o.team && hit u)),
      cores := s.cores.map (fun (c : Core) => { c with
        mx := c.mx.filter (fun e => e.held.isNone || !s.teams.any (fun u => u.id == e.team && hit u)) }) }
    match t.launch with
    | some l =>
      let noted (h : Option Nat) : Nat := if t.fr.yields s.cycle r.g && h == some t.fr.code then code else h.getD code
      s1.modLaunch l (fun y => { y with haltCode := some (noted y.haltCode) })
    | none => s1

/-- Words of a group issued after one that had issued as its `seq`th (R390). -/
def State.skidSince (s : State) (r : GRef) (seq : Nat) : Nat :=
  match s.group? r with
  | some g => g.ctl.words - seq
  | none => 0

/-- An EXEC ends with a status and fault code; a word that had left the group does not count as completed (R524). -/
def State.endExec (s : State) (x : Stuffed) (status code : Nat) (undo : Bool := false) : State :=
  s.modCore x.agent (fun k => { k with dbg := { k.dbg with
    busy := false, status := BitVec.ofNat 8 status, fcode := BitVec.ofNat 8 code,
    done := if undo then k.dbg.done - 1 else k.dbg.done } })

/-- A condition of the team-halt class raised by the issuing word (R94): at the first word of its bundle. A stuffed
word has no effect and ends EXEC with FAULT and its code (R524). -/
def raiseOp (c : Cx) (s : State) (code : Nat) (oper : BitVec 56) : State :=
  match c.stuffed with
  | some x => s.endExec x 3 code
  | none => s.halt c.ref code c.bundle oper

/-- ILLOP with the word's value (R376). -/
def illop (c : Cx) (s : State) : State := raiseOp c s 0x10 (c.word.setWidth 56)

/-! ## Checks before a word's effect (03 R116) -/

/-- The bundle rules of R92 that are left once each hint is an allocated word: one hint of a kind, each accepted, each
HMOD bit accepted, HREG where the word requires it. -/
def bundleOk (i : Instr) (hs : List (Nat × BitVec 22)) : Bool :=
  let kinds := hs.map Prod.fst
  let h := hmodAccepted i
  let p := (hintOf hs 3).getD 0
  decide kinds.Nodup && hs.all (fun x => acceptsHint i x.1) &&
  (!(p.getLsbD 3) || h.2.1) && (!(p.getLsbD 5) || h.2.2) &&
  (match i with
   | .fmad .. | .mms .. => (hintOf hs 4).isSome
   | _ => true)

/-- The encoding conditions that a word's hints decide (R97, R115, R142, R148, R154, R166, R176, R179, R225, R269). -/
def hintedOk (i : Instr) (hs : List (Nat × BitVec 22)) : Bool :=
  let inf := ((hintOf hs 3).getD 0).getLsbD 5
  let sc := (hintOf hs 5).isSome
  let so := scopeOf hs 5
  match i with
  | .shli _ _ k _ | .shri _ _ k _ | .sari _ _ k _ => decide (0 ≤ immVI hs k ∧ immVI hs k ≤ 31)
  | .movhi _ k _ => decide (0 ≤ immVI hs k ∧ immVI hs k ≤ 0xFFFF)
  | .sshli _ _ k | .sshri _ _ k => decide (0 ≤ immSI hs k ∧ immSI hs k ≤ 63)
  | .cvt _ _ t _ _ => !inf || t == 4 || t == 5
  | .cvts _ _ t _ => !inf || t == 4 || t == 5
  | .qblk _ _ t _ _ | .dqblk _ _ t _ _ => !inf || t == 4 || t == 5
  | .fmad _ _ _ t _ => t != 1 || hregOf hs % 2 == 0
  | .mms .. => hregOf hs % 8 == 0
  | .atomg .. => so.1 == 0
  | .atomgScratch .. => so.1 == 0 && (!sc || so.2 ≤ 1)
  | .atomsAdd .. | .atomsMin .. | .atomsMax .. | .atomsAnd .. | .atomsOr .. | .atomsXor .. | .atomsXchg ..
  | .atomsCas .. | .atomsFadd .. => !sc || so.2 ≤ 1
  | .waitv .. => so.1 ≤ 1
  | _ => true

/-- The feature bits a bundle's hints need (R91, R117): sr, and the scopes .pool and .peer. -/
def hintFeatures (hs : List (Nat × BitVec 22)) : List Nat :=
  (if (modsOf hs).rm = .sr then [12] else []) ++
  (match hintOf hs 5 with
   | some p => if p.toNat % 16 = 8 then [10] else if p.toNat % 16 = 7 then [11] else []
   | none => [])

/-- The level a word needs by itself (R112, R293): HALTX and SHOOT are admitted at drv and fw only. -/
def minLevel (i : Instr) : Nat :=
  match i with
  | .haltx .. | .shoot .. => 1
  | _ => 0

/-- The first check of R116 that a word fails, as its fault code: ILLOP 0x10 or ILLROLE 0x11. -/
def precheck (s : State) (c : Cx) (i : Instr) : Option Nat :=
  if c.landed || !bundleOk i c.hs then some 0x10
  else if !i.wf || !hintedOk i c.hs then some 0x10
  else if !(featuresOf i ++ hintFeatures c.hs).all (fun b => s.feature (c.polder s) b) then some 0x10
  else if c.level < minLevel i then some 0x10
  else if !roleAdmits c.grp.role i then some 0x11
  else none

/-! ## Issuing -/

/-- The pipe ratio of a pipe (R76): k of k/8. PIPE_RATIO holds V0, V1, MX, LS, SC, XF from bit 0. -/
def ratioOf (r : BitVec 12) (pipe : Nat) : Nat :=
  let f := match pipe with
    | 0 => 2
    | 1 => 0
    | 2 => 1
    | 3 => 5
    | 4 => 3
    | _ => 4
  match r.toNat / 4 ^ f % 4 with
  | 0 => 8
  | 1 => 6
  | 2 => 4
  | _ => 2

/-- Whether a pipe at ratio k/8 is enabled at a phase (R49). -/
def phaseEnabled (k phase : Nat) : Bool := (phase % 8 + 1) * k / 8 > phase % 8 * k / 8

/-- A pipe accepts a word now: enabled, not used in this cycle, its repeat interval over (R48, R49). -/
def CoreClk.pipeFree (k : CoreClk) (pipe : Nat) : Bool :=
  phaseEnabled (ratioOf k.ratio pipe) k.phase && !(k.issued.any (fun w => w.pipe == pipe)) && k.pipeBusy.getD pipe 0 == 0

/-- A core's clock in the first cycle after its release from reset or its exit from retention: phase 0 (R49), at which a ratio that has
been written is in force (R50). -/
def CoreClk.start (k : CoreClk) : CoreClk := { k with phase := 0, ratio := k.ratioNext.getD k.ratio, ratioNext := none }

/-- The pipe a word takes (R48): V0 when both V pipes can, else V1. -/
def CoreClk.pipeFor (k : CoreClk) (i : Instr) : Nat :=
  let p := pipeOf i
  if p = 1 then (if k.pipeFree 1 then 1 else 2) else p

/-- The charge of a word (R67). -/
def chargeOf (i : Instr) (act : Lanes) : Nat :=
  if isHint i then 0 else if pipeOf i = 5 then weightOf i else weightOf i * (laneNums act).length

/-- The group slot of a group of the team in a slot of a core: 0 to 31, the handler slot 32 (R413). -/
def State.groupSlot (s : State) (core slot gi : Nat) : Nat :=
  if gi = 32 then 32
  else (s.residents core).foldl (fun acc t => if (t.slot?).getD 0 < slot then acc + t.groups.length else acc) 0 + gi

/-- The group slot of the issuing group. -/
def Cx.groupSlot (c : Cx) (s : State) : Nat := s.groupSlot c.core c.slot c.ref.g

/-- The record of a word that issues in its core's cycle (R48, R67, R414, R416). -/
def issuedOf (c : Cx) (s : State) (i : Instr) (pipe : Nat) : Issued :=
  { team := c.ref.team, group := c.ref.g, pipe := pipe, charge := chargeOf i c.act, heavy := decide (8 ≤ weightOf i),
    counted := !(c.grp.ctl.yielding && !clearsYield i), hint := isHint i, pc := c.pc, slices := c.slices, active := c.act,
    sel := c.sel (guardOf i), lines := c.lines s i }

/-- A word enters a core's issue accounts: the pipe's repeat interval starts and its round-robin moves on (R48, R49, R413). -/
def CoreClk.account (k : CoreClk) (w : Issued) (interval slotNo : Nat) : CoreClk :=
  { k with
    issued := k.issued ++ [w],
    pipeBusy := if w.pipe < 6 then k.pipeBusy.set w.pipe interval else k.pipeBusy,
    rr := if w.pipe < 6 then k.rr.set w.pipe ((slotNo + 1) % 33) else k.rr }

/-- The trace record of HMARK (R96, R521). -/
def noteMark (c : Cx) (i : Instr) (s : State) : State :=
  match hintOf c.hs 7 with
  | some m => if isHint i then s else s.traceMark c.core c.ref.g c.pc (m.toNat % 65536) (s.asidOf c.team)
  | none => s

/-- A stuffed word that issues counts in DONE (R524). -/
def noteDone (c : Cx) (s : State) : State :=
  match c.stuffed with
  | some x => s.modCore x.agent (fun k => { k with dbg := { k.dbg with done := k.dbg.done + 1 } })
  | none => s

/-- The accounts of a word that issues: pipe, charge, round-robin pointer, yielding mark, last counted word (R67, R276,
R413, R414, R416), and the trace record of HMARK (R96, R521). A stuffed word takes its group's issue slot (R524), so that it
enters them too. -/
def noteIssue (c : Cx) (i : Instr) (s : State) : State :=
  let w := issuedOf c s i ((s.core c.core).clk.pipeFor i)
  let s1 := (noteDone c s).modCore c.core (fun x => { x with clk := x.clk.account w (repeatOf i) (c.groupSlot s) })
  noteMark c i (if w.counted then s1.modTeam c.ref.team (fun t => { t with lastCounted := s.cycle }) else s1)

/-- HSCHED's delays for the word that issues (R54): yield makes the group ineligible in the next cycle and last in
round-robin, stall n puts its next issue at least n + 1 cycles later. Of two words with yield = 1 that a core issues in one cycle, the
one that issued last sets the pointers (DESIGN CHOICE, log 63): R54 does not say which does. -/
def schedule (c : Cx) (s : State) : State :=
  match hintOf c.hs 2 with
  | none => s
  | some p =>
    let y := p.toNat % 2
    let n := p.toNat / 2 % 16
    let s1 := s.modGroup c.ref (fun g => g.modCtl (fun k =>
      { k with stallUntil := max k.stallUntil (s.cycle + max (n + 1) (if y = 1 then 2 else 1)) }))
    if y = 1 then s1.modCore c.core (fun k => { k with clk := { k.clk with rrNext := some ((c.groupSlot s + 1) % 33) } }) else s1

/-- Slices that have reached the label on top of the join stack wait there, not issuing (R198). -/
def Group.settle (g : Group) : Group :=
  match g.ctl.joins with
  | [] => g
  | (label, _) :: _ =>
    { g with slices := g.slices.map (fun sl =>
        if sl.live && sl.wait == .running && sl.pc == label then { sl with wait := .atJoin } else sl) }

/-- A slice of the issuing sub-gang as its word leaves it: at its next PC, hint state spent. A stuffed word moves no slice (R524). -/
def Cx.movedSlice (c : Cx) (next : Word × Bool) (sl : Slice) : Slice :=
  if c.stuffed.isSome then { sl with hints := [], bundle := none }
  else { sl with pc := next.1, landed := next.2, hints := [], bundle := none,
                 wait := if sl.wait = .inWord ∨ sl.wait = .inTimed then .running else sl.wait }

/-- The first issue at the PC at which a RESUME left a group uses up its exemption from breakpoints (23 R519). -/
def Ctl.skipAfter (k : Ctl) (pc : Word) : Option Word := if k.bpSkip == some pc then none else k.bpSkip

/-- A group's control state as a word leaves it: the slice pointer after the highest slice of the sub-gang (R45), and one more word
issued. -/
def Cx.movedCtl (c : Cx) (i : Instr) (k : Ctl) : Ctl :=
  if c.stuffed.isSome then k
  else
    { k with
      ptr := (((sliceNums c.slices).getLast?).getD 7 + 1) % 8, bpSkip := k.skipAfter c.bundle, words := k.words + 1,
      yielding := k.yielding && !clearsYield i, kept := k.kept.filter (fun x => x.slices &&& c.slices == 0) }

/-- The issuing group as its word leaves it (R45, R47, R189). -/
def Cx.moved (c : Cx) (i : Instr) (next : Nat → Word × Bool) (g : Group) : Group :=
  { g with
    started := true, slices := (g.modSlices c.slices (fun k sl => c.movedSlice (next k) sl)).slices,
    ctl := c.movedCtl i g.ctl }

/-- The word leaves its issuing sub-gang: each slice at its next PC, hint state spent, the slice pointer after the
highest slice (R45, R47, R189). `next` gives each slice's next PC and whether it was reached by a transfer. -/
def retireBy (c : Cx) (i : Instr) (s : State) (next : Nat → Word × Bool) : State :=
  schedule c ((noteIssue c i s).modGroup c.ref (fun g => (c.moved i next g).settle))

/-- A word that continues at the next word. -/
def retire (c : Cx) (i : Instr) (s : State) : State := retireBy c i s (fun _ => (c.pc + 4, false))

/-- A word that transfers its whole sub-gang to an address (R189). -/
def retireTo (c : Cx) (i : Instr) (s : State) (pc : Word) : State := retireBy c i s (fun _ => (pc, true))

/-- A word that waits, not issuing (R45): its slices are inside it until its condition holds. A stuffed word leaves the
slices of its halted group as they are (R524). -/
def stayWaiting (c : Cx) (s : State) (timed : Bool := false) : State :=
  if c.stuffed.isSome then s
  else
    s.modGroup c.ref (fun g => { (g.modSlices c.slices (fun _ sl => { sl with wait := if timed then .inTimed else .inWord })) with
      started := true })

/-- The issue of a word: without an issuing group a fault; a check of R116 that fails decides; else its effect. -/
def word (i : Instr) (s : State) (effect : Cx → State → State) : Out :=
  match cxOf s with
  | none => .fault .noIssuer
  | some c =>
    match precheck s c i with
    | some code => .next (raiseOp c s code (c.word.setWidth 56))
    | none => .next (effect c s)

/-- A word whose whole effect is a change of its group's registers, after which it continues at the next word. -/
def aluWord (i : Instr) (s : State) (f : Cx → Group → Group) : Out :=
  word i s (fun c s => retire c i (s.modGroup c.ref (f c)))

/-! ## Divided sub-gangs (02 R44) -/

/-- The lowest slice of a mask. -/
def lowestSlice (m : BitVec 8) : Nat := ((sliceNums m).head?).getD 0

/-- A part of a divided sub-gang takes its lowest slice's number as its tag. -/
def Group.retag (g : Group) (m : BitVec 8) : Group := g.modSlices m (fun _ sl => { sl with tag := lowestSlice m })

/-- Both parts of a division retagged (R44 rule 1). -/
def Group.divide (g : Group) (a b : BitVec 8) : Group := (g.retag a).retag b

/-- Two parts become partners (R197, R254, R380). -/
def Group.partner (g : Group) (a b : BitVec 8) : Group :=
  let add (m other : BitVec 8) (g : Group) : Group :=
    g.modSlices m (fun _ sl => { sl with partners := (sl.partners ++ sliceNums other).eraseDups })
  add a b (add b a g)

/-! ## Lane traps (13 R380, R381) -/

/-- A lane trap of a word in the given lanes: entries in the collector in lane order, the slices that hold them leave
their sub-gang and wait, the others go on (R380). The word has already completed in its other lanes and retired. In a
handler group it halts the team with HNDTRAP (R383). In a halted team the entries are discarded and counted (R388). -/
def trapLanes (c : Cx) (s : State) (lanes : Lanes) (code : Nat) (operand : Nat → Word) (dest : Option Nat) : State :=
  if lanes = 0 then s
  else
    let entries := (laneNums lanes).map (fun l =>
      ({ cycle := s.cycle, group := c.ref.g, lane := l, pc := c.pc, code := code, operand := operand l, dest := dest,
         dbase := c.grp.ctl.base, seq := c.grp.ctl.words + 1, issuedTo := s.dev.nextId } : TrapEntry))
    let hit : BitVec 8 := c.grp.slicesWhere (fun _ => true) &&& c.slices &&&
      (List.range 8).foldl (fun acc i => if lanes.extractLsb' (4 * i) 4 = 0 then acc else acc ||| ((1#8) <<< i)) 0
    let stay := c.slices &&& ~~~hit
    (s.modTeam c.ref.team (fun t =>
      if t.fr.halted then { t with fr := { t.fr with pending := satAdd t.fr.pending entries.length } }
      else { t with traps := t.traps ++ entries })).modGroup c.ref (fun g =>
      let g1 := g.modSlices hit (fun i sl =>
        { sl with wait := .onTrap, trapped := lanes.extractLsb' (4 * i) 4, disps := [] })
      if stay = 0 then g1 else (g1.divide hit stay).partner hit stay)

/-- The operand of NOHNDL and HNDTRAP (R395): the trap's code and operand. -/
def trapOper (code : Nat) (operand : Word) : BitVec 56 := BitVec.ofNat 56 (code + 256 * operand.toNat)

/-- A word of a form that may trap lanes: `effect` completes it in the lanes that do not, then it retires, then the
trapping lanes are collected. In a handler group the trap halts the team instead, with no effect (R383, R389). -/
def trapWord (i : Instr) (s : State) (lanes : Cx → Lanes) (code : Nat) (operand : Cx → Nat → Word)
    (dest : Option Nat) (f : Cx → Group → Group) : Out :=
  word i s (fun c s =>
    let bad := lanes c
    if bad = 0 then retire c i (s.modGroup c.ref (f c))
    else if c.grp.role = .handler then
      raiseOp c s 0x1F (trapOper code (operand c (((laneNums bad).head?).getD 0)))
    else if c.stuffed.isSome then raiseOp c s code 0
    else trapLanes c (retire c i (s.modGroup c.ref (f c))) bad code (operand c) dest)

/-! ## Deferred faults (13 R392, R393) -/

/-- A deferred fault recorded for a group (R392). -/
def State.deferFault (s : State) (r : GRef) (code : Nat) (oper : BitVec 56) : State :=
  s.modGroup r (fun g => g.modFlt (fun f => { f with pending := f.pending ++ [(code, oper)] }))

/-- Delivery under REPORT = 1 (R392, R393, R397): codes, count, first code and first operand; several faults of one
code are delivered as one. -/
def Flt.deliver (f : Flt) : Flt :=
  match f.pending with
  | [] => f
  | (c0, o0) :: _ =>
    let bits := f.pending.foldl (fun acc p => acc ||| ((1#7) <<< (p.1 - 0x40))) (0 : BitVec 7)
    let empty := f.count = 0
    { f with
      pending := [], codes := f.codes ||| bits, count := satAdd f.count (f.pending.map Prod.fst).eraseDups.length,
      first := if empty then BitVec.ofNat 7 (c0 - 0x40) else f.first,
      addr := if empty then o0 else f.addr }

end Sys2Proof.Machine
end

