-- ==== Sys2Proof/Machine/Records.lean ====
section
/-! DEFINITION. Operand-buffer reservation records, their ranges and scales (06 R208 to R223). -/
namespace Sys2Proof.Machine

/-! ## Bytes of a list of 32-bit words -/

/-- One byte of a list of words. -/
def wordsByte (ws : List Word) (a : Nat) : Nat := (ws.getD (a / 4) 0).toNat / 2 ^ (8 * (a % 4)) % 256

/-- n bytes of a list of words. -/
def wordsNat (ws : List Word) (a : Nat) : Nat → Nat
  | 0 => 0
  | n + 1 => wordsByte ws a + 256 * wordsNat ws (a + 1) n

/-- One byte of a list of words written. -/
def setWordsByte (ws : List Word) (a b : Nat) : List Word :=
  modAt ws (a / 4) (fun w => (w &&& ~~~((0xFF#32) <<< (8 * (a % 4)))) ||| (BitVec.ofNat 32 (b % 256) <<< (8 * (a % 4))))

/-- n bytes of a list of words written. -/
def setWordsNat (ws : List Word) (a : Nat) : Nat → Nat → List Word
  | 0, _ => ws
  | n + 1, v => setWordsNat (setWordsByte ws a v) (a + 1) n (v / 256)

/-! ## Descriptors (R210, R211) -/

def descFmt (d : DWord) : Nat := (d.extractLsb' 10 4).toNat
def descSize (d : DWord) : Nat := (d.extractLsb' 0 10).toNat
def descBlen (d : DWord) : Nat := if d.getLsbD 14 then 32 else 16
def descSsrc (d : DWord) : Nat := (d.extractLsb' 15 2).toNat
def descSkind (d : DWord) : Nat := if d.getLsbD 17 then 1 else 0
/-- N of SPARSE: stored values per 16, 0 for a dense record. -/
def descSparse (d : DWord) : Nat :=
  match (d.extractLsb' 18 2).toNat with
  | 0 => 0
  | 1 => 8
  | 2 => 4
  | _ => 2
def descSoff (d : DWord) : Nat := (d.extractLsb' 32 16).toNat

/-- Formats with block scales. -/
def scaledFmt (f : Nat) : Bool := 4 ≤ f && f ≤ 8

/-- The conditions of R210. -/
def descOk (d : DWord) : Bool :=
  d.extractLsb' 48 16 == 0 && d.extractLsb' 21 11 == 0 && descFmt d ≤ 10 && 1 ≤ descSize d && descSize d ≤ 384 &&
  (descSparse d == 0 || descFmt d != 0) && descSsrc d != 3 && (descSsrc d == 0 || scaledFmt (descFmt d)) &&
  (descSoff d == 0 || descSsrc d == 2) && (!descAscale d || (scaledFmt (descFmt d) && descSparse d == 0))

/-- K of a format (R201). -/
def kOf (f : Nat) : Nat :=
  match f with
  | 0 => 4
  | 1 => 8
  | 2 | 3 => 16
  | 8 => 64
  | _ => 32

/-- Kd of a record (R211). -/
def descK (d : DWord) : Nat := if descSparse d = 0 then kOf (descFmt d) else 2 * kOf (descFmt d)
/-- The unit of a record in bytes (R211). -/
def descUnit (d : DWord) : Nat := if descSparse d = 0 then 256 else 512
/-- The units of a record's range. -/
def descUnits (d : DWord) : Nat := 1024 * descSize d / descUnit d
/-- Scale codes of a B unit (R217). -/
def descCodes (d : DWord) : Nat := 8 * descK d / descBlen d

/-- Bits of an element of A and of a B element stored whole (R201, R202). -/
def elemBits (fmt : Nat) : Nat :=
  match fmt with
  | 0 => 64
  | 1 => 32
  | 2 | 3 => 16
  | 8 => 4
  | _ => 8

/-- The byte offset of element (k, n) in a unit (R223). -/
def bOff (fmt kd k n : Nat) : Nat :=
  let j := n * kd + k
  if fmt = 6 ∨ fmt = 7 ∨ fmt = 8 then j / 2 else j * (elemBits fmt / 8)

/-- The scale addresses of a unit in the order of R217's indices (R223), formed modulo 2^64 (DESIGN CHOICE, log 71). -/
def scaleAddrs (r : ObRec) (tag : Nat) : List Nat :=
  let kd := descK r.desc
  let per := kd / descBlen r.desc
  (List.range (8 * per)).map (fun i =>
    (r.scBase.toNat + (tag + bOff (descFmt r.desc) kd (i % per * descBlen r.desc) (i / per)) / 2 ^ r.scShift + descSoff r.desc) %
      2 ^ 64)

/-- Record n of a team changed. -/
def Team.modRec (t : Team) (n : Nat) (f : ObRec → ObRec) : Team := { t with obs := modAt t.obs n f }

/-- A unit's tag set and its attached scales dropped (R214). -/
def ObRec.tagUnit (r : ObRec) (u : Nat) (va : Nat) : ObRec :=
  { r with units := modAt r.units u (fun _ => { tag := some (BitVec.ofNat 56 va), scales := none }) }

end Sys2Proof.Machine
end

