-- ==== Sys2Proof/Machine/Space.lean ====
section
/-! DEFINITION. Where physical addresses lie (19 R479 to R482, R491, R494, 20 R497, 21 R512): interleave ranges, pool
regions, homes, dikes and links. -/
namespace Sys2Proof.Machine

/-- An interleave range (R481). -/
structure Range where
  base : Nat
  size : Nat
  choff : Nat
  host : Bool
  qmask : BitVec 4
  deriving DecidableEq, Repr

/-- Number of quarters in a mask. -/
def maskCount (m : BitVec 4) : Nat := ((List.range 4).filter (fun q => m.getLsbD q)).length

/-- Registers IRBASEn and IRCFGn as a range, if VALID (R481). -/
def rangeOf (b c : DWord) : Option Range :=
  if b.getLsbD 0 then
    some { base := (b.extractLsb' 30 22).toNat * 2 ^ 30, size := (c.extractLsb' 12 12).toNat * 2 ^ 30,
           choff := (c.extractLsb' 32 16).toNat * 2 ^ 20, host := c.getLsbD 8, qmask := c.extractLsb' 4 4 }
  else none

/-- The conditions of R481 on a range alone. -/
def Range.fits (r : Range) (polder : BitVec 4) : Bool :=
  let k := maskCount r.qmask
  (k == 1 || k == 2 || k == 4) && (r.qmask &&& ~~~polder == 0) &&
  decide (r.size / (64 * k) + r.choff ≤ 3 * 2 ^ 29)

/-- Two ranges share an address. -/
def Range.meets (a b : Range) : Bool := a.size != 0 && b.size != 0 && decide (a.base < b.base + b.size ∧ b.base < a.base + a.size)

/-- A range holds an address. -/
def Range.has (r : Range) (pa : Nat) : Bool := decide (r.base ≤ pa ∧ pa < r.base + r.size)

/-- The range registers of a quarter that hold VALID = 1 and meet R481 by themselves, by register number. -/
def State.fittingRanges (s : State) (q : Nat) : List (Nat × Range) :=
  (List.range 8).filterMap (fun i =>
    match rangeOf ((s.part q).irBase.getD i 0) ((s.part q).irCfg.getD i 0) with
    | some r => if r.fits (s.part q).mask then some (i, r) else none
    | none => none)

/-- The range registers that the quarters of a quarter's polder hold with VALID = 1 and that meet R481 by themselves, each with its quarter and
register number. -/
def State.polderRanges (s : State) (q : Nat) : List (Nat × Nat × Range) :=
  (s.polderQuarters q).flatMap (fun k => (s.fittingRanges k).map (fun x => (k, x.1, x.2)))

/-- The valid ranges of a quarter's polder: those that overlap no other one. The same range in the lists of two quarters is one (R481). -/
def State.ranges (s : State) (q : Nat) : List Range :=
  let rs := s.polderRanges q
  (rs.filter (fun x => rs.all (fun y =>
    (if x.1 = y.1 then x.2.1 == y.2.1 else x.2.2 == y.2.2) || !x.2.2.meets y.2.2))).map (fun x => x.2.2)

/-- The valid range that holds a physical address. -/
def State.rangeAt (s : State) (q pa : Nat) : Option Range := (s.ranges q).find? (fun r => r.has pa)

/-- Channel and offset of an address in its range (R482). -/
def Range.place (r : Range) (pa : Nat) : Nat × Nat :=
  let k := maskCount r.qmask
  let t := (pa - r.base) / 4096
  let n := 64 * k
  let f := (t % 256) ^^^ (t / 2 ^ 8 % 256) ^^^ (t / 2 ^ 16 % 256) ^^^ (t / 2 ^ 24 % 256)
  let j := f % n
  let quarter := (((List.range 4).filter (fun q => r.qmask.getLsbD q)).getD (j / 64) 0)
  (64 * quarter + j % 64, r.choff + t / n * 4096 + pa % 4096)

/-- A region as an interval of physical addresses (R491). -/
def Region.has (r : Region) (pa : Nat) : Bool :=
  decide (r.size ≠ 0 ∧ r.base.toNat * 2 ^ 30 ≤ pa ∧ pa < (r.base.toNat + r.size.toNat) * 2 ^ 30)

/-- The region in use that holds a physical address. -/
def State.regionAt (s : State) (pa : Nat) : Option Nat := s.regions.findIdx? (fun r => r.has pa)

/-- The tier of a physical address by where it lies (R497): 0 local, 1 pool, 2 host. -/
def State.rawTier (s : State) (q pa : Nat) : Nat :=
  if (s.rangeAt q pa).isSome then 0 else if (s.regionAt pa).isSome then 1 else 2

/-- Whether requests pass between two quarters (R479). -/
def State.passes (s : State) (a b : Nat) : Bool := a == b || ((s.part a).pass.getLsbD b && (s.part b).pass.getLsbD a)

/-- What a request from a quarter to a place meets. -/
inductive Reach where
  /-- It reaches the home quarter. -/
  | home (q : Nat)
  /-- It is dropped (R480, R481). -/
  | drop
  /-- It meets a pool region that is LOST or FENCED (R492). -/
  | region (r : Nat)
  deriving DecidableEq, Repr

/-- Where a request of quarter q to a physical address of a tier goes (R317, R479, R481, R492). A pool address that no
region in use holds is dropped, as a local one outside every range is (log 17). -/
def State.reach (s : State) (q pa tier : Nat) : Reach :=
  let at_ (h : Nat) : Reach := if s.passes q h then .home h else .drop
  match tier with
  | 0 =>
    match s.rangeAt q pa with
    | some r => at_ ((r.place pa).1 / 64)
    | none => .drop
  | 1 =>
    match s.regionAt pa with
    | some n =>
      let r := s.region n
      if r.state = .lost ∨ r.state = .fenced then .region n else at_ r.port.toNat
    | none => .drop
  | _ => at_ (lowestQuarter (s.part q).mask)

/-- A dropped request counted at its sender (R480). -/
def State.countDrop (s : State) (q : Nat) : State := s.modPart q (fun p => { p with drops := satAdd p.drops 1 })

/-- Whether the function that serves an address has passed its self-test (R512): accesses wait until then. -/
def State.homeReady (s : State) (q pa tier : Nat) : Bool :=
  match tier with
  | 0 =>
    match s.rangeAt q pa with
    | some r => s.dev.readyDram.getLsbD ((r.place pa).1 / 16)
    | none => true
  | 1 =>
    match s.regionAt pa with
    | some n => s.dev.readyPool.getLsbD (s.region n).port.toNat
    | none => true
  | _ => s.dev.readyHost

/-- Whether the channel that holds a local address is in one of its refreshes (21 R502). -/
def State.refreshing (s : State) (q pa tier : Nat) : Bool :=
  tier == 0 && (match s.rangeAt q pa with
    | some r => decide (s.tick.toNat < ((s.dev.channels[(r.place pa).1]?).map Channel.busyTo).getD 0)
    | none => false)

/-- A Breson link that carries requests now (R494, R510, R512). -/
def State.linkUp (s : State) (n : Nat) : Bool :=
  (s.link n).up && s.dev.readyLink.getLsbD n && s.feature (s.polderOf (n / 4)) 16

/-- The link of a peer request of quarter q to a tile (R494); a quarter behind a closed dike lends none (R479). -/
def State.linkFor (s : State) (q addr : Nat) : Option Nat :=
  let first := addr / 4096 % 4
  let own := (List.range 4).map (fun i => 4 * q + (first + i) % 4)
  let others := ((s.polderQuarters q).filter (fun k => k != q && s.passes q k)).flatMap (fun k => (List.range 4).map (fun i => 4 * k + i))
  (own ++ others).find? (fun n => s.linkUp n)

/-- The link a peer request would take is in a hold window: no new flit starts until GO (R495). -/
def State.peerHeld (s : State) (q va : Nat) : Bool :=
  match s.linkFor q va with
  | some n => (s.link n).held
  | none => false

/-- The device's own number in its scale-up domain. -/
def State.devNum (s : State) : Nat := (s.link 0).dev.toNat

/-- A local page in host bias (R353). -/
def State.hostBiased (s : State) (pa tier : Nat) : Bool := tier == 0 && s.home.hostBias.contains (pa / 65536)

end Sys2Proof.Machine
end

