-- ==== Sys2Proof/Machine/Spiral.lean ====
section
/-! DEFINITION. The spirals and the homes behind them (09 R300 to R320, 11 R358, 16 R427, R428, 19 R493, 21 R507): copies,
touches, pins, write-backs, drains and fills. -/
namespace Sys2Proof.Machine

/-- The number a team's context has in the spiral's accounts; 64 for a service kernel. -/
def Team.ctxNum (t : Team) : Nat := t.shape.ctx.getD 64

/-- TIER of a leaf (R430). -/
def leafTier (w0 : DWord) : Nat := (w0.extractLsb' 6 2).toNat

/-! ## Copies of a quarter -/

/-- The copy in a bay slot, if it is of a tile. -/
def bayIs (tile : Nat) (e : Option (Copy × Option Nat)) : Bool :=
  match e with
  | some (c, _) => c.tile == tile
  | none => false

/-- The pin-bay slot of a tile (R307). -/
def Quarter.slotOf (q : Quarter) (tile : Nat) : Option Nat := q.bay.findIdx? (bayIs tile)

/-- The distance of a tile in the chain (R301). -/
def Quarter.distance? (q : Quarter) (tile : Nat) : Option Nat := q.chain.findIdx? (fun c => c.tile == tile)

/-- The copies of the pin bay. -/
def Quarter.bayCopies (q : Quarter) : List Copy := q.bay.filterMap (fun e => e.map Prod.fst)

/-- Every resident copy: the chain, then the bay. -/
def Quarter.copies (q : Quarter) : List Copy := q.chain ++ q.bayCopies

/-- The resident copy of a tile. -/
def Quarter.copy? (q : Quarter) (tile : Nat) : Option Copy := q.copies.find? (fun c => c.tile == tile)

/-- The copy of a tile changed. -/
def Quarter.modCopy (q : Quarter) (tile : Nat) (f : Copy → Copy) : Quarter :=
  { q with
    chain := q.chain.map (fun c => if c.tile == tile then f c else c),
    bay := q.bay.map (fun e => e.map (fun p => if p.1.tile == tile then (f p.1, p.2) else p)) }

/-- The copy of a tile taken out of the chain and the bay; a flush that counts it waits for it no longer (R329). -/
def Quarter.dropCopy (q : Quarter) (tile : Nat) : Quarter :=
  { q with
    flush := q.flush.map (fun ts => ts.filter (fun t => t != tile)),
    chain := q.chain.filter (fun c => c.tile != tile),
    bay := q.bay.map (fun e => if bayIs tile e then none else e) }

/-- Tiles in the pin bay (R301). -/
def Quarter.bayUsed (q : Quarter) : Nat := q.bayCopies.length

/-- The capacity of the chain (R301). -/
def Quarter.capacity (q : Quarter) : Nat := Config.spiralTiles - q.bayUsed

/-- A tile in motion (R312, R314). -/
def Copy.moving (cycle : Nat) (c : Copy) : Bool :=
  c.filling || (match c.motion with
    | some m => decide (cycle < m)
    | none => false)

/-- Tiles a context owns, pinned ones included. -/
def Quarter.owned (q : Quarter) (x : Nat) : Nat := (q.copies.filter (fun c => c.owner == some x)).length

/-- Tiles a context has pinned. -/
def Quarter.pinnedBy (q : Quarter) (x : Nat) : Nat :=
  (q.bay.filter (fun e => match e with
    | some (_, p) => p == some x
    | none => false)).length

/-- Stranded tiles (R320). -/
def Quarter.stranded (q : Quarter) : Nat :=
  (q.bay.filter (fun e => match e with
    | some (_, p) => p == none
    | none => false)).length

/-- A context's quotas and charges. -/
def Quarter.quota (q : Quarter) (x : Nat) : Quota := q.quotas.getD x Quota.reset
/-- The tile quota in force (R324). -/
def Quarter.tileQuota (q : Quarter) (x : Nat) : Nat := min (q.quota x).tiles.toNat Config.spiralTiles
/-- The pin quota in force (R324). -/
def Quarter.pinQuota (q : Quarter) (x : Nat) : Nat := min (q.quota x).pins.toNat Config.baySlots

/-- Whether a tile carries the bypass attribute (R310). -/
def Quarter.bypassed (q : Quarter) (tile : Nat) : Bool := q.bypass.any (fun e => e.tile == tile)

/-- A count added to a context's FILLS (R325). -/
def Quarter.chargeFill (q : Quarter) (x : Nat) : Quarter :=
  { q with quotas := modAt q.quotas x (fun k => { k with fills := satAdd k.fills 1 }) }

/-- A count added to an owner's WBACK (R306, R325). -/
def Quarter.chargeWback (q : Quarter) (owner : Option Nat) : Quarter :=
  match owner with
  | some x => { q with quotas := modAt q.quotas x (fun k => { k with wback := satAdd k.wback 1 }) }
  | none => q

/-! ## Homes -/

/-- The home quarter of a tile of local or pool memory (R317). -/
def State.tileHome (s : State) (tile : Nat) : Option Nat :=
  match (List.range 4).findSome? (fun q => s.rangeAt q (4096 * tile)) with
  | some r => some ((r.place (4096 * tile)).1 / 64)
  | none => (s.regionAt (4096 * tile)).map (fun n => (s.region n).port.toNat)

/-- The other sharers of a tile that its home cannot reach: a closed dike stands between (R479). -/
def State.cutSharers (s : State) (sender : Option Nat) (tile : Nat) : List Nat :=
  ((List.range 4).filter (fun k => sender != some k && ((s.quarter k).copy? tile).isSome)).filter (fun k =>
    match s.tileHome tile with
    | some h => !s.passes h k
    | none => false)

/-- A sharer loses bytes of a tile, except those dirty in its own copy; left with no valid byte it drops its copy unless it is pinned or
awaits its fill (R317). -/
def Quarter.loseBytes (q : Quarter) (tile : Nat) (mask : BitVec 4096) : Quarter :=
  match q.copy? tile with
  | none => q
  | some c =>
    let v := c.valid &&& ~~~(mask &&& ~~~c.dirty)
    if v = 0 ∧ c.filling = false ∧ (q.slotOf tile).isNone then q.dropCopy tile
    else q.modCopy tile (fun c => { c with valid := v })

/-- When bytes of a tile reach its home, every other sharer loses them (R317). Word of it that meets a closed dike is dropped (R479, R480). -/
def State.homeWritten (s : State) (sender : Option Nat) (tile : Nat) (mask : BitVec 4096) : State :=
  let cut := s.cutSharers sender tile
  let s1 := { s with quarters := s.quarters.mapIdx (fun k q =>
    if sender == some k || cut.contains k then q else q.loseBytes tile mask) }
  cut.foldl (fun s _ => s.countDrop ((s.tileHome tile).getD 0)) s1

/-- A write-back reaches its home: merged by byte mask, other sharers invalidated; one that no home can take is dropped
(R306, R317, R479, R480). -/
def State.applyWb (s : State) (w : WriteBack) : State :=
  match s.reach w.quarter (4096 * w.tile) w.tier with
  | .home _ =>
    (s.modHome (fun h => h.mergeTile s.keys w.keyslot w.tile w.data w.mask w.poison)).homeWritten (some w.quarter)
      w.tile w.mask
  | .drop => s.countDrop w.quarter
  | .region r => s.modRegion r (fun x => { x with lostDirty := satAdd x.lostDirty 1 })

/-- Every write-back of a tile that is on its way reaches the home, in order. -/
def State.flushWb (s : State) (tile : Nat) : State :=
  let mine := s.wbq.filter (fun w => w.tile == tile)
  mine.foldl State.applyWb { s with wbq := s.wbq.filter (fun w => w.tile != tile) }

/-- The dirty bytes of a copy within a mask, as a write-back. -/
def Copy.wb (q : Nat) (c : Copy) (mask : BitVec 4096) : WriteBack :=
  { quarter := q, tile := c.tile, tier := leafTier c.leaf.1, data := c.data, mask := c.dirty &&& mask,
    poison := c.poison, keyslot := c.keyslot }

/-- A write-back of a tile would meet a region whose link is lost: the tile stays stranded (R492). -/
def State.wbLost (s : State) (q : Nat) (c : Copy) : Bool :=
  match s.reach q (4096 * c.tile) (leafTier c.leaf.1) with
  | .region _ => true
  | _ => false

/-- A counter of ECCSTAT of a quarter raised (R515): 0 DRAMCE, 1 DRAMUE, 2 SPLCE, 3 SPLUE. -/
def State.countEcc (s : State) (q i : Nat) : State := s.modQuarter q (fun x => { x with ecc := modAt x.ecc i (fun n => satAdd n 1) })


/-- What a read of the bytes of a mask does with the errors of their units in a copy (R507): a correctable one is corrected; a clean unit with an
uncorrectable one is dropped, to be fetched again; a dirty one is poisoned, which its write-back carries home. The errors it met come with it. -/
def Copy.heal (c : Copy) (mask : BitVec 4096) : Copy × List (Nat × Bool) :=
  let meets (e : Nat × Bool) : Bool := mask.extractLsb' (64 * e.1) 64 != 0
  ((c.errs.filter (fun e => meets e && e.2)).foldl (fun c e =>
    if c.dirty.extractLsb' (64 * e.1) 64 = 0 then
      { c with valid := c.valid &&& ~~~(BitVec.ofNat 4096 ((2 ^ 64 - 1) * 2 ^ (64 * e.1))), poison := c.poison &&& ~~~((1#64) <<< e.1) }
    else { c with poison := c.poison ||| ((1#64) <<< e.1) }) { c with errs := c.errs.filter (fun e => !meets e) },
    c.errs.filter meets)

/-- A quarter's copy of a tile before bytes of it are read (R507): its errors dealt with and counted. -/
def State.healCopy (s : State) (q tile : Nat) (mask : BitVec 4096) : State :=
  match (s.quarter q).copy? tile with
  | none => s
  | some c =>
    if (c.heal mask).2.isEmpty then s
    else
      (c.heal mask).2.foldl (fun s e => s.countEcc q (if e.2 then 3 else 2))
        (s.modQuarter q (fun k => k.modCopy tile (fun c => (c.heal mask).1)))

/-- A mask widened to the aligned 8-byte parts it meets: the largest that one access writes as a whole (R333, log 75). -/
def wholeParts (mask : BitVec 4096) : BitVec 4096 :=
  if mask = 0 ∨ mask = BitVec.allOnes 4096 then mask
  else BitVec.ofNat 4096 ((List.range 512).foldl (fun m i => if mask.extractLsb' (8 * i) 8 = 0 then m else m + 255 * 2 ^ (8 * i)) 0)

/-- The dirty bytes of a quarter's copy within a mask, and what was written with them as a whole, are written back now and become
clean; the tile stays (R306, R333). -/
def State.cleanCopy (s : State) (q tile : Nat) (bytes : BitVec 4096) : State :=
  match (s.quarter q).copy? tile with
  | none => s
  | some c =>
    let mask := wholeParts bytes
    if c.dirty &&& mask = 0 || s.wbLost q c then s
    else
      let s1 := ((s.healCopy q tile (c.dirty &&& mask)).flushWb tile).modQuarter q (fun x =>
        x.modCopy tile (fun c => { c with dirty := c.dirty &&& ~~~mask }))
      s1.applyWb ((c.heal (c.dirty &&& mask)).1.wb q mask)

/-- The same in every quarter of the device. -/
def State.cleanEverywhere (s : State) (tile : Nat) (mask : BitVec 4096) : State :=
  (List.range 4).foldl (fun s q => s.cleanCopy q tile mask) (s.flushWb tile)

/-- A drain of a quarter: its write-backs on their way reach their homes, and every dirty tile is written back and stays resident, of the
tiers that a test admits (R318). -/
def State.drainQuarter (s : State) (q : Nat) (p : Nat → Bool) : State :=
  let sent := (s.wbq.filter (fun w => w.quarter == q && p w.tier)).map (fun w => w.tile)
  let s1 := sent.foldl State.flushWb s
  let tiles := ((s1.quarter q).copies.filter (fun c => c.dirty != 0 && p (leafTier c.leaf.1))).map (fun c => c.tile)
  tiles.foldl (fun s t => s.cleanCopy q t (BitVec.allOnes 4096)) s1

/-- A release recorded at a home (R318); one that meets a closed dike is dropped (R479, R480). -/
def State.recordRelease (s : State) (q home : Nat) : State :=
  if !s.passes q home then s.countDrop q
  else
    s.modQuarter home (fun h =>
      if h.masks.getLsbD q then h
      else { h with masks := h.masks ||| ((1#4) <<< q), maskAge := h.maskAge.set q s.cycle })

/-- A home drains the quarters of its mask that a test admits, and clears their bits (R318). A request for a drain that meets a closed dike is
dropped (R479, R480). -/
def State.drainMask (s : State) (home : Nat) (p : Nat → Bool) : State :=
  let m := (s.quarter home).masks
  let qs := (List.range 4).filter (fun k => m.getLsbD k && p k)
  let s1 := qs.foldl (fun s k => if s.passes home k then s.drainQuarter k (fun _ => true) else s.countDrop home) s
  s1.modQuarter home (fun h => { h with masks := (List.range 4).foldl (fun b k => if p k then b &&& ~~~((1#4) <<< k) else b) h.masks })

/-- Releases and acquires at .quarter or narrower, and in a one-quarter polder, make no records and no drains (R318). -/
def State.crosses (s : State) (q scope : Nat) : Bool := 4 ≤ scope && maskCount (s.part q).mask != 1

/-- The tiers a release at a scope writes back before it completes (R319). -/
def scopeReaches (scope tier : Nat) : Bool :=
  match scope with
  | 6 => tier == 2 || tier == 0
  | 7 => tier == 0
  | 8 => tier == 1
  | 9 => true
  | _ => false

/-- A release of quarter q at a scope, whose record goes to the given homes (R318, R319). -/
def State.release (s : State) (q scope : Nat) (homes : List Nat) : State :=
  let s1 := if s.crosses q scope then homes.foldl (fun s h => s.recordRelease q h) s else s
  if 6 ≤ scope then s1.drainQuarter q (scopeReaches scope) else s1

/-- An acquire of quarter q at a scope, which goes to the given homes (R318), but to none behind a closed dike (R479, R480). -/
def State.acquire (s : State) (q scope : Nat) (homes : List Nat) : State :=
  if s.crosses q scope then
    homes.foldl (fun s h => if s.passes q h then s.drainMask h (fun k => k != q) else s.countDrop q) s
  else s

/-- A fence of quarter q at a scope: its release part at every home of the polder, then its acquire part (R278, R318,
R348). -/
def State.fenceAt (s : State) (q scope : Nat) : State :=
  let homes := s.polderQuarters q
  (s.release q scope homes).acquire q scope homes

/-! ## Errors at homes -/

/-- Bytes of a unit, with the key they were written under, copied to another unit. -/
def Home.copyUnit (h : Home) (dst src : Nat) : Home :=
  let h1 := h.setNat (64 * dst) 64 (h.nat (64 * src) 64)
  { h1 with keys := putNat h1.keys dst (lookupNat h1.keys src) }

/-- A unit poisoned at its home and counted (R493, R507). -/
def State.poisonAtHome (s : State) (q u tier : Nat) : State :=
  let s1 := s.modHome (fun h => h.poisonUnit u)
  match tier with
  | 1 =>
    match s.regionAt (64 * u) with
    | some n => s1.modRegion n (fun r =>
        let r1 := { r with poisoned := satAdd r.poisoned 1 }
        if r1.recValid then r1
        else { r1 with recValid := true, recAddr := BitVec.ofNat 46 u, recTeams := 0, recSeen := [] })
    | none => s1
  | 0 => s1.countEcc q 1
  | _ => s1

/-- A correctable error of a unit corrected, and counted where the unit is local (R507). -/
def State.correctUnit (s : State) (q u : Nat) : State :=
  if lookupNat s.home.errors u = some false then
    let s1 := s.modHome (fun h => { h with errors := putNat h.errors u none })
    if s.rawTier q (64 * u) = 0 then
      (match s.reach q (64 * u) 0 with
      | .home h => s1.countEcc h 0
      | _ => s1)
    else s1
  else s

/-- What a read of a unit does with an error latent in it (R493, R507): correct it, take the replica, or poison it. -/
def State.readUnit (s : State) (q u : Nat) (leaf : DWord × DWord) : State :=
  match lookupNat s.home.errors u with
  | none => s
  | some bad =>
    let tier := leafTier leaf.1
    let home := match s.reach q (64 * u) tier with
      | .home h => h
      | _ => q
    let s1 := s.modHome (fun h => { h with errors := putNat h.errors u none })
    if !bad then (if tier = 0 then s1.countEcc home 0 else s1)
    else
      let frame := (leaf.1.extractLsb' 12 40).toNat * 4096
      let repl := ((leaf.2.extractLsb' 12 40).toNat * 4096 + (64 * u - frame)) / 64
      let good := leaf.1.getLsbD 9 && lookupNat s1.home.errors repl != some true && !s1.home.poison.contains repl
      if good then
        let s0 := (if tier = 0 then s1.countEcc home 1 else s1).correctUnit q repl
        let s2 := s0.modHome (fun h => (h.copyUnit u repl).cleanUnit u)
        match s2.regionAt (64 * u) with
        | some n => s2.modRegion n (fun r => { r with replFix := satAdd r.replFix 1 })
        | none => s2
      else s1.poisonAtHome home u tier

/-- Every unit of a tile read at its home (R493, R507). -/
def State.readTile (s : State) (q tile : Nat) (leaf : DWord × DWord) : State :=
  ((s.home.errors.filter (fun e => e.1 / 64 == tile)).map Prod.fst).foldl (fun s u => s.readUnit q u leaf) s

/-! ## Leaving, room and touches -/

/-- A tile leaves the chain or the bay; dirty bytes start home and are charged to its owner (R304, R306). -/
def State.leave (s : State) (q tile : Nat) : State :=
  match (s.quarter q).copy? tile with
  | none => s
  | some c =>
    let s1 := (s.healCopy q tile c.dirty).modQuarter q (fun x => x.dropCopy tile)
    if c.dirty = 0 then s1
    else
      { s1.modQuarter q (fun x => x.chargeWback c.owner) with
        wbq := s1.wbq ++ [(c.heal c.dirty).1.wb q (BitVec.allOnes 4096)] }

/-- What make_room answers (R304). -/
inductive Room where
  | ok
  | hold
  | noins
  deriving DecidableEq, Repr

/-- The farthest chain tile that meets a test. -/
def Quarter.farthest (q : Quarter) (p : Copy → Bool) : Option Copy := q.chain.reverse.find? p

/-- The quota part of make_room, its while loop (R304). -/
def State.roomQuota (q x : Nat) : Nat → State → State × Room
  | 0, s => (s, .hold)
  | n + 1, s =>
    let k := s.quarter q
    if k.owned x < k.tileQuota x then (s, .ok)
    else
      match k.farthest (fun c => c.owner == some x && !c.moving s.cycle) with
      | some v => State.roomQuota q x n (s.leave q v.tile)
      | none => (s, if k.chain.any (fun c => c.owner == some x && c.moving s.cycle) then .hold else .noins)

/-- The capacity part of make_room (R304). -/
def State.roomCapacity (q : Nat) (s : State) : State × Room :=
  let k := s.quarter q
  if k.chain.length < k.capacity then (s, .ok)
  else
    match k.farthest (fun c => !c.moving s.cycle) with
    | some v => (s.leave q v.tile, .ok)
    | none => (s, .hold)

/-- make_room (R304). -/
def State.makeRoom (q x : Nat) (s : State) : State × Room :=
  match State.roomQuota q x ((s.quarter q).chain.length + 1) s with
  | (s1, .ok) => State.roomCapacity q s1
  | r => r

/-- n of a context's farthest chain tiles other than t and not in motion leave. -/
def State.shed (q x t : Nat) : Nat → State → State
  | 0, s => s
  | n + 1, s =>
    match (s.quarter q).farthest (fun c => c.owner == some x && c.tile != t && !c.moving s.cycle) with
    | some v => State.shed q x t n (s.leave q v.tile)
    | none => s

/-- transfer (R304). -/
def State.transfer (q t y : Nat) (s : State) : State :=
  let k := s.quarter q
  let n := k.owned y + 1 - k.tileQuota y
  let mine := (k.chain.filter (fun c => c.owner == some y && c.tile != t && !c.moving s.cycle)).length
  if n > 0 ∧ mine < n then s
  else State.shed q y t n (s.modQuarter q (fun x => x.modCopy t (fun c => { c with owner := some y })))

/-- A copy whose fill is awaited (R304). -/
def Copy.fresh (tile x : Nat) (key : Option Nat) (leaf : DWord × DWord) : Copy :=
  { tile := tile, owner := some x, keyslot := key, data := 0, valid := 0, dirty := 0, poison := 0, errs := [], filling := true,
    motion := none, queue := [], leaf := leaf }

/-- A tile at distance d moved to the front (R304, R314). -/
def Quarter.toFront (k : Quarter) (cycle d : Nat) : Quarter :=
  match k.chain[d]? with
  | none => k
  | some c =>
    let c1 := if 256 ≤ d && !c.moving cycle then { c with motion := some (cycle + 28 + d / 512) } else c
    { k with chain := c1 :: k.chain.eraseIdx d }

/-- A touch of a tile absent from the quarter (R304). -/
def State.insertTile (q tile x : Nat) (key : Option Nat) (leaf : DWord × DWord) (s : State) : State × Room :=
  match State.makeRoom q x s with
  | (s1, .ok) =>
    (s1.modQuarter q (fun k => ({ k with chain := Copy.fresh tile x key leaf :: k.chain }).chargeFill x), .ok)
  | r => r

/-- spiral_touch (R304), and R428: a touch under another key slot first makes the tile leave, in motion or not. -/
def State.touch (q tile x : Nat) (key : Option Nat) (leaf : DWord × DWord) (s : State) : State × Room :=
  let k := s.quarter q
  match k.distance? tile with
  | none => State.insertTile q tile x key leaf s
  | some d =>
    match k.chain[d]? with
    | none => (s, .hold)
    | some c =>
      if c.keyslot != key then State.insertTile q tile x key leaf (s.leave q tile)
      else
        let s1 := s.modQuarter q (fun k => k.toFront s.cycle d)
        (if c.owner = some x then s1 else State.transfer q tile x s1, .ok)

/-- A chain that the bay has made too long: the farthest tile not in motion leaves (R307). -/
def State.fitChain (q : Nat) (s : State) : State :=
  let k := s.quarter q
  if k.chain.length ≤ k.capacity then s
  else
    match k.farthest (fun c => !c.moving s.cycle) with
    | some v => s.leave q v.tile
    | none => s

/-- SPIN of a tile that is not peer memory (R307): the result, or none where the SPIN is admitted again in the next
cycle. Two points are the model's (DESIGN CHOICE, log 86): a stranded tile, which stands in the bay though no context pins it, answers its slot as a
pinned one does; and a context of tile quota 0, whose SPINs R305 answers 0xFFFFFFFD, meets the checks of R307 in their order, so that a tile
pinned already answers its slot and a full bay 0xFFFFFFFE. -/
def State.pin (q tile x : Nat) (key : Option Nat) (leaf : DWord × DWord) (s : State) : State × Option Nat :=
  let k := s.quarter q
  match k.slotOf tile with
  | some n => (s, some (0x80000000 + n))
  | none =>
    match k.bay.findIdx? (fun e => e.isNone) with
    | none => (s, some 0xFFFFFFFE)
    | some slot =>
      let here := k.chain.find? (fun c => c.tile == tile)
      let mine := match here with
        | some c => c.owner == some x
        | none => false
      -- what the quota part of make_room would answer, without its effect
      let room := (State.roomQuota q x (k.chain.length + 1) s).2
      if k.pinQuota x ≤ k.pinnedBy x ∨ k.tileQuota x = 0 ∨ (mine = false ∧ room ≠ .ok) then (s, some 0xFFFFFFFD)
      else
        match here with
        | some c =>
          if k.chain.length - 1 ≥ k.capacity ∧ (k.chain.all (fun v => v.tile == tile || v.moving s.cycle)) then (s, none)
          else
            let s1 := if mine then s
              else State.shed q x tile (k.owned x + 1 - k.tileQuota x) s
            let s2 := s1.modQuarter q (fun k =>
              { k with chain := k.chain.filter (fun v => v.tile != tile),
                       flush := k.flush.map (fun ts => ts.filter (fun t => t != tile)),
                       bay := k.bay.set slot (some ({ c with owner := some x }, some x)) })
            (State.fitChain q s2, some (0x80000000 + slot))
        | none =>
          match State.makeRoom q x s with
          | (s1, .ok) =>
            let s2 := s1.modQuarter q (fun k =>
              ({ k with bay := k.bay.set slot (some (Copy.fresh tile x key leaf, some x)) }).chargeFill x)
            (State.fitChain q s2, some (0x80000000 + slot))
          | _ => (s, none)

/-- SUNPIN (R272, R308): by the pinning context alone, back to distance 0 with no make_room. -/
def State.unpin (q tile x : Nat) (s : State) : State :=
  let k := s.quarter q
  match k.slotOf tile with
  | none => s
  | some n =>
    match k.bay.getD n none with
    | some (c, p) =>
      if p = some x then s.modQuarter q (fun k => { k with bay := k.bay.set n none, chain := c :: k.chain }) else s
    | none => s

/-- SBYP (R310): an entry set, the oldest replaced in a full table. -/
def Quarter.setBypass (k : Quarter) (e : ByEntry) : Quarter :=
  if k.bypassed e.tile then k
  else { k with bypass := (if Config.bypassEntries ≤ k.bypass.length then k.bypass.drop 1 else k.bypass) ++ [e] }

/-- SCLR (R310). -/
def Quarter.clearBypass (k : Quarter) (tile : Nat) : Quarter :=
  { k with bypass := k.bypass.filter (fun e => e.tile != tile) }

/-- SDIST's result (R272); a stranded tile answers its slot as a pinned one does (DESIGN CHOICE, log 86). -/
def Quarter.distResult (k : Quarter) (tile : Nat) : Nat :=
  match k.slotOf tile with
  | some n => 0x80000000 + n
  | none =>
    match k.distance? tile with
    | some d => d
    | none => 0xFFFFFFFF

/-! ## Bytes of copies -/

/-- Byte positions of a mask as bit positions of a tile's data. -/
def spread (mask : BitVec 4096) : BitVec 32768 :=
  if mask = BitVec.allOnes 4096 then BitVec.allOnes 32768
  else if mask = 0 then 0
  else BitVec.ofNat 32768 ((List.range 4096).foldl (fun acc i => if mask.getLsbD i then acc + 255 * 2 ^ (8 * i) else acc) 0)

/-- A copy given bytes of its home in a mask, with the poison of their units; a unit none of whose older bytes is left has the poison of
its home alone (R306, R358). -/
def Copy.take (c : Copy) (mask : BitVec 4096) (data : BitVec 32768) (poison : BitVec 64) : Copy :=
  let m := spread mask
  { c with
    data := (c.data &&& ~~~m) ||| (data &&& m), valid := c.valid ||| mask,
    poison := (List.range 64).foldl (fun p u =>
      if mask.extractLsb' (64 * u) 64 = 0 then p
      else if poison.getLsbD u then p ||| ((1#64) <<< u)
      else if (c.valid &&& ~~~mask).extractLsb' (64 * u) 64 = 0 then p &&& ~~~((1#64) <<< u)
      else p) c.poison }

/-- The bytes of a mask that a copy does not hold are fetched from its home (R306). -/
def State.fetchMissing (s : State) (q tile : Nat) (mask : BitVec 4096) : State :=
  match (s.quarter q).copy? tile with
  | none => s
  | some c =>
    let need := mask &&& ~~~c.valid
    if need = 0 then s
    else
      let s1 := (s.flushWb tile).readTile q tile c.leaf
      s1.modQuarter q (fun k => k.modCopy tile (fun c =>
        c.take (mask &&& ~~~c.valid) (s1.home.tileBits s1.keys c.keyslot tile) (s1.home.tilePoison tile)))

/-- The bytes of n bytes at an offset of a tile. -/
def byteMask (off n : Nat) : BitVec 4096 := BitVec.ofNat 4096 ((2 ^ n - 1) * 2 ^ off)

/-- n bytes at an offset of a copy. -/
def Copy.read (c : Copy) (off n : Nat) : Nat := c.data.toNat / 2 ^ (8 * off) % 2 ^ (8 * n)

/-- n bytes written at an offset of a copy: valid and dirty (R306). -/
def Copy.write (c : Copy) (off n v : Nat) : Copy :=
  let m : BitVec 32768 := BitVec.ofNat 32768 ((2 ^ (8 * n) - 1) * 2 ^ (8 * off))
  let b := byteMask off n
  { c with
    data := (c.data &&& ~~~m) ||| BitVec.ofNat 32768 (v % 2 ^ (8 * n) * 2 ^ (8 * off)),
    valid := c.valid ||| b, dirty := c.dirty ||| b }

/-- A write that covers every byte of a unit clears its poison in the copy (R358), and its error. -/
def Copy.clearPoison (c : Copy) (mask : BitVec 4096) : Copy :=
  { c with poison := (List.range 64).foldl (fun p u =>
      if mask.extractLsb' (64 * u) 64 = BitVec.allOnes 64 then p &&& ~~~((1#64) <<< u) else p) c.poison,
           errs := c.errs.filter (fun e => mask.extractLsb' (64 * e.1) 64 != BitVec.allOnes 64) }

/-- The fill of an awaited copy lands: every byte a store has not written comes from the home (R315). -/
def State.landFill (s : State) (q tile : Nat) : State :=
  match (s.quarter q).copy? tile with
  | none => s
  | some c =>
    if c.filling = false then s
    else
      (s.modQuarter q (fun k => k.modCopy tile (fun c => { c with filling := false }))).fetchMissing q tile
        (BitVec.allOnes 4096)

end Sys2Proof.Machine
end

