-- ==== Sys2Proof/Machine/Translate.lean ====
section
/-! DEFINITION. Translation (16 R429 to R438): page tables, TLBs, permissions, the fault queue, and the identity
translation of a service kernel (20 R497). -/
namespace Sys2Proof.Machine

/-! ## Accesses of the device itself -/

/-- A leaf of no page: its tier alone. -/
def tierLeaf (tier : Nat) : DWord × DWord := (BitVec.ofNat 64 (64 * tier), 0)

/-- The parts of n bytes from an address that lie in one 64-byte unit each: address and length. -/
def unitParts (pa n : Nat) : List (Nat × Nat) :=
  (List.range ((pa + n + 63) / 64 - pa / 64)).map (fun i =>
    let lo := max pa (64 * (pa / 64 + i))
    (lo, min (pa + n) (64 * (pa / 64 + i) + 64) - lo))

/-- Whether a unit of the device may access an address now: its memory is ready (R512). -/
def State.devReady (s : State) (q pa : Nat) : Bool := s.homeReady q pa (s.rawTier q pa)

/-- n bytes at a physical address as a unit of quarter q finds them at their home, not encrypted, after dirty bytes of
every quarter have been written back (R432). A poisoned unit, and what cannot be reached, reads as all ones (R358, R480). -/
def State.devRead (s : State) (q pa n : Nat) : State × Nat :=
  let tier := s.rawTier q pa
  match s.reach q pa tier with
  | .home _ =>
    let parts := unitParts pa n
    let s1 := parts.foldl (fun s x => s.readUnit q (x.1 / 64) (tierLeaf tier)) (s.cleanEverywhere (pa / 4096) (byteMask (pa % 4096) n))
    (s1, parts.foldl (fun v x =>
      v + 2 ^ (8 * (x.1 - pa)) * (if s1.home.isPoisoned x.1 then 2 ^ (8 * x.2) - 1 else s1.home.natAs s1.keys none x.1 x.2)) 0)
  | .drop => (s.countDrop q, 2 ^ (8 * n) - 1)
  | .region _ => (s, 2 ^ (8 * n) - 1)

/-- The low n bytes of a number written at a physical address at its home, not encrypted; copies lose the bytes. -/
def State.devWrite (s : State) (q pa n v : Nat) : State :=
  match s.reach q pa (s.rawTier q pa) with
  | .home _ =>
    let s1 := s.flushWb (pa / 4096)
    (s1.modHome (fun h => h.setNatAs s1.keys none pa n v)).homeWritten none (pa / 4096) (byteMask (pa % 4096) n)
  | .drop => s.countDrop q
  | .region _ => s

/-! ## Page tables -/

/-- What a walk finds. -/
inductive Walk where
  /-- An entry with V = 0 (R431). -/
  | missing
  /-- A malformed entry (R430). -/
  | malformed
  /-- A leaf: its words and log2 of its page. -/
  | leaf (w0 w1 : DWord) (logSize : Nat)
  /-- The memory of a table is not ready: the walk waits (R512). -/
  | hold
  /-- A table entry lies behind a closed dike or nowhere: the access is dropped (R480). -/
  | lost
  deriving DecidableEq, Repr

/-- The malformed valid entries of R430, at a level. -/
def entryBad (level : Nat) (w0 w1 : DWord) : Bool :=
  let tier := leafTier w0
  let leaf := w0.getLsbD 1
  let addr := (w0.extractLsb' 12 40).toNat
  let below := if level = 3 then 2 ^ 18 else if level = 2 then 2 ^ 9 else 2 ^ 4
  w0.extractLsb' 52 12 != 0 || w1.extractLsb' 52 12 != 0 || w1.extractLsb' 8 4 != 0 ||
  (leaf && level == 4) || (!leaf && level == 1) ||
  (leaf && addr % below != 0) ||
  (leaf && tier == 3 && addr != 0) ||
  (tier != 0 && (w0.getLsbD 11 || w0.getLsbD 10)) ||
  (2 ≤ tier && w0.getLsbD 9) ||
  (w0.getLsbD 2 && (tier != 3 || !leaf)) ||
  (tier != 3 && !w0.getLsbD 11 && w1.extractLsb' 0 8 != 0) ||
  (!w0.getLsbD 9 && w1.extractLsb' 12 40 != 0)

/-- Levels of R429: level, lowest index bit, index bits. -/
def levels : List (Nat × Nat × Nat) := [(4, 39, 17), (3, 30, 9), (2, 21, 9), (1, 16, 5)]

/-- Where a walk starts: below the deepest entry of the address that the walker's cache holds, else at the root (R432). -/
def Quarter.walkStart (k : Quarter) (asid : BitVec 16) (va root : Nat) : List (Nat × Nat × Nat) × Nat :=
  levels.foldl (fun acc x =>
    match k.walker.find? (fun e => e.asid == asid && e.lo == x.2.1 && e.above == va / 2 ^ x.2.1) with
    | some e => (levels.filter (fun y => y.2.1 < x.2.1), e.table)
    | none => acc) (levels, root)

/-- A valid non-leaf entry that a walk has read is cached (R432). -/
def State.walkerPut (s : State) (q : Nat) (e : WalkEntry) : State := s.modQuarter q (fun k => { k with walker := e :: k.walker })

/-- A walk from a table (R429, R432). -/
def State.walk (q : Nat) (asid : BitVec 16) (va : Nat) : List (Nat × Nat × Nat) → Nat → State → State × Walk
  | [], _, s => (s, .malformed)
  | (level, lo, bits) :: rest, table, s =>
    let at_ := table + 16 * (va / 2 ^ lo % 2 ^ bits)
    let r := s.devRead q at_ 16
    let w0 : DWord := BitVec.ofNat 64 r.2
    let w1 : DWord := BitVec.ofNat 64 (r.2 / 2 ^ 64)
    if s.reach q at_ (s.rawTier q at_) = .drop then (s, .lost)
    else if !s.devReady q at_ then (s, .hold)
    else if !w0.getLsbD 0 then (r.1, .missing)
    else if entryBad level w0 w1 then (r.1, .malformed)
    else if w0.getLsbD 1 then (r.1, .leaf w0 w1 lo)
    else
      let next := (w0.extractLsb' 12 40).toNat * 4096
      State.walk q asid va rest next (r.1.walkerPut q { asid := asid, lo := lo, above := va / 2 ^ lo, table := next })

/-- A walk of an address under a context by a quarter's walker (R432). -/
def State.walkFor (s : State) (q x va : Nat) : State × Walk :=
  let c := s.ctx x
  let from_ := (s.quarter q).walkStart c.asid va c.root.toNat
  State.walk q c.asid va from_.1 from_.2 s

/-- The physical address of the leaf entry of an address, and its words, as the device finds it to rewrite it (R429, R437). -/
def State.leafEntry (q va : Nat) : List (Nat × Nat × Nat) → Nat → State → State × Option (Nat × DWord × DWord × Nat)
  | [], _, s => (s, none)
  | (level, lo, bits) :: rest, table, s =>
    let pa := table + 16 * (va / 2 ^ lo % 2 ^ bits)
    let r := s.devRead q pa 16
    let w0 : DWord := BitVec.ofNat 64 r.2
    let w1 : DWord := BitVec.ofNat 64 (r.2 / 2 ^ 64)
    if !w0.getLsbD 0 || entryBad level w0 w1 then (r.1, none)
    else if w0.getLsbD 1 then (r.1, some (pa, w0, w1, lo))
    else State.leafEntry q va rest ((w0.extractLsb' 12 40).toNat * 4096) r.1

/-- A TLB entry that translates an address (R432). -/
def tlbFind (tlb : List TlbEntry) (asid : BitVec 16) (va : Nat) : Option TlbEntry :=
  tlb.find? (fun e => e.asid == asid && e.vbase == va / 2 ^ e.logSize * 2 ^ e.logSize)

/-- An entry put into a TLB of a size, the oldest falling out (R432). -/
def tlbPut (tlb : List TlbEntry) (size : Nat) (e : TlbEntry) : List TlbEntry := (e :: tlb).take size

/-- The leaf of an address under a context: the core TLB, the quarter TLB, then a walk (R432). -/
def State.leafOf (s : State) (core : Nat) (ctx : Nat) (va : Nat) : State × Walk :=
  let c := s.ctx ctx
  let q := quarterOf core
  match tlbFind (s.core core).tlb c.asid va with
  | some e => (s, .leaf e.w0 e.w1 e.logSize)
  | none =>
    match tlbFind (s.quarter q).tlb c.asid va with
    | some e => (s.modCore core (fun k => { k with tlb := tlbPut k.tlb 512 e }), .leaf e.w0 e.w1 e.logSize)
    | none =>
      match s.walkFor q ctx va with
      | (s1, .leaf w0 w1 lo) =>
        let e : TlbEntry := { asid := c.asid, vbase := va / 2 ^ lo * 2 ^ lo, logSize := lo, w0 := w0, w1 := w1 }
        ((s1.modCore core (fun k => { k with tlb := tlbPut k.tlb 512 e })).modQuarter q
          (fun k => { k with tlb := tlbPut k.tlb 16384 e }), .leaf w0 w1 lo)
      | r => r

/-- The 1 GiB leaf a service kernel's access acts through (R497). -/
def State.identityLeaf (s : State) (q pa : Nat) : DWord :=
  BitVec.ofNat 64 (pa / 2 ^ 30 * 2 ^ 30 + 0x100 + 64 * s.rawTier q pa + 0x3B)

/-! ## Permissions -/

/-- What an access does to its page: 1 reads, 2 writes, 3 is a fetch, 4 reads and writes (an atomic). -/
abbrev Kind := Nat

/-- R, W, X and U of a leaf (R430). -/
def permOf (w0 : DWord) : Perm := ⟨w0.getLsbD 3, w0.getLsbD 4, w0.getLsbD 5, w0.getLsbD 8⟩

/-- Whether permissions allow an access of a kind, at app level or above (R431). -/
def Perm.allows (p : Perm) (k : Kind) (app : Bool) : Bool :=
  (!app || p.u) && (match k with
    | 1 => p.r
    | 2 => p.w
    | 3 => p.x
    | _ => p.r && p.w)

/-- Whether an access writes. -/
def kindWrites (k : Kind) : Bool := k == 2 || k == 4

/-- The kind of a fault on a missing entry (R431, R434). -/
def faultKind (k : Kind) : Nat := if k = 3 then 3 else if kindWrites k then 2 else 1

/-- The fault that read duplication makes of an access (R437, R438): 4 DUPREAD, 5 COLLAPSE. -/
def dupFault (w0 : DWord) (k : Kind) : Option Nat :=
  if kindWrites k && (w0.getLsbD 11 || w0.getLsbD 10) then some 5
  else if !kindWrites k && leafTier w0 == 3 && w0.getLsbD 2 then some 4
  else none

/-- What translation makes of one access. -/
inductive Xlat where
  /-- It reaches a place. -/
  | at (loc : Loc)
  /-- Its walk met a malformed entry: ACCFLT (R430). -/
  | malformed
  /-- Its permissions fail: ACCFLT (R431). -/
  | deny
  /-- It faults with a kind, and its party waits (R434). -/
  | wait (kind : Nat)
  /-- It waits for its tables' memory (R512). -/
  | hold
  deriving DecidableEq, Repr

/-- The place of an address under a leaf (R436). -/
def locUnder (w0 w1 : DWord) (logSize va : Nat) : Loc :=
  if leafTier w0 = 3 then .peer (w1.extractLsb' 0 8).toNat va
  else .phys ((w0.extractLsb' 12 40).toNat * 4096 + va % 2 ^ logSize) (w0, w1)

/-- What a leaf makes of an access (R431, R437, R438). A DUP leaf refuses a write as a fault whatever its W. -/
def underLeaf (w0 w1 : DWord) (logSize va : Nat) (k : Kind) (app : Bool) : Xlat :=
  if kindWrites k && w0.getLsbD 11 then .wait 5
  else if !(permOf w0).allows k app then .deny
  else
    match dupFault w0 k with
    | some f => .wait f
    | none => .at (locUnder w0 w1 logSize va)

/-- Where an access goes whose walk met a closed dike: to no address, where it is dropped (R480). -/
def Loc.nowhere : Loc := .phys (2 ^ 52) (0, 0)

/-- An access translated (R431, R432, R497). -/
def State.xlate (s : State) (core : Nat) (ctx : Option Nat) (app : Bool) (k : Kind) (va : Nat) : State × Xlat :=
  match ctx with
  | none =>
    if 2 ^ 52 ≤ va then (s, .deny) else (s, .at (.phys va (s.identityLeaf (quarterOf core) va, 0)))
  | some n =>
    match s.leafOf core n va with
    | (s1, .missing) => (s1, .wait (faultKind k))
    | (s1, .malformed) => (s1, .malformed)
    | (s1, .hold) => (s1, .hold)
    | (s1, .lost) => (s1, .at .nowhere)
    | (s1, .leaf w0 w1 lo) => (s1, underLeaf w0 w1 lo va k app)

/-- The key slot of a context's accesses under a leaf (R427, R497, R510): none for host memory, for a service kernel,
and while feature bit 18 is clear. -/
def State.keyFor (s : State) (q : Nat) (ctx : Option Nat) (leaf : DWord × DWord) : Option Nat :=
  match ctx with
  | none => none
  | some n => if leafTier leaf.1 < 2 && s.feature (s.polderOf q) 18 then some (s.ctx n).keyslot.toNat else none

/-! ## The fault queue -/

/-- The 32 bytes of a fault-queue entry (R434). -/
def faultBytes (va : Nat) (asid ctx kind qclass quarter core group team tick : Nat) : BitVec 256 :=
  BitVec.ofNat 256 (va + 2 ^ 64 * asid + 2 ^ 80 * ctx + 2 ^ 88 * kind + 2 ^ 96 * qclass + 2 ^ 104 * quarter +
    2 ^ 112 * core + 2 ^ 120 * group + 2 ^ 128 * team + 2 ^ 192 * tick)

/-- Entries of a ring (R435). -/
def FaultQ.size (f : FaultQ) : Nat := 2 ^ (max 6 f.logSize.toNat)

/-- The first entry that waits for the queue takes a slot, if one is free (R434, R435). -/
def State.pumpFault (s : State) (p : Nat) : State :=
  let f := (s.polder p).fq
  if !f.enable || f.size ≤ (f.tail - f.head).toNat || !s.devReady p (f.base.toNat * 32 + 32 * (f.tail.toNat % f.size)) then s
  else
    match f.entries.find? (fun e => e.index.isNone) with
    | none => s
    | some e =>
      let pa := f.base.toNat * 32 + 32 * (f.tail.toNat % f.size)
      let first := f.entries.findIdx (fun e => e.index.isNone)
      (s.devWrite p pa 32 e.entry.toNat).modPolder p (fun x => { x with
        fq := { x.fq with tail := f.tail + 1, entries := modAt x.fq.entries first (fun e => { e with index := some f.tail }) } })

/-- Every entry that can take a slot does. -/
def State.pumpFaults (s : State) (p : Nat) : State :=
  (List.range (s.polder p).fq.entries.length).foldl (fun s _ => s.pumpFault p) s

/-- A fault of a party on a page: it waits on the outstanding entry of its context, page and kind, or adds one
(R434). -/
def State.addFault (s : State) (p ctx page kind : Nat) (entry : BitVec 256) (w : Waiter) : State :=
  let same (e : FaultEntry) : Bool := e.ctx == ctx && e.page == page && e.kind == kind
  let f := (s.polder p).fq
  if f.entries.any same then
    s.modPolder p (fun x => { x with fq := { x.fq with entries := x.fq.entries.map (fun e =>
      if same e && !e.waiters.contains w then { e with waiters := e.waiters ++ [w] } else e) } })
  else
    (s.modPolder p (fun x => { x with fq := { x.fq with entries := x.fq.entries ++
      [{ index := none, ctx := ctx, page := page, kind := kind, entry := entry, waiters := [w] }] } })).pumpFault p

/-- Whether a party waits on some fault of a polder. -/
def State.waitsFault (s : State) (w : Waiter) : Bool := s.polders.any (fun p => p.fq.entries.any (fun e => e.waiters.contains w))

/-- Waiters that a test names leave every fault entry; one that is not yet queued and that nobody waits for goes. -/
def State.dropWaiters (s : State) (f : Waiter → Bool) : State :=
  { s with polders := s.polders.map (fun (p : Polder) =>
      let left := p.fq.entries.map (fun (e : FaultEntry) => { e with waiters := e.waiters.filter (fun w => !f w) })
      { p with fq := { p.fq with entries := left.filter (fun e => e.index.isSome || !e.waiters.isEmpty) } }) }

/-- A party of a core waits on a fault (R434): `who` gives the core and group fields of its entry. -/
def State.faultFor (s : State) (t : Team) (core : Nat) (who : Nat × Nat) (va kind : Nat) (w : Waiter) : State :=
  match t.shape.ctx with
  | none => s
  | some n =>
    s.addFault (s.polderOf (quarterOf core)) n (va / 65536) kind
      (faultBytes va (s.ctx n).asid.toNat n kind t.shape.qclass (quarterOf core) who.1 who.2 t.vals.team.toNat s.tick.toNat) w

/-- A word parks its group (R377): no lane performs, the hints of its bundle issue again at the replay (R95), and one
fault is raised for each page of a lane not translated. `lanes` gives lane, address and kind of each; the translations of the others are
kept for the replay. -/
def parkWord (c : Cx) (s : State) (lanes : List (Nat × Nat × Nat)) (kept : List (Nat × Nat × Loc)) : State :=
  let addrs := lanes.foldl (fun acc x =>
    if acc.any (fun a => a.1 == x.2.1 / 65536) then acc else acc ++ [(x.2.1 / 65536, x.2.1)]) ([] : List (Nat × Nat))
  let mask := lanes.foldl (fun m x => m ||| ((1#32) <<< x.1)) (0 : Lanes)
  let s1 := s.modGroup c.ref (fun g =>
    (g.modSlices c.slices (fun _ sl => { sl with pc := c.bundle, hints := [], bundle := none, wait := .running })).modCtl
      (fun k => { k with
        park := some { mask := mask, pc := c.bundle, addrs := addrs, unit := false },
        kept := { pc := c.bundle, slices := c.slices, lanes := kept } :: k.kept.filter (fun x => x.slices &&& c.slices == 0) }))
  lanes.foldl (fun s x =>
    s.faultFor c.team c.core (c.core, if c.ref.g = 32 then 128 else c.ref.g) x.2.1 x.2.2 (.group c.ref.team c.ref.g)) s1

/-! ## Shoot-downs -/

/-- Whether a page of 2^log bytes at an address meets a span of a shoot-down: size 3 covers everything (R293). -/
def shootCovers (addr size base log : Nat) : Bool :=
  let n := if size = 0 then 16 else if size = 1 then 21 else 30
  size == 3 || (let lo := addr / 2 ^ n * 2 ^ n; decide (base < lo + 2 ^ n ∧ lo < base + 2 ^ log))

/-- A replica no longer held leaves REPLUSED of its class (R438). -/
def State.dropReplica (s : State) (x : Nat) (r : Nat × Nat) : State :=
  s.modCtx x (fun c => { c with
    replicas := c.replicas.erase r, replUsed := modAt c.replUsed r.2 (fun n => if n = 0 then 0 else n - 1) })

/-- The pages shot down whose leaf no longer maps the replica that DUPFILL made (R438; log 67): the run-time has rewritten the leaf, and the
device takes the replica from REPLUSED. -/
def State.endReplicas (s : State) (p : Nat) (asid : BitVec 16) (addr size : Nat) : State :=
  match s.ctxs.findIdx? (fun c => c.live && c.polder == p && c.asid == asid) with
  | none => s
  | some x =>
    ((s.ctx x).replicas.filter (fun r => shootCovers addr size (65536 * r.1) 16)).foldl (fun s r =>
      match State.leafEntry p (65536 * r.1) levels (s.ctx x).root.toNat s with
      | (s1, some (_, w0, _, _)) => if w0.getLsbD 11 then s1 else s1.dropReplica x r
      | (s1, none) => s1.dropReplica x r) s

/-- Translations removed from every core and quarter of a polder (R261, R293, R310): TLB entries, entries of the walkers, the LIMIT of base
registers, and bypass attributes that were set under an address it covers or whose tiles the removed leaves map. -/
def State.shootDown (s : State) (p : Nat) (asid : BitVec 16) (addr size : Nat) : State :=
  let qs := (List.range 4).filter (fun q => s.polderOf q == p)
  let hit (e : TlbEntry) : Bool := e.asid == asid && shootCovers addr size e.vbase e.logSize
  let gone := qs.flatMap (fun q => (s.quarter q).tlb.filter hit) ++ (List.range s.cores.length).flatMap (fun i =>
    if qs.contains (quarterOf i) then (s.core i).tlb.filter hit else [])
  let covers (b : ByEntry) : Bool := (b.asid == some asid && shootCovers addr size b.va 0) || gone.any (fun e =>
    let f := (e.w0.extractLsb' 12 40).toNat * 4096
    leafTier e.w0 != 3 && decide (f ≤ 4096 * b.tile ∧ 4096 * b.tile < f + 2 ^ e.logSize))
  let s1 := { s with
    cores := s.cores.mapIdx (fun i (c : Core) => if qs.contains (quarterOf i) then { c with tlb := c.tlb.filter (fun e => !hit e) } else c),
    quarters := s.quarters.mapIdx (fun i (q : Quarter) =>
      if qs.contains i then
        { q with
          tlb := q.tlb.filter (fun e => !hit e),
          walker := q.walker.filter (fun e => !(e.asid == asid && shootCovers addr size (e.above * 2 ^ e.lo) e.lo)), bypass := q.bypass.filter (fun e => !covers e) }
      else q) }
  let cut (b : BaseReg) : BaseReg :=
    if b.valid && b.space == .virtual && b.limit != 0 &&
        (size == 3 || (let n := if size = 0 then 16 else if size = 1 then 21 else 30
          let lo := addr / 2 ^ n * 2 ^ n
          decide (b.vbase.toNat < lo + 2 ^ n ∧ lo < b.vbase.toNat + b.limit))) then { b with limit := 0 } else b
  let drop (k : Kept) : Kept := { k with lanes := k.lanes.filter (fun x => !shootCovers addr size x.2.1 0) }
  let shot (g : Group) : Group := { g with bases := g.bases.map cut, ctl := { g.ctl with kept := g.ctl.kept.map drop } }
  let s2 := s1.endReplicas p asid addr size
  { s2 with teams := s2.teams.map (fun (t : Team) =>
      let mine := match t.shape.ctx, t.core? with
        | some n, some c => (s.ctx n).asid == asid && qs.contains (quarterOf c)
        | _, _ => false
      if mine then
        { t with groups := t.groups.map shot, handler := t.handler.map shot }
      else t) }

end Sys2Proof.Machine
end

