-- ==== Sys2Proof/Machine/Access.lean ====
section
/-! DEFINITION. Memory accesses (07 R251, R254, 08 R257 to R273, 09 R302 to R315, 11 R332, R347, R348, R358): a word's
checks and operation, the front's admissions, what an access does where it is performed, and the direct accesses of the
device's units. -/
namespace Sys2Proof.Machine

/-- A range cut at tiles: address, length. -/
def cutTiles : Nat → Nat → Nat → List (Nat × Nat)
  | 0, _, _ => []
  | f + 1, va, n =>
    if n = 0 then []
    else
      let k := min n (4096 - va % 4096)
      (va, k) :: cutTiles f (va + k) (n - k)

/-- The pieces of a range, at most one to a tile. -/
def pieces (va n : Nat) : List (Nat × Nat) := cutTiles (n / 4096 + 2) va n

/-! ## Operations and counters (07 R251, R254) -/

/-- A list of numbers in the order a key chooses. -/
def permute : Nat → Nat → List Nat → List Nat
  | 0, _, _ => []
  | _, _, [] => []
  | n + 1, key, x :: xs =>
    let i := key % (xs.length + 1)
    (x :: xs).getD i 0 :: permute n (key / (xs.length + 1)) ((x :: xs).eraseIdx i)

/-- Whether a uniform result, in a scalar register, is what an operation writes. -/
def OpKind.isUniform : OpKind → Bool
  | .uniform _ => true
  | .engine scalar => scalar
  | _ => false

/-- Whether an operation is a SEQ word's. -/
def OpKind.isEngine : OpKind → Bool
  | .engine _ => true
  | _ => false

/-- Whether an operation writes registers. -/
def OpKind.hasResult : OpKind → Bool
  | .load | .atomic .. | .aggregate _ | .uniform _ | .dist | .pin | .engine _ => true
  | _ => false

/-- Whether an operation stores bytes. -/
def OpKind.stores : OpKind → Bool
  | .store | .atomic .. | .aggregate _ => true
  | _ => false

/-- Registers of a result. -/
def MemOp.regs (o : MemOp) : Nat := max 1 (o.width / 32)

/-- Register j of the result in a lane. -/
def MemOp.word (o : MemOp) (j l : Nat) : Word := BitVec.ofNat 32 ((o.vals.getD l 0).toNat / 2 ^ (32 * j))

/-- The lanes whose register j of the result has been written by itself (R52). -/
def MemOp.landed (o : MemOp) (j : Nat) : Lanes := lanesWhere (fun l => o.parts.contains (j, l))

/-- Whether an operation is not complete for a slice (R254). A scalar result is one for its whole sub-gang. -/
def MemOp.pendingFor (o : MemOp) (k : Nat) : Bool :=
  if o.kind.isUniform then o.slices.getLsbD k
  else (o.sel &&& ~~~o.written).extractLsb' (4 * k) 4 != 0

/-- The operations of a group. -/
def State.groupOps (s : State) (r : GRef) : List MemOp := s.ops.filter (fun o => o.team == r.team && o.group == r.g)

/-- ld of a group (R251). -/
def State.ldCount (s : State) (r : GRef) : Nat := ((s.groupOps r).filter (fun o => o.byLd)).length
/-- lds(s) (R254). -/
def State.lds (s : State) (r : GRef) (k : Nat) : Nat := ((s.groupOps r).filter (fun o => o.byLd && o.pendingFor k)).length
/-- st of a group. -/
def State.stCount (s : State) (r : GRef) : Nat := ((s.groupOps r).filter (fun o => o.kind == .store)).length
/-- bt of a group: only the producer's is ever nonzero. -/
def State.btCount (s : State) (r : GRef) : Nat :=
  match s.team? r.team, s.group? r with
  | some t, some g => if g.role = .producer then t.batches.length else 0
  | _, _ => 0
/-- The words of a group in its core's matrix queue. -/
def State.mxOf (s : State) (r : GRef) : List MxEntry :=
  match (s.team? r.team).bind Team.core? with
  | some c => (s.core c).mx.filter (fun e => e.team == r.team && e.group == r.g)
  | none => []
/-- tl of a group (R204). -/
def State.tlCount (s : State) (r : GRef) : Nat := (s.mxOf r).length

/-- The bytes of memory a word in the matrix unit accesses (R214, R231): address, length. -/
def MxEntry.region? (e : MxEntry) : Option (Nat × Nat) :=
  match e.instr with
  | .accld .. | .accst .. => some (e.sa.toNat % 2 ^ 56 / 1024 * 1024, 1024)
  | .obld .. => some (e.sa.toNat % 2 ^ 56, 512 * (e.sb.extractLsb' 32 16).toNat)
  | _ => none

/-- The record of a word that takes B with cached scales, the words of its team ahead of it standing so (R223). -/
def Team.cacheRecord? (t : Team) (ahead : List MxEntry) (e : MxEntry) : Option Nat :=
  let via (o : BitVec 3) : Option Nat :=
    match t.descAhead o.toNat ahead with
    | some d => if descSsrc d = 2 ∧ e.sel ≠ 0 then some o.toNat else none
    | none => none
  match e.instr with
  | .mmq _ _ o .. | .mms _ _ o .. => via o
  | _ => none

/-- A word that may change a record's base, descriptor or tags (R212, R213, R214, R222). -/
def MxEntry.changesRecord (e : MxEntry) : Bool :=
  match e.instr with
  | .obres .. | .obrel .. | .obld .. | .sccache .. => true
  | _ => false

/-- A word in the matrix unit that has memory still to access (R215, R223, R231, R330); where it reads scales, the record, and whether
no word ahead of it may change a record. -/
structure MxAccess where
  entry : MxEntry
  scales : Option Nat
  settled : Bool

/-- The words of a team's group that have memory still to access; `ahead` are the team's words before them. -/
def Team.mxAccesses (t : Team) (g : Nat) : List MxEntry → List MxEntry → List MxAccess
  | _, [] => []
  | ahead, e :: rest =>
    let k := t.cacheRecord? ahead e
    (if e.group == g && (e.region?.isSome || k.isSome) then [{ entry := e, scales := k, settled := !ahead.any MxEntry.changesRecord }]
      else []) ++
      t.mxAccesses g (ahead ++ [e]) rest

/-- The words of a group in the matrix unit that have memory still to access. -/
def State.mxAccesses (s : State) (r : GRef) : List MxAccess :=
  match s.team? r.team with
  | some t =>
    match t.core? with
    | some c => t.mxAccesses r.g [] ((s.core c).mx.filter (fun e => e.team == r.team))
    | none => []
  | none => []

/-- No access of a group's is outstanding, the engines' and the matrix unit's among them (R330): what a release, a fence or a copy word
waits for (R265, R278, R350). -/
def State.quiet (s : State) (r : GRef) : Bool := (s.groupOps r).isEmpty && (s.mxAccesses r).isEmpty

/-- Whether an operation reads or writes bytes, or only a tile's place (R272). -/
def OpKind.reachesMemory : OpKind → Bool
  | .dist | .pin | .unpin | .setByp | .clrByp | .touch => false
  | _ => true

/-- An operation that has done everything leaves (R251). -/
def MemOp.done (o : MemOp) : Bool :=
  (o.sel &&& ~~~o.served) == 0 && (!o.kind.hasResult || (o.sel &&& ~~~o.written) == 0)

/-- A fence whose group has nothing outstanding takes effect (R278). -/
def settleGroup (s : State) (r : GRef) : State :=
  match s.group? r, (s.team? r.team).bind Team.core? with
  | some g, some core =>
    match g.ctl.fence with
    | some scope =>
      if s.quiet r then
        (s.fenceAt (quarterOf core) scope).modGroup r (fun g => g.modCtl (fun k => { k with fence := none }))
      else s
    | none => s
  | _, _ => s

/-- Every group of the device, as references. -/
def State.refs (s : State) : List GRef :=
  s.teams.flatMap (fun t => (List.range t.groups.length).map (fun g => (⟨t.id, g⟩ : GRef)) ++
    (if t.handler.isSome then [⟨t.id, 32⟩] else []))

/-- Operations that are done leave, and fences that waited for them take effect. -/
def State.sweep (s : State) : State :=
  let s1 := { s with ops := s.ops.filter (fun o => !o.done) }
  s1.refs.foldl settleGroup s1

/-! ## Atomics (08 R270) -/

/-- The sum of two codes of a format, to nearest even (R270). -/
def faddCode (f : Fmt) (a b : Nat) : Nat := (finish f Mods.plain (Exact.add .rne (f.decode a) (f.decode b)) 0).1

/-- The width of an atomic's type (R109). -/
def atomWidth (ty : Nat) : Nat := if 2 ≤ ty then 64 else 32

/-- The new value of an atomic (R109, R270). -/
def atomNew (op ty old a b : Nat) : Nat :=
  let w := atomWidth ty
  let sg (x : Nat) : Int := (BitVec.ofNat w x).toInt
  let less (x y : Nat) : Bool := if ty % 2 = 1 then decide (sg x < sg y) else decide (x < y)
  match op with
  | 0 | 9 => (old + a) % 2 ^ w
  | 1 => if less a old then a else old
  | 2 => if less old a then a else old
  | 3 => old &&& a
  | 4 => old ||| a
  | 5 => old ^^^ a
  | 6 => a
  | 7 => if old = a then b else old
  | _ =>
    if ty = 0 then faddCode fmtF32 old a
    else if ty = 2 then faddCode fmtF64 old a
    else faddCode fmtF16 (old % 65536) (a % 65536) + 65536 * faddCode fmtF16 (old / 65536) (a / 65536)

/-! ## Where an access is performed -/

/-- n bytes where an access is performed: the quarter's copy, or the home. None where their unit is poisoned (R358). -/
def State.readAt (s : State) (q : Nat) (inCopy : Bool) (key : Option Nat) (pa n : Nat) : Option Nat :=
  if inCopy then
    match (s.quarter q).copy? (pa / 4096) with
    | some c => if c.poison.getLsbD (pa % 4096 / 64) then none else some (c.read (pa % 4096) n)
    | none => none
  else if s.home.isPoisoned pa then none
  else some (s.home.natAs s.keys key pa n)

/-- n bytes written where an access is performed. -/
def State.writeAt (s : State) (q : Nat) (inCopy : Bool) (key : Option Nat) (pa n v : Nat) : State :=
  if inCopy then s.modQuarter q (fun k => k.modCopy (pa / 4096) (fun c => c.write (pa % 4096) n v))
  else s.modHome (fun h => h.setNatAs s.keys key pa n v)

/-- The units of a tile that a mask of bytes meets. -/
def unitsOf (mask : BitVec 4096) : List Nat := (List.range 64).filter (fun u => mask.extractLsb' (64 * u) 64 != 0)

/-- The units that a mask covers whole. -/
def wholeUnits (mask : BitVec 4096) : List Nat :=
  (List.range 64).filter (fun u => mask.extractLsb' (64 * u) 64 == BitVec.allOnes 64)

/-- Before bytes of a tile are read: a copy meets the errors of its units (R507) and fetches the bytes it lacks (R306); a home takes the write-backs on their way and
meets the errors of its units (R493, R507). -/
def State.readyBytes (s : State) (q : Nat) (inCopy : Bool) (tile : Nat) (mask : BitVec 4096) (leaf : DWord × DWord) : State :=
  if inCopy then (s.healCopy q tile mask).fetchMissing q tile mask
  else (unitsOf mask).foldl (fun s u => s.readUnit q (64 * tile + u) leaf) (s.flushWb tile)

/-- After bytes of a tile were written: poison of units written whole goes (R358), and at a home the sharers lose the bytes but one that
keeps its copy (R309, R317, R347). -/
def State.wroteBytesBut (s : State) (q : Nat) (inCopy : Bool) (keeps : Option Nat) (tile : Nat) (mask : BitVec 4096) : State :=
  if inCopy then s.modQuarter q (fun k => k.modCopy tile (fun c => c.clearPoison mask))
  else
    (s.modHome (fun h => (wholeUnits mask).foldl (fun h u => h.cleanUnit (64 * tile + u)) h)).homeWritten keeps tile mask

/-- The same where no quarter keeps its copy. -/
def State.wroteBytes (s : State) (q : Nat) (inCopy : Bool) (tile : Nat) (mask : BitVec 4096) : State :=
  s.wroteBytesBut q inCopy none tile mask

/-- The place of a lane as a physical address and leaf. -/
def MemOp.phys? (o : MemOp) (l : Nat) : Option (Nat × (DWord × DWord)) :=
  match o.locs[l]? with
  | some (.phys pa leaf) => some (pa, leaf)
  | _ => none

/-- Physical address of a lane. -/
def MemOp.pa (o : MemOp) (l : Nat) : Nat := ((o.phys? l).map Prod.fst).getD 0
/-- Leaf of a lane. -/
def MemOp.leaf (o : MemOp) (l : Nat) : DWord × DWord := ((o.phys? l).map Prod.snd).getD (0, 0)
/-- Virtual address of a lane. -/
def MemOp.va (o : MemOp) (l : Nat) : Nat := o.vas.getD l 0
/-- First operand of a lane. -/
def MemOp.arg (o : MemOp) (l : Nat) : Nat := (o.data.getD l 0).toNat
/-- Second operand of a lane. -/
def MemOp.arg2 (o : MemOp) (l : Nat) : Nat := (o.data2.getD l 0).toNat
/-- Bytes of a lane's access. -/
def MemOp.bytes (o : MemOp) : Nat := o.width / 8

/-- The bytes of a tile that lanes of an operation name. -/
def MemOp.mask (o : MemOp) (lanes : Lanes) : BitVec 4096 :=
  (laneNums lanes).foldl (fun m l => m ||| byteMask (o.pa l % 4096) o.bytes) 0

/-- What a poisoned or dropped lane reads (R358, R480): all ones in every 32-bit word. -/
def onesOf (w : Nat) : Nat := 2 ^ max 32 w - 1

/-- Values given to lanes of an operation, which are then served. -/
def State.serveVals (s : State) (id : Nat) (lanes : Lanes) (vals : List (Nat × Nat)) : State :=
  s.modOp id (fun o => { o with
    served := o.served ||| lanes,
    vals := o.vals.mapIdx (fun l v => match lookupNat vals l with
      | some x => BitVec.ofNat 256 x
      | none => v) })

/-- The group of an operation. -/
def MemOp.ref (o : MemOp) : GRef := ⟨o.team, o.group⟩

/-- A team that has read a poisoned unit counts in TEAMS of the unit's region, once while the record stands (R493). -/
def State.noteReader (s : State) (team pa tier : Nat) : State :=
  if tier = 1 then
    match s.regionAt pa with
    | some n => s.modRegion n (fun r =>
        if r.recValid && !r.recSeen.contains team then { r with recSeen := team :: r.recSeen, recTeams := satAdd r.recTeams 1 } else r)
    | none => s
  else s

/-- A poisoned read of an operation: POISON with the first address (R358), and the team noted in RGFREC (R493). -/
def State.notePoison (s : State) (ref : GRef) (va pa tier : Nat) : State :=
  (s.deferFault ref 0x44 (BitVec.ofNat 56 va)).noteReader ref.team pa tier

/-- The same of a virtual address that a unit of a core has read for a team, where its unit is poisoned. -/
def State.countReader (s : State) (core : Nat) (ctx : Option Nat) (app : Bool) (team va : Nat) : State :=
  match (s.xlate core ctx app 1 va).2 with
  | .at (.phys pa leaf) =>
    let inCopy := match (s.quarter (quarterOf core)).copy? (pa / 4096) with
      | some c => c.poison.getLsbD (pa % 4096 / 64)
      | none => false
    if s.home.isPoisoned pa || inCopy then s.noteReader team pa (leafTier leaf.1) else s
  | _ => s

/-- A group's word that a unit of its core performs has met a poisoned or lost byte: the fault is recorded, and a poisoned unit's reader counts
(R358, R480, R492, R493). -/
def State.noteBad (s : State) (core : Nat) (ctx : Option Nat) (app : Bool) (ref : GRef) (code oper : Nat) : State :=
  let s1 := s.deferFault ref code (BitVec.ofNat 56 oper)
  if code = 0x44 then s1.countReader core ctx app ref.team oper else s1

/-- The order in which lanes of a word are applied: ascending, or where their bytes overlap any (R264, R270, R332, log
8). -/
def State.orderLanes (s : State) (o : MemOp) (lanes : Lanes) : State × List Nat :=
  let ls := laneNums lanes
  let meets (a b : Nat) : Bool := a != b && decide (o.pa a < o.pa b + o.bytes ∧ o.pa b < o.pa a + o.bytes)
  if o.kind.stores && ls.any (fun a => ls.any (fun b => meets a b)) then
    let r := s.draw
    (r.2, permute ls.length (Config.laneOrder r.1) ls)
  else (s, ls)

/-- Whether an operation is performed at the home whatever copy the quarter holds (R347). -/
def MemOp.atHome (o : MemOp) : Bool :=
  match o.kind with
  | .atomic .. | .aggregate _ => 4 ≤ o.scope
  | _ => false

/-- Lanes of an operation performed on one tile, in the copy or at the home (R264, R270, R271, R358). The quarter of an atomic performed at
the home for its scope keeps its copy (R347). -/
def State.perform (s : State) (q tile : Nat) (o : MemOp) (lanes : Lanes) (inCopy : Bool) : State :=
  let l0 := ((laneNums lanes).head?).getD 0
  let leaf := o.leaf l0
  let key := s.keyFor q o.ctx leaf
  let mask := o.mask lanes
  let keeps := if o.atHome then some q else none
  let bad (s : State) (ls : List Nat) : State :=
    match ls.head? with
    | some l => s.notePoison o.ref (o.va l) (o.pa l) (leafTier leaf.1)
    | none => s
  match o.kind with
  | .load | .uniform _ =>
    let s1 := s.readyBytes q inCopy tile mask leaf
    let got := (laneNums lanes).map (fun l => (l, s1.readAt q inCopy key (o.pa l) o.bytes))
    (bad s1 ((got.filter (fun x => x.2.isNone)).map Prod.fst)).serveVals o.id lanes
      (got.map (fun x => (x.1, x.2.getD (onesOf o.width))))
  | .store =>
    let r := (if inCopy then s else s.flushWb tile).orderLanes o lanes
    let s1 := r.2.foldl (fun s l => s.writeAt q inCopy key (o.pa l) o.bytes (o.arg l)) r.1
    (s1.wroteBytes q inCopy tile mask).serveVals o.id lanes []
  | .atomic op ty =>
    let r := (s.readyBytes q inCopy tile mask leaf).orderLanes o lanes
    let run := r.2.foldl (fun (acc : State × List (Nat × Nat) × List Nat) l =>
      match acc.1.readAt q inCopy key (o.pa l) o.bytes with
      | some old =>
        (acc.1.writeAt q inCopy key (o.pa l) o.bytes (atomNew op ty old (o.arg l) (o.arg2 l)), acc.2.1 ++ [(l, old)],
          acc.2.2)
      | none => (acc.1, acc.2.1 ++ [(l, onesOf o.width)], acc.2.2 ++ [l])) (r.1, [], [])
    let good := (laneNums lanes).filter (fun l => !run.2.2.contains l)
    let wrote := good.foldl (fun m l => m ||| byteMask (o.pa l % 4096) o.bytes) (0 : BitVec 4096)
    (bad (run.1.wroteBytesBut q inCopy keeps tile wrote) run.2.2).serveVals o.id lanes run.2.1
  | .aggregate _ =>
    let s1 := s.readyBytes q inCopy tile (byteMask (o.pa l0 % 4096) o.bytes) leaf
    let w := o.width
    match s1.readAt q inCopy key (o.pa l0) o.bytes with
    | none => (bad s1 [l0]).serveVals o.id o.sel ((laneNums o.sel).map (fun l => (l, onesOf w)))
    | some old =>
      let run := (laneNums o.sel).foldl (fun (acc : Nat × List (Nat × Nat)) l =>
        ((acc.1 + o.arg l) % 2 ^ w, acc.2 ++ [(l, acc.1)])) (old, [])
      ((s1.writeAt q inCopy key (o.pa l0) o.bytes run.1).wroteBytesBut q inCopy keeps tile
        (byteMask (o.pa l0 % 4096) o.bytes)).serveVals o.id o.sel run.2
  | _ => s.serveVals o.id lanes []

/-- Lanes of an atomic that fails at a home outside the device (R270, R347, log 40): memory is not changed, each lane's value is a free
one, and the first address is recorded with FARATOM. -/
def State.failFar (s : State) (o : MemOp) (lanes : Lanes) (l0 : Nat) : State :=
  let r := s.draw
  let all := match o.kind with
    | .aggregate _ => o.sel
    | _ => lanes
  (r.2.deferFault o.ref 0x46 (BitVec.ofNat 56 (o.va l0))).serveVals o.id all ((laneNums all).map (fun l =>
    (l, ((Config.rawWord (r.1 * 2 ^ 20 + 2 * l)).toNat + 2 ^ 32 * (Config.rawWord (r.1 * 2 ^ 20 + 2 * l + 1)).toNat) % 2 ^ o.width)))

/-- Lanes of an atomic that fail at their home, where it lies outside the device. -/
def State.farLanes (s : State) (o : MemOp) (lanes : Lanes) (inCopy : Bool) : Lanes :=
  if inCopy || s.home.farFaults.isEmpty then 0
  else lanes &&& lanesWhere (fun l => leafTier (o.leaf l).1 != 0 && s.home.farFaults.contains (.phys (o.pa l / 64)))

/-- An atomic performed: the lanes that fail at a far home aside, as `State.perform` says. -/
def State.performAtomic (s : State) (q tile : Nat) (o : MemOp) (lanes : Lanes) (inCopy : Bool) : State :=
  let far := match o.kind with
    | .atomic .. | .aggregate _ => s.farLanes o lanes inCopy
    | _ => 0
  match (laneNums far).head? with
  | none => s.perform q tile o lanes inCopy
  | some l0 =>
    let rest := match o.kind with
      | .aggregate _ => 0
      | _ => lanes &&& ~~~far
    (if rest = 0 then s else s.perform q tile o rest inCopy).failFar o far l0

/-- The home quarter of a tile, or the quarter itself where there is none. -/
def State.homeOf (s : State) (q pa tier : Nat) : Nat :=
  match s.reach q pa tier with
  | .home h => h
  | _ => q

/-- Whether an order field holds an acquire, a release (R97). -/
def orderAcquires (o : Nat) : Bool := o % 2 == 1
def orderReleases (o : Nat) : Bool := 2 ≤ o % 4

/-- The bytes of the units of a tile that a set of 64-byte units does not hold. -/
def outsideUnits (mask : BitVec 4096) (units : BitVec 64) : BitVec 4096 :=
  (List.range 64).foldl (fun m u => if units.getLsbD u then m &&& ~~~(BitVec.ofNat 4096 ((2 ^ 64 - 1) * 2 ^ (64 * u))) else m) mask

/-- The quarter's copy takes, clean, the bytes an atomic left at its home (R347). Where the atomic's unit is poisoned there it changed nothing,
and the copy stays as it is (R358). -/
def State.takeResult (s : State) (q tile : Nat) (bytes : BitVec 4096) : State :=
  let mask := outsideUnits bytes (s.home.tilePoison tile)
  match (s.quarter q).copy? tile with
  | none => s
  | some c =>
    s.modQuarter q (fun k => k.modCopy tile (fun c0 =>
      { (c0.take mask (s.home.tileBits s.keys c.keyslot tile) 0) with dirty := c0.dirty &&& ~~~mask }))

/-- An access performed with its acquire or release (R265, R318, R319, R347, R348). -/
def State.performOrdered (s : State) (q tile : Nat) (o : MemOp) (lanes : Lanes) (inCopy : Bool) : State :=
  let l0 := ((laneNums lanes).head?).getD 0
  let home := s.homeOf q (o.pa l0) (leafTier (o.leaf l0).1)
  let mask := match o.kind with
    | .aggregate _ => byteMask (o.pa l0 % 4096) o.bytes
    | _ => o.mask lanes
  let acq := orderAcquires o.order && 4 ≤ o.scope
  let rel := orderReleases o.order && 4 ≤ o.scope
  match o.kind with
  | .store =>
    let s1 := s.perform q tile o lanes inCopy
    if rel then s1.release q o.scope [home] else s1
  | _ =>
    let s1 := if o.atHome || acq then s.cleanCopy q tile mask else s
    let s2 := if rel then s1.release q o.scope [home] else s1
    let s3 := if acq then s2.acquire q o.scope [home] else s2
    if o.atHome then (s3.performAtomic q tile o lanes false).takeResult q tile mask
    else s3.performAtomic q tile o lanes inCopy

/-- Lanes that reach nothing (R480, R492): all ones, no memory changed, a deferred fault. -/
def State.serveLost (s : State) (o : MemOp) (lanes : Lanes) (code : Nat) (oper : BitVec 56) : State :=
  let all := match o.kind with
    | .aggregate _ => o.sel
    | _ => lanes
  (s.deferFault o.ref code oper).serveVals o.id all ((laneNums all).map (fun l => (l, onesOf o.width)))

/-! ## Fills and removals (09 R315) -/

/-- The fill of a copy lands (R315): its data arrives, and the accesses that wait for it are served in order. -/
def State.fillLands (s : State) (q tile : Nat) : State :=
  match (s.quarter q).copy? tile with
  | none => s
  | some c =>
    if c.filling = false then s
    else
      let s1 := (s.landFill q tile).modQuarter q (fun k => k.modCopy tile (fun c => { c with queue := [] }))
      c.queue.foldl (fun s w => match s.op? w.1 with
        | some o => s.performOrdered q tile o w.2 true
        | none => s) s1

/-- A copy removed from a quarter, its dirty bytes written back first, and the accesses that wait for its fill performed
at the home (R315, R320, R329). -/
def State.removeCopy (s : State) (q tile : Nat) : State :=
  match (s.quarter q).copy? tile with
  | none => s
  | some c =>
    let s1 := s.leave q tile
    c.queue.foldl (fun s w => match s.op? w.1 with
      | some o =>
        let l0 := ((laneNums w.2).head?).getD 0
        match s.reach q (4096 * tile) (leafTier (o.leaf l0).1) with
        | .home _ => s.performOrdered q tile o w.2 false
        | .drop => (s.countDrop q).serveLost o w.2 0x44 (BitVec.ofNat 56 (o.va l0))
        | .region n => s.serveLost o w.2 0x45 (BitVec.ofNat 56 n)
      | none => s) s1

/-! ## The front (09 R311 to R313) -/

/-- How a request takes its place. -/
inductive Want where
  /-- A touch (R302). -/
  | touch
  /-- An admission that touches nothing. -/
  | plain
  /-- A bypassed access to an absent tile: no admission. -/
  | home
  deriving DecidableEq, Repr

/-- Whether the access to a tile that a quarter makes is served from its copy: it has one, and the page is not in host bias, whose every
access is served at the home (R309, R353). -/
def State.inCopy (s : State) (q tile tier : Nat) : Bool := ((s.quarter q).copy? tile).isSome && !s.hostBiased (4096 * tile) tier

/-- Whether accesses of a context to a tile are bypassed in a quarter (R303, R305, R309, R310, R353). -/
def State.bypasses (s : State) (q tile x : Nat) (byWord : Bool) (tier : Nat) : Bool :=
  byWord || (s.quarter q).bypassed tile || s.hostBiased (4096 * tile) tier || !s.dev.readySpiral.getLsbD q ||
  (x < 64 && (s.quarter q).tileQuota x == 0)

/-- What a request wants (R302, R309, R311). -/
def State.want (s : State) (q : Nat) (r : Req) (o : MemOp) : Want :=
  match o.kind with
  | .dist | .pin | .unpin | .setByp | .clrByp => .plain
  | _ =>
    let l0 := ((laneNums r.lanes).head?).getD 0
    let k := s.quarter q
    let tier := leafTier (o.leaf l0).1
    if s.bypasses q r.tile (o.ctx.getD 64) r.bypass tier then
      (if s.inCopy q r.tile tier then .plain else .home)
    else if (k.slotOf r.tile).isSome then .plain
    else .touch

/-- A slot of a cycle of the front: whether it is one of the eight, the tile it touches, the requests it serves in order, and the touches
that joined it but are served behind a later slot of the tile (R312). -/
structure Slot where
  counted : Bool
  touched : Option Nat
  reqs : List Req
  joined : List Req
  deriving DecidableEq, Repr

/-- The slots of a cycle that are filled: those the device's units took (R311), and the front's. -/
def filled (used : List (Option Nat)) (slots : List Slot) : Nat := used.length + (slots.filter (fun x => x.counted)).length

/-- A touch that joins the slot j of its tile, using none of its own (R311). Accesses to one tile act in the order of their admission (R312): where
a later slot of the cycle names the tile, the touch is made with slot j and the request is served behind that slot (DESIGN CHOICE, log 82). -/
def joinSlot (slots : List Slot) (j : Nat) (r : Req) : List Slot :=
  if (slots.drop (j + 1)).any (fun x => x.reqs.any (fun y => y.tile == r.tile)) then
    modAt slots j (fun x => { x with joined := x.joined ++ [r] }) ++ [{ counted := false, touched := none, reqs := [r], joined := [] }]
  else modAt slots j (fun x => { x with reqs := x.reqs ++ [r] })

/-- One core's turn in a pass (R311): pending lists of the 64 cores, slots, whether a request was taken, merges. -/
def State.frontTurn (s : State) (q : Nat) (acc : List (List Req) × List Slot × Bool × Nat) (c : Nat) :
    List (List Req) × List Slot × Bool × Nat :=
  match acc.1.getD c [] with
  | [] => acc
  | r :: rest =>
    match s.op? r.op with
    | none => (acc.1.set c rest, acc.2.1, true, acc.2.2.2)
    | some o =>
      let used := (s.quarter q).cycleSlots
      let take (counted : Bool) (touched : Option Nat) (merges : Nat) : List (List Req) × List Slot × Bool × Nat :=
        (acc.1.set c rest, acc.2.1 ++ [{ counted := counted, touched := touched, reqs := [r], joined := [] }], true, merges)
      let room := filled used acc.2.1 < 8
      let touchedNow := acc.2.1.findIdx? (fun x => x.touched == some r.tile)
      match s.want q r o with
      | .home =>
        -- behind a touch of the tile in this cycle it finds the tile resident
        if touchedNow.isNone then take false none acc.2.2.2 else if room then take true none acc.2.2.2 else acc
      | .plain => if room then take true none acc.2.2.2 else acc
      | .touch =>
        match touchedNow with
        | some j => (acc.1.set c rest, joinSlot acc.2.1 j r, true, acc.2.2.2 + 1)
        | none =>
          -- a unit's touch of the tile holds a slot already
          if used.contains (some r.tile) then take false none (acc.2.2.2 + 1)
          else if room then take true (some r.tile) acc.2.2.2
          else acc

/-- The passes of a cycle (R311). -/
def State.frontPasses (s : State) (q : Nat) : Nat → List (List Req) × List Slot × Nat → List (List Req) × List Slot × Nat
  | 0, acc => acc
  | n + 1, acc =>
    if 8 ≤ filled (s.quarter q).cycleSlots acc.2.1 then acc
    else
      let ptr := (s.quarter q).frontPtr
      let r := ((List.range 64).map (fun i => (ptr + i) % 64)).foldl (s.frontTurn q) (acc.1, acc.2.1, false, acc.2.2)
      if r.2.2.1 then State.frontPasses s q n (r.1, r.2.1, r.2.2.2) else (r.1, r.2.1, r.2.2.2)

/-- A request served where it stands (R309, R315, R480, R492). -/
def State.serveReq (s : State) (q : Nat) (r : Req) : State :=
  match s.op? r.op with
  | none => s
  | some o =>
    let l0 := ((laneNums r.lanes).head?).getD 0
    match s.reach q (4096 * r.tile) (leafTier (o.leaf l0).1) with
    | .drop => (s.countDrop q).serveLost o r.lanes 0x44 (BitVec.ofNat 56 (o.va l0))
    | .region n => s.serveLost o r.lanes 0x45 (BitVec.ofNat 56 n)
    | .home _ =>
      match (s.quarter q).copy? r.tile, s.inCopy q r.tile (leafTier (o.leaf l0).1) with
      | some c, true =>
        if c.filling then s.modQuarter q (fun k => k.modCopy r.tile (fun c => { c with queue := c.queue ++ [(o.id, r.lanes)] }))
        else s.performOrdered q r.tile o r.lanes true
      | _, _ => s.performOrdered q r.tile o r.lanes false

/-- The effect of a spiral query or command at its admission (R272, R307 to R310); false where it is held. -/
def State.spiralOp (s : State) (q : Nat) (r : Req) (o : MemOp) : State × Bool :=
  let l0 := ((laneNums r.lanes).head?).getD 0
  let leaf := o.leaf l0
  let x := o.ctx.getD 64
  let ready := s.dev.readySpiral.getLsbD q
  let give (s : State) (v : Nat) : State := s.serveVals o.id r.lanes ((laneNums r.lanes).map (fun l => (l, v)))
  match o.kind with
  | .dist => (give s (if ready then (s.quarter q).distResult r.tile else 0xFFFFFFFF), true)
  | .pin =>
    if !ready then (give s 0xFFFFFFFE, true)
    else
      match s.pin q r.tile x (s.keyFor q o.ctx leaf) leaf with
      | (s1, some v) => (give s1 v, true)
      | (_, none) => (s, false)
  | .unpin => ((s.unpin q r.tile x).serveVals o.id r.lanes [], true)
  | .setByp =>
    let e : ByEntry := { tile := r.tile, ctx := x, asid := o.ctx.map (fun n => (s.ctx n).asid), va := o.va l0 }
    ((s.modQuarter q (fun k => k.setBypass e)).serveVals o.id r.lanes [], true)
  | .clrByp => ((s.modQuarter q (fun k => k.clearBypass r.tile)).serveVals o.id r.lanes [], true)
  | _ => (s, true)

/-- Whether an access of a page waits for the bias flip of the page that runs (R354): one in flight when it began does not. -/
def State.biasHolds (s : State) (pa : Nat) (op : Option Nat) : Bool :=
  s.polders.any (fun x => match x.biasOps with
    | some ids => x.biasPage.toNat == pa / 65536 && !(op.any (fun n => ids.contains n))
    | none => false)

/-- Whether a load of a quarter that reads bytes of a tile at its channel waits for a refresh of it (21 R502): the quarter has no copy with the
bytes, and the fill of one that awaits it is no part of this. -/
def State.loadHeld (s : State) (q : Nat) (r : Req) (o : MemOp) : Bool :=
  let leaf := o.leaf (((laneNums r.lanes).head?).getD 0)
  (o.kind == .load || o.kind.isUniform) && s.refreshing q (4096 * r.tile) (leafTier leaf.1) &&
  (match (s.quarter q).copy? r.tile, s.inCopy q r.tile (leafTier leaf.1) with
  | some c, true => !c.filling && o.mask r.lanes &&& ~~~c.valid != 0
  | _, _ => s.want q r o != .touch)

/-- Whether a request may be served now (R303, R354, R512, 21 R502). -/
def State.reqReady (s : State) (q : Nat) (r : Req) : Bool :=
  match s.op? r.op with
  | some o =>
    match o.kind with
    | .dist | .unpin | .setByp | .clrByp => true
    | .pin => !s.dev.readySpiral.getLsbD q || s.homeReady q (4096 * r.tile) (leafTier (o.leaf (((laneNums r.lanes).head?).getD 0)).1)
    | _ => s.homeReady q (4096 * r.tile) (leafTier (o.leaf (((laneNums r.lanes).head?).getD 0)).1) && !s.biasHolds (4096 * r.tile) (some o.id) &&
        !s.loadHeld q r o
  | none => true

/-- A tile that stands in a quarter under another key slot than a touch's leaves first (R428), and what awaits its fill is performed at the
home (R315). -/
def State.rekeyTile (s : State) (q tile : Nat) (key : Option Nat) : State :=
  match (s.quarter q).chain.find? (fun c => c.tile == tile) with
  | some c => if c.keyslot != key then s.removeCopy q tile else s
  | none => s

/-- A touch that core words or units make (R304, R428). -/
def State.touchTile (s : State) (q tile x : Nat) (key : Option Nat) (leaf : DWord × DWord) : State × Room :=
  (s.rekeyTile q tile key).touch q tile x key leaf

/-- Whether a request stands behind one that is held, in the pending list of its core (R311, R313). -/
def State.behindHeld (s : State) (held : List Req) (r : Req) : Bool :=
  let place (x : Req) : Nat := (s.core x.core).reqs.findIdx (fun y => y == x)
  held.any (fun h => h.core == r.core && decide (place h ≤ place r))

/-- One slot applied (R304, R307, R312): the state, and the requests that keep their place (R313). What a held touch has made leave has left
(R304). -/
def State.applySlot (q : Nat) (acc : State × List Req) (slot : Slot) : State × List Req :=
  let s := acc.1
  let free := slot.reqs.filter (fun r => !s.behindHeld acc.2 r)
  let stay := slot.reqs.filter (fun r => s.behindHeld acc.2 r)
  let back (s : State) : State × List Req := (s, acc.2 ++ slot.reqs ++ slot.joined)
  match free with
  | [] => (s, acc.2 ++ stay ++ slot.joined)
  | r0 :: _ =>
    match s.op? r0.op with
    | none => (s, acc.2 ++ stay)
    | some o0 =>
      if !s.reqReady q r0 then back s
      else
        match o0.kind with
        | .dist | .pin | .unpin | .setByp | .clrByp =>
          match s.spiralOp q r0 o0 with
          | (s1, true) => (s1, acc.2 ++ stay)
          | (s1, false) => back s1
        | _ =>
          let l0 := ((laneNums r0.lanes).head?).getD 0
          let leaf := o0.leaf l0
          let reaches := match s.reach q (4096 * r0.tile) (leafTier leaf.1) with
            | .home _ => true
            | _ => false
          if reaches && slot.counted && s.want q r0 o0 == .touch then
            match s.touchTile q r0.tile (o0.ctx.getD 64) (s.keyFor q o0.ctx leaf) leaf with
            | (s1, .hold) => back s1
            | (s1, _) => (free.foldl (fun s r => s.serveReq q r) s1, acc.2 ++ stay)
          else (free.foldl (fun s r => s.serveReq q r) s, acc.2 ++ stay)

/-- front_cycle (R311) and the counts of SPFRONT (R327). The pointer advances with the cycle. -/
def State.frontCycle (s : State) (q : Nat) : State :=
  let pend := (List.range 64).map (fun c => (s.core (64 * q + c)).reqs)
  let total := (pend.map List.length).foldl (· + ·) 0
  let formed : List (List Req) × List Slot × Nat := State.frontPasses s q (total + 1) (pend, [], 0)
  let run : State × List Req := formed.2.1.foldl (State.applySlot q) (s, [])
  let s1 := { run.1 with cores := run.1.cores.mapIdx (fun i (k : Core) =>
    if quarterOf i = q then
      { k with reqs := (s.core i).reqs.filter (fun (r : Req) => run.2.contains r || (formed.1.getD (i % 64) []).contains r) }
    else k) }
  let mine := formed.2.1.filter (fun (x : Slot) => x.counted)
  s1.modQuarter q (fun k => { k with
    frontDone := true, cycleSlots := k.cycleSlots ++ mine.map (fun x => x.touched), slots := satAdd k.slots mine.length,
    merged := satAdd k.merged formed.2.2 })

/-! ## Requests of peers at their home (16 R436 to R438) -/

/-- The leaf of an address in a quarter: its TLB, then a walk (R432, R436). -/
def State.quarterLeaf (s : State) (q x va : Nat) : State × Walk :=
  let c := s.ctx x
  match tlbFind (s.quarter q).tlb c.asid va with
  | some e => (s, .leaf e.w0 e.w1 e.logSize)
  | none =>
    match s.walkFor q x va with
    | (s1, .leaf w0 w1 lo) =>
      let e : TlbEntry := { asid := c.asid, vbase := va / 2 ^ lo * 2 ^ lo, logSize := lo, w0 := w0, w1 := w1 }
      (s1.modQuarter q (fun k => { k with tlb := tlbPut k.tlb 16384 e }), .leaf w0 w1 lo)
    | r => r

/-- The kind of access a request makes: 1 a read, 2 a write, 3 the read of a page for a replica, 4 + 16·type + operation an
atomic (`value` holds its operands, the second from bit 64). -/
def peerKind (kind : Nat) : Kind := if kind = 2 then 2 else if 4 ≤ kind then 4 else 1

/-- A request waits at its home on a fault (R434, R436, R438). -/
def State.peerWaits (s : State) (x q va kind : Nat) (w : Waiter) : State :=
  s.addFault (s.ctx x).polder x (va / 65536) kind
    (faultBytes va (s.ctx x).asid.toNat x kind 0 q 0xFF 0 0 s.tick.toNat) w

/-- A request performed at its home (R355, R437), and what it answers: bytes of device memory under the key of the context; none where a unit is
poisoned. -/
def State.peerPerform (s : State) (q x kind va n value pa : Nat) (leaf : DWord × DWord) : State × Option Nat :=
  let key := s.keyFor q (some x) leaf
  let tile := pa / 4096
  let mask := byteMask (pa % 4096) n
  let put (s : State) (v : Nat) : State :=
    ((s.flushWb tile).modHome (fun h => h.setNatAs s.keys key pa n v)).wroteBytes q false tile mask
  if kind = 2 then (put s value, some 0)
  else if 4 ≤ kind then
    let s1 := s.readyBytes q false tile mask leaf
    match s1.readAt q false key pa n with
    | none => (s1, none)
    | some old => (put s1 (atomNew ((kind - 4) % 16) ((kind - 4) / 16) old (value % 2 ^ 64) (value / 2 ^ 64)), some old)
  else if kind = 3 then
    let c := s.ctx x
    let page := pa / 65536
    let s1 := (List.range 16).foldl (fun s i => s.cleanEverywhere (16 * page + i) (BitVec.allOnes 4096)) s
    match State.leafEntry q va levels c.root.toNat s1 with
    | (s2, some (at_, w0, _, lo)) =>
      ((s2.devWrite q at_ 8 (w0 ||| 0x400).toNat).shootDown c.polder c.asid va (if lo = 16 then 0 else if lo = 21 then 1 else 2), some 0)
    | (s2, none) => (s2, some 0)
  else
    let s1 := s.readyBytes q false tile mask leaf
    (s1, s1.readAt q false key pa n)

/-- What a request comes to at its home (R436). -/
inductive PeerAnswer where
  /-- It is performed; a read's value, or an atomic's old one. -/
  | value (v : Nat)
  | poison
  /-- It waits on a fault. -/
  | waits
  /-- It waits for its memory (R512). -/
  | hold
  deriving DecidableEq, Repr

/-- A request at its home, over a link of quarter q (R436). -/
def State.homeAsk (s : State) (q kind asid va n value : Nat) (w : Waiter) : State × PeerAnswer :=
  match s.ctxs.findIdx? (fun c => c.live && c.peerExp && c.asid.toNat == asid) with
  | none => (s, .poison)
  | some x =>
    match s.quarterLeaf q x va with
    | (s1, .missing) => (s1.peerWaits x q va 7 w, .waits)
    | (s1, .malformed) => (s1, .poison)
    | (_, .hold) => (s, .hold)
    | (s1, .lost) => (s1.countDrop q, .poison)
    | (s1, .leaf w0 w1 lo) =>
      let k := peerKind kind
      if leafTier w0 != 0 || (kind != 3 && decide (4096 < va % 4096 + n)) then (s1, .poison)
      else if w0.getLsbD 11 && kindWrites k then (s1.peerWaits x q va 5 w, .waits)
      else if !(permOf w0).allows k false then (s1, .poison)
      else if w0.getLsbD 10 && kindWrites k then (s1.peerWaits x q va 5 w, .waits)
      else
        let pa := (w0.extractLsb' 12 40).toNat * 4096 + va % 2 ^ lo
        match s1.reach q pa 0 with
        | .home _ =>
          if !s.homeReady q pa 0 then (s, .hold)
          else
            let r := s1.peerPerform q x kind va n value pa (w0, w1)
            (r.1, match r.2 with
              | some v => .value v
              | none => .poison)
        | _ => (s1.countDrop q, .poison)

/-- A request of a peer (R436): it waits on a fault, returns poison with no effect, or is performed. -/
def State.peerAsk (s : State) (link kind asid va n value : Nat) : State :=
  (s.homeAsk (link / 4) kind asid va n value (.peer link kind asid va n value)).1

/-! ## Peer memory as this device sees it (16 R436, 11 R355, log 15) -/

/-- One byte of a peer's memory: what this device last wrote there, else a free value. -/
def State.peerByte (s : State) (dev asid va : Nat) : State × Byte :=
  match s.home.peers.find? (fun p => p.1 == (dev, asid, va)) with
  | some p => (s, p.2)
  | none => let r := s.draw; (r.2, Config.peerWord dev r.1)

/-- n bytes of a peer's memory. -/
def State.peerRead (s : State) (dev asid va : Nat) : Nat → State × Nat
  | 0 => (s, 0)
  | n + 1 =>
    let b := s.peerByte dev asid va
    let r := State.peerRead b.1 dev asid (va + 1) n
    (r.1, b.2.toNat + 256 * r.2)

/-- n bytes written to a peer's memory. -/
def State.peerWrite (s : State) (dev asid va : Nat) : Nat → Nat → State
  | 0, _ => s
  | n + 1, v =>
    let rest := s.home.peers.filter (fun p => !(p.1 == (dev, asid, va)))
    State.peerWrite (s.modHome (fun h => { h with peers := ((dev, asid, va), BitVec.ofNat 8 v) :: rest })) dev asid (va + 1) n
      (v / 256)

/-- The ASID an operation's accesses carry to a peer (R436). -/
def State.peerAsid (s : State) (ctx : Option Nat) : Nat :=
  match ctx with
  | some n => (s.ctx n).asid.toNat
  | none => 0

/-- Whether the peer answers a request with poison (R436): its contexts, tables and driver decide, which this device does not see, so it
is a free value (log 15). -/
def State.peerRefuses (s : State) (dev : Nat) : State × Bool :=
  let r := s.draw
  (r.2, Config.peerRefuses dev r.1)

/-- A lane of an operation as a request to a peer: kind, and operands (R436). -/
def MemOp.peerKindOf (o : MemOp) (l : Nat) : Nat × Nat :=
  match o.kind with
  | .store => (2, o.arg l)
  | .atomic op ty => (4 + 16 * ty + op, o.arg l % 2 ^ 64 + 2 ^ 64 * o.arg2 l)
  | .aggregate ty => (4 + 16 * ty, (laneNums o.sel).foldl (fun a k => (a + o.arg k) % 2 ^ o.width) 0)
  | _ => (1, 0)

/-- What a request of an operation's lane gets back: an aggregated one serves every lane with its prefix sum (R271). -/
def State.peerServes (s : State) (o : MemOp) (l v : Nat) : State :=
  match o.kind with
  | .store => s.serveVals o.id ((1#32) <<< l) []
  | .aggregate _ =>
    s.serveVals o.id o.sel ((laneNums o.sel).foldl (fun (acc : Nat × List (Nat × Nat)) k =>
      ((acc.1 + o.arg k) % 2 ^ o.width, acc.2 ++ [(k, acc.1)])) (v, [])).2
  | _ => s.serveVals o.id ((1#32) <<< l) [(l, v)]

/-- A lane on peer memory that this device itself holds (R360): the request comes back to it, over a link of the issuing quarter. Where it waits at its
home, the lane is not served yet. -/
def State.selfLane (s : State) (q : Nat) (o : MemOp) (l va : Nat) : State :=
  let k := o.peerKindOf l
  match s.homeAsk q k.1 (s.peerAsid o.ctx) va o.bytes k.2 (.lane o.id q l va) with
  | (s1, .value v) => s1.peerServes o l v
  | (s1, .poison) => s1.serveLost o ((1#32) <<< l) 0x44 (BitVec.ofNat 56 va)
  | (s1, _) => s1

/-- Lanes on this device's own memory as peer memory that wait for it to be ready (21 R512) are asked for again. -/
def State.retrySelf (s : State) : State :=
  s.ops.foldl (fun s o =>
    match (s.team? o.team).bind Team.core? with
    | some core =>
      (laneNums (o.sel &&& ~~~o.served)).foldl (fun s l => match (o.locs[l]? : Option Loc) with
        | some (.peer dev va) =>
          if dev = s.devNum && !s.waitsFault (.lane o.id (quarterOf core) l va) then s.selfLane (quarterOf core) o l va else s
        | _ => s) s
    | none => s) s

/-- One lane of an operation on peer memory, performed at the peer (R272, R355, R436, R494). A spiral query or command reaches no
peer. -/
def State.peerLane (s : State) (q : Nat) (o : MemOp) (l dev va : Nat) : State :=
  let one : Lanes := (1#32) <<< l
  match o.kind with
  | .pin => s.serveVals o.id one [(l, if s.dev.readySpiral.getLsbD q then 0xFFFFFFFC else 0xFFFFFFFE)]
  | .dist => s.serveVals o.id one [(l, 0xFFFFFFFF)]
  | .unpin | .setByp | .clrByp | .touch => s.serveVals o.id one []
  | _ =>
    match s.linkFor q va with
    | none => (s.countDrop q).serveLost o one 0x44 (BitVec.ofNat 56 va)
    | some _ =>
      if dev = s.devNum then s.selfLane q o l va
      else
        let asid := s.peerAsid o.ctx
        let refused := s.peerRefuses dev
        let s0 := refused.1
        let k := o.peerKindOf l
        if refused.2 then s0.serveLost o one 0x44 (BitVec.ofNat 56 va)
        else if 4 ≤ k.1 && s.home.farFaults.contains (.peer dev asid (va / 64)) then s0.failFar o one l
        else if k.1 = 2 then (s0.peerWrite dev asid va o.bytes k.2).peerServes o l 0
        else
          let r := s0.peerRead dev asid va o.bytes
          (if 4 ≤ k.1 then r.1.peerWrite dev asid va o.bytes (atomNew ((k.1 - 4) % 16) ((k.1 - 4) / 16) r.2 (k.2 % 2 ^ 64) (k.2 / 2 ^ 64))
            else r.1).peerServes o l r.2

/-- The release and the acquire of a word on peer memory (R318, R319, R355): its variable's home lies outside the device, so the records are
made at, and the drains asked of, every home quarter of the polder (log 35). -/
def State.peerOrder (s : State) (q : Nat) (o : MemOp) : State :=
  let homes := s.polderQuarters q
  let s1 := if orderReleases o.order && 4 ≤ o.scope then s.release q o.scope homes else s
  if orderAcquires o.order && 4 ≤ o.scope then s1.acquire q o.scope homes else s1

/-! ## A word's checks (08 R257) -/

/-- A memory word as its meaning describes it: the kind of its operation and of its access, its width in bits and
alignment in bytes, the lanes it selects and those whose addresses it forms, its base register, each lane's offset
and operands, its destination line, order, scope and bypass, and whether it raises ld. -/
structure MemWord where
  kind : OpKind
  acc : Kind
  width : Nat
  align : Nat
  sel : Lanes
  checked : Lanes
  base : Nat
  off : Nat → Int
  data : Nat → Nat
  data2 : Nat → Nat
  dst : Nat
  order : Nat
  scope : Nat
  bypass : Bool
  byLd : Bool

/-- The base register of a word. -/
def Cx.bn (c : Cx) (n : Nat) : BaseReg := c.grp.bases.getD n
  { valid := false, space := .virtual, vbase := 0, frame := 0, limit := 0, perm := ⟨false, false, false, false⟩, leaf := (0, 0), more := [] }

/-- The leaf of the page at an offset of a base register's span (R258, R259). -/
def BaseReg.leafAt (b : BaseReg) (off : Nat) : DWord × DWord :=
  ((b.more.filter (fun x => decide (x.1 ≤ off))).getLast?.map Prod.snd).getD b.leaf

/-- The address of a lane before any check (R260). -/
def MemWord.addr (m : MemWord) (c : Cx) (l : Nat) : Int := ((c.bn m.base).vbase.toNat : Int) + m.off l

/-- An address as the operand of a fault. -/
def addrOper (a : Int) : BitVec 56 := wrapI 56 a

/-- The checks of R257 before translation, in order: base, alignment, range. -/
def MemWord.fault (m : MemWord) (c : Cx) : Option (Nat × BitVec 56) :=
  if m.checked = 0 then none
  else
    let b := c.bn m.base
    let first (bad : Int → Bool) : Option Int := ((laneNums m.checked).map (m.addr c)).find? bad
    if !b.valid || b.space != .virtual then some (0x19, BitVec.ofNat 56 m.base)
    else
      match first (fun a => a % m.align != 0) with
      | some a => some (0x18, addrOper a)
      | none =>
        match first (fun a => decide (a < 0 ∨ (2 : Int) ^ 56 < a + (m.width / 8 : Nat))) with
        | some a => some (0x18, addrOper a)
        | none => none

/-- One lane translated: directly within the base register's span, else through the TLBs (R260). A service kernel's lane has the tier of its
physical address as it is now (20 R497). -/
def State.laneXlate (s : State) (c : Cx) (b : BaseReg) (k : Kind) (off : Int) (va n : Nat) : State × Xlat :=
  let app := c.level == 0
  let leaf := b.leafAt off.toNat
  if c.team.shape.ctx.isSome && 0 ≤ off && decide (off + (n : Int) ≤ b.limit) && b.perm.allows k app && (dupFault leaf.1 k).isNone then
    (s, .at (if leafTier leaf.1 = 3 then .peer (leaf.2.extractLsb' 0 8).toNat va
      else .phys (b.frame.toNat + off.toNat) leaf))
  else s.xlate c.core c.team.shape.ctx app k va

/-- What translating a word's lanes comes to. -/
inductive Placed where
  | ok (locs : List (Nat × Loc))
  | deny (va : Nat)
  /-- Lanes not translated, with address and kind; and those translated, with address and place. -/
  | park (lanes : List (Nat × Nat × Nat)) (kept : List (Nat × Nat × Loc))
  /-- A walk waits for its tables' memory (R512). -/
  | hold
  deriving DecidableEq, Repr

/-- The outcome of a word's translations: a malformed entry, then a missing page, then a permission, then a fault of read
duplication, each over every lane before the next (R257, R430, R431, log 18). `rs` lists lane, address and answer. -/
def placedOf (rs : List (Nat × Nat × Xlat)) : Placed :=
  let waits (dup : Bool) : List (Nat × Nat × Nat) := rs.filterMap (fun r => match r.2.2 with
    | .wait k => if dup || k < 4 then some (r.1, r.2.1, k) else none
    | _ => none)
  let kept := rs.filterMap (fun r => match r.2.2 with
    | .at loc => some (r.1, r.2.1, loc)
    | _ => none)
  match rs.find? (fun r => r.2.2 == .malformed) with
  | some r => .deny r.2.1
  | none =>
    if rs.any (fun r => r.2.2 == .hold) then .hold
    else if waits false ≠ [] then .park (waits true) kept
    else
      match rs.find? (fun r => r.2.2 == .deny) with
      | some r => .deny r.2.1
      | none =>
        if waits true ≠ [] then .park (waits true) kept
        else .ok (kept.map (fun x => (x.1, x.2.2)))

/-- The place of a lane that the word kept as it parked (13 R377). -/
def Cx.keptLoc (c : Cx) (l va : Nat) : Option Loc :=
  match c.grp.ctl.kept.find? (fun k => k.pc == c.bundle && k.slices == c.slices && c.stuffed.isNone) with
  | some k => (k.lanes.find? (fun x => x.1 == l && x.2.1 == va)).map (fun x => x.2.2)
  | none => none

/-- The lanes of a word translated in ascending order, but those whose translation a replayed word has kept (13 R377). -/
def State.placeLanes (s : State) (c : Cx) (m : MemWord) : State × Placed :=
  let r := (laneNums m.checked).foldl (fun (acc : State × List (Nat × Nat × Xlat)) l =>
    let va := (m.addr c l).toNat
    let x := match c.keptLoc l va with
      | some loc => (acc.1, Xlat.at loc)
      | none => acc.1.laneXlate c (c.bn m.base) m.acc (m.off l) va (m.width / 8)
    (x.1, acc.2 ++ [(l, va, x.2)])) (s, [])
  (r.1, placedOf r.2)

/-! ## Holds at issue (02 R53, 08 R265, R278) -/

/-- An acquire of the group whose lanes are not all read holds its later accesses (R265). -/
def State.acquiring (s : State) (r : GRef) : Bool :=
  (s.groupOps r).any (fun o => orderAcquires o.order && (o.sel &&& ~~~o.served) != 0)

/-- A read that a group issued before its last BWAIT or WAITB returned is still to be performed: its later accesses wait for it (R341). -/
def State.readsBehind (s : State) (r : GRef) (n : Nat) : Bool :=
  (s.groupOps r).any (fun o => decide (o.id < n) && o.kind != .store && (o.sel &&& ~~~o.served) != 0) ||
  (s.mxAccesses r).any (fun a => decide (a.entry.id < n) && (match a.entry.instr with
    | .accst .. => false
    | _ => true))

/-- An access that a group issued before its last completed REGANG or RCV is still to be performed: its later accesses wait for it (05 R200). -/
def State.joinBehind (s : State) (r : GRef) (n : Nat) : Bool :=
  (s.groupOps r).any (fun o => decide (o.id < n) && (o.sel &&& ~~~o.served) != 0) ||
  (s.mxAccesses r).any (fun a => decide (a.entry.id < n))

/-- An access that the origin of a handler lane issued before its trap is still to be performed: the collection releases it and the
handler group's first issue acquires it (13 R385). -/
def State.originsBehind (s : State) (c : Cx) : Bool :=
  c.grp.origins.any (fun e =>
    let r : GRef := ⟨c.ref.team, e.group⟩
    (s.groupOps r).any (fun o => decide (o.id < e.issuedTo) && (o.sel &&& ~~~o.served) != 0) ||
    (s.mxAccesses r).any (fun a => decide (a.entry.id < e.issuedTo)))

/-- What holds any access of a group: a fence, an acquire, a full counter (R53, R265, R278), a read before a barrier wait (R341), for a
handler group what its origins had issued (R385), behind a join what its slices had (R200), and for a release any earlier access (R265). -/
def accessHeld (s : State) (c : Cx) (byLd bySt : Bool) (order : Nat) : Bool :=
  c.grp.ctl.fence.isSome || s.acquiring c.ref || s.readsBehind c.ref c.grp.ctl.readsTo || s.joinBehind c.ref c.grp.ctl.joinTo || s.originsBehind c || (byLd && 63 ≤ s.ldCount c.ref) || (bySt && 63 ≤ s.stCount c.ref) ||
  (orderReleases order && !s.quiet c.ref)

/-- Bytes by the addresses that name them: virtual ranges, and the physical ranges they lie at where they are mapped. Two ranges of either
kind that meet share a byte (R336). -/
structure Span where
  vas : List (Nat × Nat)
  pas : List (Nat × Nat)

/-- Two lists of ranges share an address. -/
def rangesMeet (a b : List (Nat × Nat)) : Bool := a.any (fun x => b.any (fun y => decide (x.1 < y.1 + y.2 ∧ y.1 < x.1 + x.2)))

/-- Two spans share a byte. -/
def Span.meets (a b : Span) : Bool := rangesMeet a.vas b.vas || rangesMeet a.pas b.pas

/-- Bytes that may lie anywhere. -/
def Span.whole : Span := { vas := [(0, 2 ^ 57)], pas := [(0, 2 ^ 53)] }

/-- The span of virtual ranges under a context, as translation finds it without changing the state; that of a range past 4 GiB is everything. -/
def State.spanOf (s : State) (core : Nat) (ctx : Option Nat) (app : Bool) (ranges : List (Nat × Nat)) : Span :=
  let at_ (x : Nat × Nat) (k : Kind) : Option (Nat × Nat) :=
    if 2 ^ 56 ≤ x.1 then none
    else
      match (s.xlate core ctx app k x.1).2 with
      | .at (.phys pa _) => some (pa, x.2)
      | _ => none
  if ranges.any (fun x => decide (2 ^ 32 < x.2)) then Span.whole
  else { vas := ranges, pas := (ranges.flatMap (fun x => pieces x.1 x.2)).filterMap (fun x => (at_ x 1).or (at_ x 2)) }

/-- The span of virtual ranges as the issuing group names them. -/
def Cx.span (c : Cx) (s : State) (ranges : List (Nat × Nat)) : Span := s.spanOf c.core c.team.shape.ctx (c.level == 0) ranges

/-- The ranges a word in the matrix unit has still to access: a block's bytes, or the scales it takes through the cache, which may lie
anywhere while a word or a copy job ahead of it may still change the unit's tag or the record's base. -/
def MxAccess.ranges (a : MxAccess) (t : Team) : List (Nat × Nat) :=
  match a.entry.region?, a.scales with
  | some g, _ => [g]
  | none, some n =>
    let r := t.obRec n
    let k := match a.entry.instr with
      | .mmq _ _ _ _ _ k _ | .mms _ _ _ _ _ k _ => k.toNat
      | _ => 0
    let u := r.units.getD (((hintOf a.entry.hints 0).getD 0).toNat * 32 + k) { tag := none, scales := none }
    (match a.settled && t.jobs.all (fun j => j.form != 3 || j.state == .done), u.tag with
    | true, some tag => ((scaleAddrs r tag.toNat).filter (fun x => (lookupNat r.scCache x).isNone)).map (fun x => (x, 1))
    | true, none => []
    | false, _ => [(0, 2 ^ 56)])
  | none, none => []

/-- A word in the matrix unit that has still to access a byte of a span (R215, R231, R336). -/
def State.behindMx (s : State) (r : GRef) (span : Span) : Bool :=
  match s.team? r.team with
  | none => false
  | some t => (s.mxAccesses r).any (fun a =>
      span.meets (s.spanOf ((t.core?).getD 0) t.shape.ctx (t.priv == 0) (a.ranges t)))

/-- The bytes a word of the engines has still to access (17 R460, R467): address, length, whether it writes them. An SNPUT's
segment and payload may lie anywhere, and so may the slot of an append, whose writes are stores of the group. -/
def MemOp.engineRegion? (o : MemOp) : Option (Nat × Nat × Bool) :=
  if (o.sel &&& ~~~o.served) = 0 then none
  else
    match o.instr with
    | .snput .. => some (0, 2 ^ 56, false)
    | .snfind .. => some (o.sa.toNat, 4 * (o.sb.extractLsb' 16 48).toNat, false)
    | .snget .. => some (o.sb.toNat, 2 ^ 20, true)
    | .kvapp .. => some (0, 2 ^ 56, true)
    | _ => none

/-- Whether bytes a word accesses meet those of an engine's word of its group not yet performed, one of the two writing (R336). -/
def State.behindEngine (s : State) (c : Cx) (span : Span) (writes : Bool) : Bool :=
  ((s.groupOps c.ref).filterMap MemOp.engineRegion?).any (fun g =>
    (g.2.2 || writes) && span.meets (c.span s [(g.1, g.2.1)]))

/-- Whether a memory word is held at issue. -/
def MemWord.held (m : MemWord) (s : State) (c : Cx) : Bool :=
  let span := c.span s ((laneNums m.checked).map (fun l => ((m.addr c l).toNat, m.width / 8)))
  accessHeld s c m.byLd (m.kind == .store) m.order || s.behindMx c.ref span || s.behindEngine c span m.kind.stores

/-! ## Issue -/

/-- An operation of a word with the places of its lanes. -/
def MemWord.op (m : MemWord) (c : Cx) (i : Instr) (id : Nat) (locs : List (Nat × Loc)) : MemOp :=
  { id := id, team := c.ref.team, group := c.ref.g, kind := m.kind, width := m.width, sel := m.sel, slices := c.slices,
    locs := laneList.map (fun l => (lookupNat locs l).getD (.scratch 0 0)),
    vas := laneList.map (fun l => (m.addr c l).toNat),
    data := laneList.map (fun l => BitVec.ofNat 256 (m.data l)),
    data2 := laneList.map (fun l => BitVec.ofNat 64 (m.data2 l)),
    dst := m.dst, vals := List.replicate 32 0, served := 0, written := 0, parts := [], scope := m.scope, order := m.order,
    bypass := m.bypass, byLd := m.byLd, ctx := c.team.shape.ctx, instr := i, pc := c.bundle, sa := 0, sb := 0, stuffed := c.stuffed, page := none }

/-- The requests of an operation: its distinct tiles in ascending order of the lowest lane that names each (R266). -/
def MemOp.requests (o : MemOp) (core : Nat) (lanes : Lanes) : List Req :=
  (laneNums lanes).foldl (fun (acc : List Req) l =>
    match o.phys? l with
    | none => acc
    | some (pa, _) =>
      let bit : Lanes := (1#32) <<< l
      if acc.any (fun r => r.tile == pa / 4096) then
        acc.map (fun r => if r.tile == pa / 4096 then { r with lanes := r.lanes ||| bit } else r)
      else acc ++ [{ core := core, op := o.id, tile := pa / 4096, lanes := bit, bypass := o.bypass }]) []

/-- An operation enters: its requests wait at the front, its lanes on peer memory are performed, in any order where their bytes overlap (R332, log
8). -/
def State.enter (s : State) (core : Nat) (o : MemOp) (lanes : Lanes) : State :=
  let s1 := ({ s with ops := s.ops ++ [o] }).modCore core (fun k => { k with reqs := k.reqs ++ o.requests core lanes })
  let far := (laneNums lanes).filterMap (fun l => match (o.locs[l]? : Option Loc) with
    | some (.peer dev va) => some (l, dev, va)
    | _ => none)
  if far = [] then s1
  else
    let meets (x y : Nat × Nat × Nat) : Bool := x.1 != y.1 && x.2.1 == y.2.1 && decide (x.2.2 < y.2.2 + o.bytes ∧ y.2.2 < x.2.2 + o.bytes)
    let s2 := s1.peerOrder (quarterOf core) o
    let r := if o.kind.stores && far.any (fun x => far.any (fun y => meets x y)) then
        let d := s2.draw
        (d.2, permute far.length (Config.laneOrder d.1) (List.range far.length))
      else (s2, List.range far.length)
    r.2.foldl (fun s i => match far[i]? with
      | some x => s.peerLane (quarterOf core) o x.1 x.2.1 x.2.2
      | none => s) r.1

/-- The issue of a memory word (R257, R264): held, or a fault, or parked, or its operation entered. -/
def issueMem (c : Cx) (i : Instr) (s : State) (m : MemWord) : State :=
  if m.held s c then s
  else
    match m.fault c with
    | some (code, oper) => raiseOp c s code oper
    | none =>
      match s.placeLanes c m with
      | (s1, .deny va) => raiseOp c s1 0x18 (BitVec.ofNat 56 va)
      | (s1, .park lanes kept) =>
        match c.stuffed with
        | some x => s1.endExec x 4 0
        | none => parkWord c s1 lanes kept
      | (_, .hold) => s
      | (s1, .ok locs) =>
        if m.sel = 0 then retire c i s1
        else if m.kind.reachesMemory && locs.any (fun x => match x.2 with
            | .peer _ va => s.peerHeld c.quarter va
            | _ => false) then s
        else
          let r := s1.fresh
          retire c i (r.2.enter c.core (m.op c i r.1 locs) m.checked).sweep

/-- One register of one lane of a result written (R52): each lane word of a result may land by itself. The lane is complete with its
last. -/
def State.returnPart (s : State) (o : MemOp) (j l : Nat) : State :=
  let parts := (j, l) :: o.parts
  let whole := (List.range o.regs).all (fun n => parts.contains (n, l))
  ((s.modGroup o.ref (fun g => g.setLine (o.dst + j) ((1#32) <<< l) (fun l => o.word j l))).modOp o.id (fun o =>
    { o with parts := parts, written := if whole then o.written ||| ((1#32) <<< l) else o.written })).sweep

/-- Results written, the counter falling as R251 and R254 give: those of slice k that have not been, or for k = 8 + 32·j + l register j of
lane l alone. -/
def State.returnSlice (s : State) (id k : Nat) : State :=
  match s.op? id with
  | none => s
  | some o =>
    if o.kind.isUniform then
      (if (o.sel &&& ~~~o.served) != 0 ∨ o.written = o.sel then s
      else
        let v := (o.vals.getD 0 0).toNat
        ((s.modGroup o.ref (fun g => g.setS o.dst (BitVec.ofNat 64 v))).modOp id (fun o => { o with written := o.sel })).sweep)
    else if !o.kind.hasResult then s
    else if 8 ≤ k then
      let j := (k - 8) / 32
      let l := (k - 8) % 32
      if j < o.regs ∧ (o.sel &&& o.served).getLsbD l = true ∧ o.written.getLsbD l = false ∧ !o.parts.contains (j, l) then s.returnPart o j l
      else s
    else
      let lanes : Lanes := o.sel &&& (0xF#32 <<< (4 * k))
      if lanes = 0 ∨ (lanes &&& ~~~o.served) != 0 ∨ lanes &&& ~~~o.written = 0 then s
      else
        let s1 := s.modGroup o.ref (fun g => (List.range o.regs).foldl (fun g j =>
          g.setLine (o.dst + j) (lanes &&& ~~~o.landed j) (fun l => o.word j l)) g)
        (s1.modOp id (fun o => { o with written := o.written ||| lanes })).sweep

/-! ## Direct accesses of the device's units -/

/-- How a unit's access meets the spiral (R302). -/
inductive Via where
  | touching
  | bypassing
  deriving DecidableEq, Repr

/-- What a unit's access over a range of addresses comes to. -/
inductive Direct where
  /-- The bytes, as one number (0 for a write). -/
  | ok (v : Nat)
  /-- A page of it is not present: kind and first address (R434). -/
  | wait (kind va : Nat)
  /-- A permission fails or an entry is malformed. -/
  | deny (va : Nat)
  /-- A poisoned or dropped byte: the code it records, its operand and what the range reads (R358, R480, R492). -/
  | bad (code oper v : Nat)
  /-- It is admitted again in the next cycle (R304, R512). -/
  | hold
  deriving DecidableEq, Repr

/-- Every piece of a range translated; the first failure in order. -/
def State.xlateRange (s : State) (core : Nat) (ctx : Option Nat) (app : Bool) (k : Kind) :
    List (Nat × Nat) → State × Option Direct × List (Loc × Nat × Nat)
  | [] => (s, none, [])
  | (va, n) :: rest =>
    if 2 ^ 56 ≤ va then (s, some (.deny va), [])
    else
      match s.xlate core ctx app k va with
      | (s1, .at loc) =>
        let r := State.xlateRange s1 core ctx app k rest
        (r.1, r.2.1, (loc, va, n) :: r.2.2)
      | (s1, .wait f) => (s1, some (.wait f va), [])
      | (s1, .hold) => (s1, some .hold, [])
      | (s1, _) => (s1, some (.deny va), [])

/-- A slot of the cycle taken for a request of a unit (R311), which counts it (R327). -/
def State.takeSlot (s : State) (q : Nat) (touched : Option Nat) : State :=
  s.modQuarter q (fun k => { k with cycleSlots := k.cycleSlots ++ [touched], slots := satAdd k.slots 1 })

/-- Whether a unit's access waits for a slot of the front (R311): all eight of the cycle are filled. -/
def State.slotsFull (s : State) (q : Nat) : Bool := 8 ≤ (s.quarter q).cycleSlots.length

/-- Whether a unit's access to a tile waits for a refresh of its channel: it is not served from a copy that has its fill (21 R502). -/
def State.unitRefresh (s : State) (q tile tier : Nat) : Bool :=
  s.refreshing q (4096 * tile) tier && (match (s.quarter q).copy? tile, s.inCopy q tile tier with
    | some c, true => c.filling
    | _, _ => true)

/-- A tile made ready for a direct access of a context: touched, or bypassed (R304, R309, R311). A copy that awaits its fill gets it
now. False where the access is held; what make_room has made leave has left. -/
def State.directTouchAs (s : State) (q tile : Nat) (ctx key : Option Nat) (leaf : DWord × DWord) (via : Via) : State × Bool :=
  let x := ctx.getD 64
  let tier := leafTier leaf.1
  if !s.homeReady q (4096 * tile) tier || s.biasHolds (4096 * tile) none || s.unitRefresh q tile tier then (s, false)
  else if s.bypasses q tile x (via == .bypassing) tier then
    (if !s.inCopy q tile tier then (s, true) else if s.slotsFull q then (s, false) else ((s.takeSlot q none).fillLands q tile, true))
  else if ((s.quarter q).slotOf tile).isSome then
    (if s.slotsFull q then (s, false) else ((s.takeSlot q none).fillLands q tile, true))
  else if (s.quarter q).cycleSlots.contains (some tile) && ((s.quarter q).copy? tile).isSome then
    ((s.modQuarter q (fun k => { k with merged := satAdd k.merged 1 })).fillLands q tile, true)
  else if s.slotsFull q then (s, false)
  else
    match s.touchTile q tile x key leaf with
    | (s1, .hold) => (s1, false)
    | (s1, _) => ((s1.takeSlot q (some tile)).fillLands q tile, true)

/-- The same under the context's own key slot. -/
def State.directTouch (s : State) (q tile : Nat) (ctx : Option Nat) (leaf : DWord × DWord) (via : Via) : State × Bool :=
  s.directTouchAs q tile ctx (s.keyFor q ctx leaf) leaf via

/-- A unit's request that the front does not admit in this cycle counts as waiting (R327). -/
def State.noteUnitHeld (s : State) (q : Nat) : State := s.modQuarter q (fun k => { k with unitHeld := true })

/-- Bytes of a tile read unit by unit, all ones where a unit is poisoned (R358). -/
def State.readUnits (s : State) (q : Nat) (inCopy : Bool) (key : Option Nat) (pa n : Nat) : Nat :=
  (unitsOf (byteMask (pa % 4096) n)).foldl (fun v u =>
    let lo := max pa (pa / 4096 * 4096 + 64 * u)
    let k := min (pa + n) (pa / 4096 * 4096 + 64 * u + 64) - lo
    v + 2 ^ (8 * (lo - pa)) * ((s.readAt q inCopy key lo k).getD (2 ^ (8 * k) - 1))) 0

/-- A piece of a unit's access admitted: its tile is ready (R304, R311), or its link is free (R495). -/
def State.admitPiece (s : State) (q : Nat) (ctx : Option Nat) (via : Via) (loc : Loc) (va : Nat) : State × Bool :=
  match loc with
  | .peer _ _ =>
    (match s.linkFor q va with
    | none => (s, true)
    | some k => (s, !(s.link k).held))
  | .scratch .. => (s, false)
  | .phys pa leaf =>
    match s.reach q pa (leafTier leaf.1) with
    | .home _ =>
      (match s.directTouch q (pa / 4096) ctx leaf via with
      | (s1, false) => (s1.noteUnitHeld q, false)
      | r => r)
    | _ => (s, true)

/-- The pieces of a unit's access admitted in order, up to the first that is held, and their number. What make_room has made leave has left
(R304). -/
def State.admitSome (s : State) (q : Nat) (ctx : Option Nat) (via : Via) : List (Loc × Nat × Nat) → State × Nat
  | [] => (s, 0)
  | (loc, va, _) :: rest =>
    match s.admitPiece q ctx via loc va with
    | (s1, true) => let r := State.admitSome s1 q ctx via rest; (r.1, r.2 + 1)
    | (s1, false) => (s1, 0)

/-- Whether all of them are. -/
def State.admitPieces (s : State) (q : Nat) (ctx : Option Nat) (via : Via) (ps : List (Loc × Nat × Nat)) : State × Bool :=
  let r := s.admitSome q ctx via ps
  (r.1, r.2 == ps.length)

/-- Whether a piece of a unit's access needs a slot of the cycle (R311). -/
def State.needsSlot (s : State) (q : Nat) (ctx : Option Nat) (via : Via) : Loc × Nat × Nat → Bool
  | (.phys pa leaf, _) =>
    let tile := pa / 4096
    let tier := leafTier leaf.1
    if s.bypasses q tile (ctx.getD 64) (via == .bypassing) tier then s.inCopy q tile tier
    else ((s.quarter q).slotOf tile).isSome || !((s.quarter q).cycleSlots.contains (some tile) && ((s.quarter q).copy? tile).isSome)
  | _ => false

/-- One admitted piece read by a unit of quarter q. -/
def State.readAdmitted (s : State) (q : Nat) (ctx : Option Nat) (loc : Loc) (va n : Nat) : State × Direct :=
  match loc with
  | .peer dev _ =>
    if (s.linkFor q va).isNone then (s.countDrop q, .bad 0x44 va (2 ^ (8 * n) - 1))
    else
      if dev = s.devNum then
        match s.homeAsk q 1 (s.peerAsid ctx) va n 0 (.peer (4 * q) 1 (s.peerAsid ctx) va n 0) with
        | (s1, .value v) => (s1, .ok v)
        | (s1, .poison) => (s1, .bad 0x44 va (2 ^ (8 * n) - 1))
        | (s1, _) => (s1, .hold)
      else
        let refused := s.peerRefuses dev
        if refused.2 then (refused.1, .bad 0x44 va (2 ^ (8 * n) - 1))
        else
          let r := refused.1.peerRead dev (s.peerAsid ctx) va n
          (r.1, .ok r.2)
  | .scratch .. => (s, .hold)
  | .phys pa leaf =>
    match s.reach q pa (leafTier leaf.1) with
    | .drop => (s.countDrop q, .bad 0x44 va (2 ^ (8 * n) - 1))
    | .region r => (s, .bad 0x45 r (2 ^ (8 * n) - 1))
    | .home _ =>
      let inCopy := s.inCopy q (pa / 4096) (leafTier leaf.1)
      let mask := byteMask (pa % 4096) n
      let s1 := s.readyBytes q inCopy (pa / 4096) mask leaf
      let units := (unitsOf mask).map (fun u => max pa (pa / 4096 * 4096 + 64 * u))
      match units.find? (fun a => (s1.readAt q inCopy (s.keyFor q ctx leaf) a 1).isNone) with
      | some a => (s1, .bad 0x44 (va + (a - pa)) (s1.readUnits q inCopy (s.keyFor q ctx leaf) pa n))
      | none => (s1, .ok ((s1.readAt q inCopy (s.keyFor q ctx leaf) pa n).getD 0))

/-- One piece admitted and read by a unit of quarter q. -/
def State.readPiece (s : State) (q : Nat) (ctx : Option Nat) (via : Via) (loc : Loc) (va n : Nat) : State × Direct :=
  match s.admitPiece q ctx via loc va with
  | (s1, false) => (s1, .hold)
  | (s1, true) => s1.readAdmitted q ctx loc va n

/-- One admitted piece written by a unit of quarter q. -/
def State.writeAdmitted (s : State) (q : Nat) (ctx : Option Nat) (loc : Loc) (va n v : Nat) : State × Direct :=
  match loc with
  | .peer dev _ =>
    if (s.linkFor q va).isNone then (s.countDrop q, .bad 0x44 va 0)
    else
      if dev = s.devNum then
        match s.homeAsk q 2 (s.peerAsid ctx) va n v (.peer (4 * q) 2 (s.peerAsid ctx) va n v) with
        | (s1, .value _) => (s1, .ok 0)
        | (s1, .poison) => (s1, .bad 0x44 va 0)
        | (s1, _) => (s1, .hold)
      else
        let refused := s.peerRefuses dev
        if refused.2 then (refused.1, .bad 0x44 va 0)
        else (refused.1.peerWrite dev (s.peerAsid ctx) va n v, .ok 0)
  | .scratch .. => (s, .hold)
  | .phys pa leaf =>
    match s.reach q pa (leafTier leaf.1) with
    | .drop => (s.countDrop q, .bad 0x44 va 0)
    | .region r => (s, .bad 0x45 r 0)
    | .home _ =>
      let inCopy := s.inCopy q (pa / 4096) (leafTier leaf.1)
      let s1 := if inCopy then s else s.flushWb (pa / 4096)
      ((s1.writeAt q inCopy (s.keyFor q ctx leaf) pa n v).wroteBytes q inCopy (pa / 4096) (byteMask (pa % 4096) n), .ok 0)

/-- What a piece and the pieces behind it come to: the first poisoned or dropped one is the one recorded. -/
def Direct.join (n : Nat) (v : Nat) : Direct → Direct
  | .ok w => .ok (v + 2 ^ (8 * n) * w)
  | .bad code oper w => .bad code oper (v + 2 ^ (8 * n) * w)
  | d => d

/-- The value behind a poisoned or dropped piece. -/
def Direct.joinBad (n : Nat) (code oper v : Nat) : Direct → Direct
  | .ok w | .bad _ _ w => .bad code oper (v + 2 ^ (8 * n) * w)
  | d => d

/-- Admitted pieces read in order. -/
def State.readPieces (s : State) (q : Nat) (ctx : Option Nat) : List (Loc × Nat × Nat) → State × Direct
  | [] => (s, .ok 0)
  | (loc, va, n) :: rest =>
    match s.readAdmitted q ctx loc va n with
    | (s1, .ok v) => let r := State.readPieces s1 q ctx rest; (r.1, r.2.join n v)
    | (s1, .bad code oper v) => let r := State.readPieces s1 q ctx rest; (r.1, r.2.joinBad n code oper v)
    | r => r

/-- Admitted pieces written in order; a dropped one does not keep the others from being written (R480). -/
def State.writePieces (s : State) (q : Nat) (ctx : Option Nat) : List (Loc × Nat × Nat) → Nat → State × Direct
  | [], _ => (s, .ok 0)
  | (loc, va, n) :: rest, v =>
    match s.writeAdmitted q ctx loc va n (v % 2 ^ (8 * n)) with
    | (s1, .ok _) => State.writePieces s1 q ctx rest (v / 2 ^ (8 * n))
    | (s1, .bad code oper _) =>
      let r := State.writePieces s1 q ctx rest (v / 2 ^ (8 * n))
      (r.1, r.2.joinBad 0 code oper 0)
    | r => r

/-- Whether a unit's access that touches waits behind the requests its core has presented (R311; DESIGN CHOICE, log 82). -/
def State.unitBehind (s : State) (core : Nat) (via : Via) : Bool := via == .touching && !(s.core core).reqs.isEmpty

/-- The pieces of an access of a unit of a core admitted, all in one cycle: it waits behind its core's requests, and while the cycle has too
few slots left (R311). -/
def State.admitUnit (s : State) (core : Nat) (ctx : Option Nat) (via : Via) (ps : List (Loc × Nat × Nat)) : State × Bool :=
  let q := quarterOf core
  if !ps.isEmpty && (s.unitBehind core via || decide (8 < (s.quarter q).cycleSlots.length + (ps.filter (s.needsSlot q ctx via)).length)) then
    (s.noteUnitHeld q, false)
  else s.admitPieces q ctx via ps

/-- Among pieces that a unit of a core is to load, one that waits for a refresh is noted for the cycle's count (21 R502). -/
def State.noteRefresh (s : State) (core : Nat) (ps : List (Loc × Nat × Nat)) : State :=
  if ps.any (fun x => match x.1 with
    | .phys pa leaf => s.unitRefresh (quarterOf core) (pa / 4096) (leafTier leaf.1)
    | _ => false) then s.modCore core (fun c => { c with regs := { c.regs with refHeld := true } })
  else s

/-- A touching access of a unit of a core translated and admitted, and no more: what it does where it is then held. -/
def State.vTouch (s : State) (core : Nat) (ctx : Option Nat) (app : Bool) (k : Kind) (va n : Nat) : State :=
  match s.xlateRange core ctx app k (pieces va n) with
  | (s1, some _, _) => s1
  | (s1, none, ps) => (s1.admitUnit core ctx .touching ps).1

/-- n bytes at a virtual address read by a unit of a core under a context (R284, R287, R231). -/
def State.vRead (s : State) (core : Nat) (ctx : Option Nat) (app : Bool) (via : Via) (va n : Nat) : State × Direct :=
  match s.xlateRange core ctx app 1 (pieces va n) with
  | (s1, some d, _) => (s1, d)
  | (s1, none, ps) =>
    match s1.admitUnit core ctx via ps with
    | (s2, false) => (s2.noteRefresh core ps, .hold)
    | (s2, true) => s2.readPieces (quarterOf core) ctx ps

/-- What a long read of a unit comes to, of which each cycle's front admits a part (R311). -/
inductive ReadOn where
  /-- Its bytes as one number, and the code and operand of the first that was poisoned or dropped. -/
  | all (v : Nat) (met : Option (Nat × Nat))
  /-- The pieces read so far, their bytes, and what they met. -/
  | part (got : Nat × Nat × Option (Nat × Nat))
  | wait (kind va : Nat)
  | deny (va : Nat)

/-- A touching read of n bytes by a unit of a core goes on behind the pieces it has read. Every page is translated first, whatever has been
read. -/
def State.readOn (s : State) (core : Nat) (ctx : Option Nat) (app : Bool) (va n : Nat) (got : Nat × Nat × Option (Nat × Nat)) : State × ReadOn :=
  let q := quarterOf core
  match s.xlateRange core ctx app 1 (pieces va n) with
  | (s1, some (.wait k a), _) => (s1, .wait k a)
  | (s1, some (.deny a), _) => (s1, .deny a)
  | (s1, some _, _) => (s1, .part got)
  | (s1, none, ps) =>
    if s1.unitBehind core .touching then (s1.noteUnitHeld q, .part got)
    else
      let left := ps.drop got.1
      let a := (s1.noteRefresh core (left.take 1)).admitSome q ctx .touching left
      let off := ((ps.take got.1).map (fun x => x.2.2)).foldl (· + ·) 0
      match a.1.readPieces q ctx (left.take a.2) with
      | (s2, .ok v) =>
        let now := got.2.1 + 2 ^ (8 * off) * v
        (s2, if a.2 = left.length then .all now got.2.2 else .part (got.1 + a.2, now, got.2.2))
      | (s2, .bad code oper v) =>
        let now := got.2.1 + 2 ^ (8 * off) * v
        let met := got.2.2.or (some (code, oper))
        (s2, if a.2 = left.length then .all now met else .part (got.1 + a.2, now, met))
      | (s2, _) => (s2, .part got)

/-- n bytes at a virtual address written by a unit of a core under a context. -/
def State.vWrite (s : State) (core : Nat) (ctx : Option Nat) (app : Bool) (via : Via) (va n v : Nat) : State × Direct :=
  match s.xlateRange core ctx app 2 (pieces va n) with
  | (s1, some d, _) => (s1, d)
  | (s1, none, ps) =>
    match s1.admitUnit core ctx via ps with
    | (s2, false) => (s2, .hold)
    | (s2, true) => s2.writePieces (quarterOf core) ctx ps v

/-! ## Scratchpads (07 R241, 08 R267) -/

/-- One byte of a scratchpad. -/
def Team.scratchByte (t : Team) (a : Nat) : Byte := (t.scratch.getD (a / 4) 0).extractLsb' (8 * (a % 4)) 8

/-- n bytes of a scratchpad. -/
def Team.scratchNat (t : Team) (a : Nat) : Nat → Nat
  | 0 => 0
  | n + 1 => (t.scratchByte a).toNat + 256 * t.scratchNat (a + 1) n

/-- One byte of a scratchpad written. -/
def Team.setScratchByte (t : Team) (a : Nat) (b : Byte) : Team :=
  { t with scratch := modAt t.scratch (a / 4) (fun w =>
      (w &&& ~~~((0xFF#32) <<< (8 * (a % 4)))) ||| (b.setWidth 32 <<< (8 * (a % 4)))) }

/-- n bytes of a scratchpad written. -/
def Team.setScratchNat (t : Team) (a : Nat) : Nat → Nat → Team
  | 0, _ => t
  | n + 1, v => (t.setScratchByte a (BitVec.ofNat 8 v)).setScratchNat (a + 1) n (v / 256)

/-- The bytes of a team's scratchpad. -/
def Team.scratchSize (t : Team) : Nat := 4 * t.scratch.length

/-- The team of a rank in a team's cluster (R243, R245). A sibling that has ended still answers with its scratchpad while it is listed, until its
launch is complete; after that it has none (DESIGN CHOICE, log 74): the spec does not say what an ended sibling's scratchpad is. -/
def State.rankTeam (s : State) (t : Team) (rank : Nat) : Option Team :=
  if rank = t.rank then some t else s.teams.find? (fun u => sameCluster t u && u.rank == rank)

end Sys2Proof.Machine
end

