-- ==== Sys2Proof/Machine/LoadStore.lean ====
section
/-! DEFINITION. Majors LD, ST, LDS and STS, and LOAD_RETURN (07 R251, R254, 08 R263 to R268, 11 R358). -/
namespace Sys2Proof.Machine

/-- Width in bits of a w code (R86). -/
def widthOf (w : BitVec 3) : Nat := 8 * 2 ^ w.toNat

/-- The low `width` bits of the registers from d, lane l (R264). -/
def Group.storeData (g : Group) (d width l : Nat) : Nat :=
  if width ≤ 32 then (g.v d l).toNat % 2 ^ width else g.vN d l (width / 32)

/-- An offset of a lane from a base register (R260). -/
def Cx.laneOff (c : Cx) (o l : Nat) : Int := (c.grp.v o l).toInt + dispOf c.hs

/-- A load or store of the M format. -/
def lsWord (c : Cx) (kind : OpKind) (acc : Kind) (d : BitVec 6) (b : BitVec 3) (o : BitVec 6) (w : BitVec 3)
    (p : BitVec 3) (order scope : Nat) (byp : Bool) : MemWord :=
  let sel := c.sel p.toNat
  { kind := kind, acc := acc, width := widthOf w, align := widthOf w / 8, sel := sel, checked := sel, base := b.toNat,
    off := c.laneOff o.toNat,
    data := fun l => if kind == .store then c.grp.storeData d.toNat (widthOf w) l else 0, data2 := fun _ => 0,
    dst := c.grp.ctl.base + d.toNat, order := order, scope := scope, bypass := byp, byLd := kind == .load }

/-- LD, relaxed (R264, R265). -/
def execLd (d : BitVec 6) (b : BitVec 3) (o : BitVec 6) (w : BitVec 3) (y : BitVec 1) (p : BitVec 3) (s : State) : Out :=
  word (.ld d b o w y p) s (fun c s => issueMem c (.ld d b o w y p) s (lsWord c .load 1 d b o w p 0 0 (y == 1)))

/-- LD.acq (R264, R265). -/
def execLdAcq (d : BitVec 6) (b : BitVec 3) (o : BitVec 6) (w : BitVec 3) (sc : BitVec 4) (p : BitVec 3) (s : State) : Out :=
  word (.ldAcq d b o w sc p) s (fun c s =>
    issueMem c (.ldAcq d b o w sc p) s (lsWord c .load 1 d b o w p 1 sc.toNat false))

/-- ST, relaxed (R264, R265). -/
def execSt (d : BitVec 6) (b : BitVec 3) (o : BitVec 6) (w : BitVec 3) (y : BitVec 1) (p : BitVec 3) (s : State) : Out :=
  word (.st d b o w y p) s (fun c s => issueMem c (.st d b o w y p) s (lsWord c .store 2 d b o w p 0 0 (y == 1)))

/-- ST.rel (R264, R265). -/
def execStRel (d : BitVec 6) (b : BitVec 3) (o : BitVec 6) (w : BitVec 3) (sc : BitVec 4) (p : BitVec 3) (s : State) : Out :=
  word (.stRel d b o w sc p) s (fun c s =>
    issueMem c (.stRel d b o w sc p) s (lsWord c .store 2 d b o w p 2 sc.toNat false))

/-! ## Scratchpads -/

/-- The scratchpad byte of a lane (R267). -/
def Cx.scratchOff (c : Cx) (o l : Nat) : Int := ((c.grp.v o l).toNat : Int) + dispOf c.hs

/-- The team whose scratchpad a word reaches: the issuer's, or with .sib that of a rank of its cluster (R245, R267). -/
def Cx.reached (c : Cx) (s : State) (sib : Bool) (t : Nat) : Option Team :=
  if !sib then some c.team
  else if c.team.shape.cluster ≤ t then none
  else s.rankTeam c.team t

/-- The checks of R267 after the rank: alignment, then range. -/
def scratchFault (c : Cx) (t : Team) (o : Nat) (sel : Lanes) (n : Nat) : Option (Nat × BitVec 56) :=
  let first (bad : Int → Bool) : Option Int := ((laneNums sel).map (c.scratchOff o)).find? bad
  match first (fun a => a % n != 0) with
  | some a => some (0x18, addrOper a)
  | none =>
    match first (fun a => decide (a < 0 ∨ (t.scratchSize : Int) < a + n)) with
    | some a => some (0x1A, addrOper a)
    | none => none

/-- Values of a scratchpad operation that its LOAD_RETURNs will write. -/
def scratchOp (c : Cx) (i : Instr) (s : State) (t : Team) (o width : Nat) (sel : Lanes) (dst : Nat) (kind : OpKind)
    (order : Nat) (vals : Nat → Nat) : State :=
  if sel = 0 then retire c i s
  else
    let r := s.fresh
    let op : MemOp :=
      { id := r.1, team := c.ref.team, group := c.ref.g, kind := kind, width := width, sel := sel, slices := c.slices,
        locs := laneList.map (fun l => .scratch t.id (c.scratchOff o l).toNat), vas := List.replicate 32 0,
        data := List.replicate 32 0, data2 := List.replicate 32 0, dst := dst,
        vals := laneList.map (fun l => BitVec.ofNat 256 (vals l)), served := sel, written := 0, parts := [], scope := 0, order := order,
        bypass := false, byLd := true, ctx := c.team.shape.ctx, instr := i, pc := c.bundle, sa := 0, sb := 0,
        stuffed := c.stuffed, page := none }
    retire c i ({ r.2 with ops := r.2.ops ++ [op] })

/-- LDS (R267, R268). -/
def execLds (d o : BitVec 6) (w : BitVec 3) (y : BitVec 1) (t p : BitVec 3) (s : State) : Out :=
  word (.lds d o w y t p) s (fun c s =>
    let sel := c.sel p.toNat
    let n := widthOf w / 8
    if accessHeld s c true false 0 then s
    else
      match c.reached s (y == 1) t.toNat with
      | none => illop c s
      | some u =>
        match scratchFault c u o.toNat sel n with
        | some (code, oper) => raiseOp c s code oper
        | none =>
          scratchOp c (.lds d o w y t p) s u o.toNat (widthOf w) sel (c.grp.ctl.base + d.toNat) .load 0
            (fun l => u.scratchNat (c.scratchOff o.toNat l).toNat n))

/-- Lanes of a store in the order they are applied: ascending, or any where their bytes overlap (R332, log 8). -/
def State.scratchOrder (s : State) (lanes : List Nat) (at_ : Nat → Nat) (n : Nat) : State × List Nat :=
  if lanes.any (fun a => lanes.any (fun b => a != b && decide (at_ a < at_ b + n ∧ at_ b < at_ a + n))) then
    let r := s.draw
    (r.2, permute lanes.length (Config.laneOrder r.1) lanes)
  else (s, lanes)

/-- STS (R267, R268): performed at its issue. -/
def execSts (d o : BitVec 6) (w : BitVec 3) (y : BitVec 1) (t p : BitVec 3) (s : State) : Out :=
  word (.sts d o w y t p) s (fun c s =>
    let sel := c.sel p.toNat
    let n := widthOf w / 8
    if accessHeld s c false true 0 then s
    else
      match c.reached s (y == 1) t.toNat with
      | none => illop c s
      | some u =>
        match scratchFault c u o.toNat sel n with
        | some (code, oper) => raiseOp c s code oper
        | none =>
          let r := s.scratchOrder (laneNums sel) (fun l => (c.scratchOff o.toNat l).toNat) n
          retire c (.sts d o w y t p) (r.1.modTeam u.id (fun u => r.2.foldl (fun u l =>
            u.setScratchNat (c.scratchOff o.toNat l).toNat n (c.grp.storeData d.toNat (widthOf w) l)) u)))

/-- LOAD_RETURN (R52, R251, R254): the results of one slice of an operation, or one lane word of them, are written; the counter falls with
the last of a slice. -/
def execLoadReturn (op slice : Nat) (s : State) : Out := .next (s.returnSlice op slice)

end Sys2Proof.Machine
end

