-- ==== Sys2Proof/Machine/Atomics.lean ====
section
/-! DEFINITION. Majors ATOM and ATOMS (03 R96, R97, R109, 08 R269 to R271, 11 R346, R347). -/
namespace Sys2Proof.Machine

/-- An ATOM form (R270): its type's width, operands va and for CAS the next, order and scope by HSCOPE. -/
def atomMem (c : Cx) (kind : OpKind) (isCas : Bool) (d : BitVec 6) (b : BitVec 3) (o a : BitVec 4) (t : BitVec 2)
    (p : BitVec 3) : MemWord :=
  let w := atomWidth t.toNat
  let sel := c.sel p.toNat
  let src := haregA c.hs a
  let read (k l : Nat) : Nat := if w = 64 then (c.grp.v64 (src + 2 * k) l).toNat else (c.grp.v (src + k) l).toNat
  let so := scopeOf c.hs 5
  { kind := kind, acc := 4, width := w, align := w / 8, sel := sel,
    checked := match kind with
      | .aggregate _ => (match (laneNums sel).head? with
        | some l => (1#32) <<< l
        | none => 0)
      | _ => sel,
    base := b.toNat, off := c.laneOff (haregO c.hs o), data := read 0, data2 := fun l => if isCas then read 1 l else 0,
    dst := c.grp.ctl.base + d.toNat, order := so.1, scope := so.2, bypass := false, byLd := true }

/-- ATOM forms: a read-modify-write of each selected lane (R270). -/
def atomWord (i : Instr) (op : Nat) (d : BitVec 6) (b : BitVec 3) (o a : BitVec 4) (t : BitVec 2) (p : BitVec 3)
    (s : State) : Out :=
  word i s (fun c s => issueMem c i s (atomMem c (.atomic op t.toNat) (op == 7) d b o a t p))

/-- ATOM.add (R270). -/
def execAtomAdd (d : BitVec 6) (b : BitVec 3) (o a : BitVec 4) (t : BitVec 2) (p : BitVec 3) (s : State) : Out :=
  atomWord (.atomAdd d b o a t p) 0 d b o a t p s
/-- ATOM.min (R270). -/
def execAtomMin (d : BitVec 6) (b : BitVec 3) (o a : BitVec 4) (t : BitVec 2) (p : BitVec 3) (s : State) : Out :=
  atomWord (.atomMin d b o a t p) 1 d b o a t p s
/-- ATOM.max (R270). -/
def execAtomMax (d : BitVec 6) (b : BitVec 3) (o a : BitVec 4) (t : BitVec 2) (p : BitVec 3) (s : State) : Out :=
  atomWord (.atomMax d b o a t p) 2 d b o a t p s
/-- ATOM.and (R270). -/
def execAtomAnd (d : BitVec 6) (b : BitVec 3) (o a : BitVec 4) (t : BitVec 2) (p : BitVec 3) (s : State) : Out :=
  atomWord (.atomAnd d b o a t p) 3 d b o a t p s
/-- ATOM.or (R270). -/
def execAtomOr (d : BitVec 6) (b : BitVec 3) (o a : BitVec 4) (t : BitVec 2) (p : BitVec 3) (s : State) : Out :=
  atomWord (.atomOr d b o a t p) 4 d b o a t p s
/-- ATOM.xor (R270). -/
def execAtomXor (d : BitVec 6) (b : BitVec 3) (o a : BitVec 4) (t : BitVec 2) (p : BitVec 3) (s : State) : Out :=
  atomWord (.atomXor d b o a t p) 5 d b o a t p s
/-- ATOM.xchg (R270). -/
def execAtomXchg (d : BitVec 6) (b : BitVec 3) (o a : BitVec 4) (t : BitVec 2) (p : BitVec 3) (s : State) : Out :=
  atomWord (.atomXchg d b o a t p) 6 d b o a t p s
/-- ATOM.cas (R109, R270). -/
def execAtomCas (d : BitVec 6) (b : BitVec 3) (o a : BitVec 4) (t : BitVec 2) (p : BitVec 3) (s : State) : Out :=
  atomWord (.atomCas d b o a t p) 7 d b o a t p s
/-- ATOM.fadd (R270). -/
def execAtomFadd (d : BitVec 6) (b : BitVec 3) (o a : BitVec 4) (t : BitVec 2) (p : BitVec 3) (s : State) : Out :=
  atomWord (.atomFadd d b o a t p) 8 d b o a t p s

/-- ATOMG in ATOM (R271): one request, at the address of the lowest selected lane. -/
def execAtomg (d : BitVec 6) (b : BitVec 3) (o a : BitVec 4) (t : BitVec 2) (p : BitVec 3) (s : State) : Out :=
  word (.atomg d b o a t p) s (fun c s => issueMem c (.atomg d b o a t p) s (atomMem c (.aggregate t.toNat) false d b o a t p))

/-! ## Scratchpad atomics -/

/-- Lanes of an atomic applied to a scratchpad one at a time (R270): the team, and each lane's old value. -/
def scratchAtomic (u : Team) (op ty n : Nat) (at_ : Nat → Nat) (a b : Nat → Nat) (lanes : List Nat) :
    Team × List (Nat × Nat) :=
  lanes.foldl (fun acc l =>
    let old := acc.1.scratchNat (at_ l) n
    (acc.1.setScratchNat (at_ l) n (atomNew op ty old (a l) (b l)), acc.2 ++ [(l, old)])) (u, [])

/-- The checks of a scratchpad atomic over lanes (R267, R269), then its effect. -/
def atomsIssue (i : Instr) (s : State) (d : BitVec 6) (o a : BitVec 4) (t : BitVec 2) (p : BitVec 3)
    (pick : Lanes → Lanes) (run : Cx → State → (Nat → Nat) → (Nat → Nat → Nat) → Lanes → State × List (Nat × Nat)) : Out :=
  word i s (fun c s =>
    let sel := c.sel p.toNat
    let w := atomWidth t.toNat
    let off := haregO c.hs o
    let src := haregA c.hs a
    let read (k l : Nat) : Nat := if w = 64 then (c.grp.v64 (src + 2 * k) l).toNat else (c.grp.v (src + k) l).toNat
    if accessHeld s c true false (scopeOf c.hs 1).1 then s
    else
      match scratchFault c c.team off (pick sel) (w / 8) with
      | some (code, oper) => raiseOp c s code oper
      | none =>
        let r := run c s (fun l => (c.scratchOff off l).toNat) read sel
        scratchOp c i r.1 c.team off w sel (c.grp.ctl.base + d.toNat) (.atomic 0 t.toNat) (scopeOf c.hs 1).1
          (fun l => (lookupNat r.2 l).getD 0))

/-- ATOMS forms (R270). -/
def atomsWord (i : Instr) (op : Nat) (d : BitVec 6) (o a : BitVec 4) (t : BitVec 2) (p : BitVec 3) (s : State) : Out :=
  atomsIssue i s d o a t p id (fun c s at_ read sel =>
    let n := atomWidth t.toNat / 8
    let r := s.scratchOrder (laneNums sel) at_ n
    let u := scratchAtomic c.team op t.toNat n at_ (read 0) (fun l => if op = 7 then read 1 l else 0) r.2
    (r.1.modTeam c.ref.team (fun x => { x with scratch := u.1.scratch }), u.2))

/-- ATOMS.add (R270). -/
def execAtomsAdd (d : BitVec 6) (o a : BitVec 4) (t : BitVec 2) (p : BitVec 3) (s : State) : Out :=
  atomsWord (.atomsAdd d o a t p) 0 d o a t p s
/-- ATOMS.min (R270). -/
def execAtomsMin (d : BitVec 6) (o a : BitVec 4) (t : BitVec 2) (p : BitVec 3) (s : State) : Out :=
  atomsWord (.atomsMin d o a t p) 1 d o a t p s
/-- ATOMS.max (R270). -/
def execAtomsMax (d : BitVec 6) (o a : BitVec 4) (t : BitVec 2) (p : BitVec 3) (s : State) : Out :=
  atomsWord (.atomsMax d o a t p) 2 d o a t p s
/-- ATOMS.and (R270). -/
def execAtomsAnd (d : BitVec 6) (o a : BitVec 4) (t : BitVec 2) (p : BitVec 3) (s : State) : Out :=
  atomsWord (.atomsAnd d o a t p) 3 d o a t p s
/-- ATOMS.or (R270). -/
def execAtomsOr (d : BitVec 6) (o a : BitVec 4) (t : BitVec 2) (p : BitVec 3) (s : State) : Out :=
  atomsWord (.atomsOr d o a t p) 4 d o a t p s
/-- ATOMS.xor (R270). -/
def execAtomsXor (d : BitVec 6) (o a : BitVec 4) (t : BitVec 2) (p : BitVec 3) (s : State) : Out :=
  atomsWord (.atomsXor d o a t p) 5 d o a t p s
/-- ATOMS.xchg (R270). -/
def execAtomsXchg (d : BitVec 6) (o a : BitVec 4) (t : BitVec 2) (p : BitVec 3) (s : State) : Out :=
  atomsWord (.atomsXchg d o a t p) 6 d o a t p s
/-- ATOMS.cas (R109, R270). -/
def execAtomsCas (d : BitVec 6) (o a : BitVec 4) (t : BitVec 2) (p : BitVec 3) (s : State) : Out :=
  atomsWord (.atomsCas d o a t p) 7 d o a t p s
/-- ATOMS.fadd (R270). -/
def execAtomsFadd (d : BitVec 6) (o a : BitVec 4) (t : BitVec 2) (p : BitVec 3) (s : State) : Out :=
  atomsWord (.atomsFadd d o a t p) 8 d o a t p s

/-- ATOMG in ATOMS (R271). -/
def execAtomgScratch (d : BitVec 6) (o a : BitVec 4) (t : BitVec 2) (p : BitVec 3) (s : State) : Out :=
  atomsIssue (.atomgScratch d o a t p) s d o a t p
    (fun sel => match (laneNums sel).head? with
      | some l => (1#32) <<< l
      | none => 0)
    (fun c s at_ read sel =>
      match (laneNums sel).head? with
      | none => (s, [])
      | some l0 =>
        let w := atomWidth t.toNat
        let old := c.team.scratchNat (at_ l0) (w / 8)
        let run := (laneNums sel).foldl (fun (acc : Nat × List (Nat × Nat)) l =>
          ((acc.1 + read 0 l) % 2 ^ w, acc.2 ++ [(l, acc.1)])) (old, [])
        (s.modTeam c.ref.team (fun x => x.setScratchNat (at_ l0) (w / 8) run.1), run.2))

end Sys2Proof.Machine
end

