-- ==== Sys2Proof/Machine/WaitWords.lean ====
section
/-! DEFINITION. Major WAIT, timers and yields (07 R253, R254, 08 R274 to R276, R291, R292). -/
namespace Sys2Proof.Machine

/-! ## WAITC -/

/-- The slices of a sub-gang that meet a WAITC (R254, R274). -/
def waitcReady (c : Cx) (s : State) (l st : BitVec 6) (b : BitVec 4) (t : BitVec 5) : BitVec 8 :=
  if s.stCount c.ref ≤ st.toNat ∧ s.btCount c.ref ≤ b.toNat ∧ s.tlCount c.ref ≤ t.toNat then
    (sliceNums c.slices).foldl (fun m k => if s.lds c.ref k ≤ l.toNat then m ||| ((1#8) <<< k) else m) 0
  else 0

/-- WAITC (R254, R274): the slices that meet it pass, and where others do not the sub-gang divides. -/
def execWaitc (l st : BitVec 6) (b : BitVec 4) (t : BitVec 5) (s : State) : Out :=
  word (.waitc l st b t) s (fun c s =>
    let ready := waitcReady c s l st b t
    let rest := c.slices &&& ~~~ready
    if ready = 0 then stayWaiting c s
    else if rest = 0 then retire c (.waitc l st b t) s
    else
      let s1 := retire { c with slices := ready, act := c.grp.activeLanes ready } (.waitc l st b t) s
      (stayWaiting { c with slices := rest } s1).modGroup c.ref (fun g => (g.divide ready rest).partner ready rest))

/-! ## WAITB -/

/-- A BWAIT or WAITB of a group has returned: its later accesses wait for the reads it made before (R341). -/
def State.waitReturned (s : State) (r : GRef) : State :=
  s.modGroup r (fun g => g.modCtl (fun k => { k with readsTo := s.dev.nextId }))

/-- Whether the batches a WAITB waits for have completed (R252, R253). -/
def waitbDone (t : Team) (a : DWord) : Bool :=
  let n : BitVec 32 := a.extractLsb' 0 32
  let ahead := (n - t.lastBatch).toNat
  t.shape.producer == 0 ||
  ((ahead == 0 || decide (2 ^ 31 ≤ ahead)) && t.batches.all (fun b => decide (2 ^ 31 ≤ (n - b).toNat)))

/-- WAITB sA (R253, R274). -/
def execWaitb (a : BitVec 5) (s : State) : Out :=
  word (.waitb a) s (fun c s =>
    if waitbDone c.team (c.grp.s a.toNat) then (retire c (.waitb a) s).waitReturned c.ref else stayWaiting c s true)

/-! ## WAITV -/

/-- The value one read of a WAITV finds at a place, as a bypassed relaxed read (R275, R302, R309): none where it must be
made again. -/
def waitvRead (c : Cx) (s : State) (loc : Loc) (va : Nat) : State × Option Nat :=
  match loc with
  | .scratch team off =>
    (s, some (match s.team? team with
      | some u => u.scratchNat off 4
      | none => 0))
  | loc =>
    match s.readPiece c.quarter c.team.shape.ctx .bypassing loc va 4 with
    | (s1, .ok v) => (s1, some v)
    | (s1, .bad code oper _) =>
      let seen := match s1.group? c.ref with
        | some g => g.flt.pending.any (fun p => p.1 == code)
        | none => true
      (if seen then s1 else s1.noteBad c.core c.team.shape.ctx (c.level == 0) c.ref code oper, some (2 ^ 32 - 1))
    | (s1, _) => (s1, none)

/-- A WAITV read and its drains (R275, R318, R348): at scope .polder or wider, the bytes this quarter holds dirty go home and
the home's recorded quarters are drained first; of a variable in peer memory, whose home lies outside the device, those of every home of the polder
(log 35). -/
def waitvLook (c : Cx) (s : State) (loc : Loc) (va : Nat) : State × Option Nat :=
  let scope := (scopeOf c.hs 5).2
  match loc with
  | .phys pa leaf =>
    if 4 ≤ scope then
      let s1 := s.cleanCopy c.quarter (pa / 4096) (byteMask (pa % 4096) 4)
      waitvRead c (s1.acquire c.quarter scope [s1.homeOf c.quarter pa (leafTier leaf.1)]) loc va
    else waitvRead c s loc va
  | .peer .. =>
    waitvRead c (if 4 ≤ scope then s.acquire c.quarter scope (s.polderQuarters c.quarter) else s) loc va
  | loc => waitvRead c s loc va

/-- The place a WAITV reads (R257, R260, R275): a fault, or, with what the translation has left, missing pages or a place with its address. -/
def waitvPlace (c : Cx) (s : State) (b : BitVec 3) : (Nat × BitVec 56) ⊕ (State × Placed × Nat) :=
  let base := c.bn b.toNat
  let off := dispOf c.hs
  match base.valid, base.space with
  | true, .scratch rank =>
    let size := ((s.rankTeam c.team rank).map Team.scratchSize).getD 0
    let id := ((s.rankTeam c.team rank).map (fun u => u.id)).getD 0
    if off % 4 ≠ 0 then .inl (0x18, addrOper off)
    else if off < 0 ∨ (size : Int) < off + 4 then .inl (0x1A, addrOper off)
    else .inr (s, .ok [(0, .scratch id off.toNat)], off.toNat)
  | _, _ =>
    let m : MemWord :=
      { kind := .load, acc := 1, width := 32, align := 4, sel := 1, checked := 1, base := b.toNat, off := fun _ => off,
        data := fun _ => 0, data2 := fun _ => 0, dst := 0, order := 0, scope := 0, bypass := true, byLd := false }
    match m.fault c with
    | some f => .inl f
    | none => let r := s.placeLanes c m; .inr (r.1, r.2, (m.addr c 0).toNat)

/-- What a lane of an operation acts on: its bytes, or the whole tile for a spiral query or command (R272). -/
def MemOp.spanAt (o : MemOp) (l : Nat) : Span :=
  let all (a : Nat) : Nat × Nat := if o.kind.reachesMemory then (a, o.bytes) else (a / 4096 * 4096, 4096)
  { vas := [all (o.va l)], pas := ((o.phys? l).map (fun x => all x.1)).toList }

/-- Whether an access of the group to n bytes, or a spiral command on a tile of them (R272), is still to be performed (R336). -/
def opsBehind (c : Cx) (s : State) (va n : Nat) : Bool :=
  let span := c.span s [(va, n)]
  (s.groupOps c.ref).any (fun o => (laneNums (o.sel &&& ~~~o.served)).any (fun l => span.meets (o.spanAt l))) ||
  s.behindMx c.ref span || s.behindEngine c span true

/-- WAITV [bN + imm], sA (R275). -/
def execWaitv (b : BitVec 3) (a : BitVec 5) (s : State) : Out :=
  word (.waitv b a) s (fun c s =>
    if accessHeld s c false false 0 then s
    else
      match waitvPlace c s b with
      | .inl (code, oper) => raiseOp c s code oper
      | .inr (s0, .deny va, _) => raiseOp c s0 0x18 (BitVec.ofNat 56 va)
      | .inr (s0, .park lanes kept, _) =>
        (match c.stuffed with
        | some x => s0.endExec x 4 0
        | none => parkWord c s0 lanes kept)
      | .inr (_, .hold, _) => s
      | .inr (s0, .ok locs, va) =>
        if opsBehind c s va 4 then s
        else
          match waitvLook c s0 ((lookupNat locs 0).getD (.scratch 0 0)) va with
          | (s1, some v) =>
            if v = (c.grp.s a.toNat).toNat % 2 ^ 32 then stayWaiting c s1 true else retire c (.waitv b a) s1
          | (s1, none) => stayWaiting c s1 true)

/-! ## YIELD and timers -/

/-- YIELD (R276): ineligible for 64 cycles, the yielding mark set. -/
def execYieldW (s : State) : Out :=
  word .yieldW s (fun c s =>
    (retire c .yieldW s).modGroup c.ref (fun g => g.modCtl (fun k =>
      { k with yielding := true, yieldUntil := some (s.cycle + 65) })))

/-- YIELD_EXPIRE (R276). -/
def execYieldExpire (team g : Nat) (s : State) : Out :=
  .next (s.modGroup ⟨team, g⟩ (fun x => x.modCtl (fun k => { k with yieldUntil := match k.yieldUntil with
    | some u => if u ≤ s.cycle then none else some u
    | none => none })))

/-- Whether a group's timer fires now (R291). A deadline that passed while the group was out is met at its first issue
after the restore. -/
def Group.timerDue (g : Group) (tick : DWord) : Bool :=
  let t := g.ctl.timer
  t.armed && (if t.wall then decide (t.deadline ≤ tick.toNat) && (!t.late || g.started)
    else decide (t.deadline ≤ g.ctl.cyc.toNat))

/-- The timer fires (R292): disarmed, TFIRED set, and TLATE when late; waits it may end go on at the word after. MODE is cleared with DEADLINE (DESIGN
CHOICE, log 87): R296 gives what a disarmed timer reads for DEADLINE alone. -/
def Group.fireTimer (g : Group) : Group :=
  let g1 := g.modCtl (fun k => { k with
    timer := { armed := false, wall := false, deadline := 0, late := false }, tfired := true,
    tlate := k.tlate || k.timer.late })
  ({ g1 with slices := g1.slices.map (fun (sl : Slice) =>
      if sl.wait == SliceWait.inTimed then { sl with pc := sl.pc + 4, wait := .running, hints := [], bundle := none } else sl) }).settle

/-- TIMER_FIRE (R291, R292). -/
def execTimerFire (team g : Nat) (s : State) : Out :=
  .next (match s.group? ⟨team, g⟩, (s.team? team).bind Team.core? with
    | some x, some _ => if x.timerDue s.tick then s.modGroup ⟨team, g⟩ Group.fireTimer else s
    | _, _ => s)

end Sys2Proof.Machine
end

