-- ==== Sys2Proof/Machine/BarrierWords.lean ====
section
/-! DEFINITION. Barrier registers and major BAR (07 R246 to R250, 08 R277). Events of one cycle are kept and applied in
R248's order when the cycle ends. -/
namespace Sys2Proof.Machine

/-! ## The events of R247 -/

/-- binit. -/
def Barrier.binit (b : Barrier) (n : BitVec 6) : Barrier :=
  { b with exp := n, arr := 0, owed := 0, err := false, cwait := false, cdone := false }

/-- declare. -/
def Barrier.declare (b : Barrier) (n : Nat) : Barrier :=
  if b.cdone || decide (2 ^ 32 - 1 < b.owed.toNat + n) then { b with err := true }
  else { b with owed := BitVec.ofNat 32 (b.owed.toNat + n), cwait := true }

/-- land. -/
def Barrier.land (b : Barrier) (n : Nat) : Barrier :=
  if b.owed.toNat < n then { b with err := true, owed := 0 } else { b with owed := BitVec.ofNat 32 (b.owed.toNat - n) }

/-- arrive. -/
def Barrier.arrive (b : Barrier) : Barrier := if b.arr = b.exp then { b with err := true } else { b with arr := b.arr + 1 }

/-- copy_check. -/
def Barrier.copyCheck (b : Barrier) : Barrier :=
  if b.cwait && b.owed == 0 then ({ b with cwait := false, cdone := true }).arrive else b

/-- end_of_cycle. -/
def Barrier.endOfCycle (b : Barrier) : Barrier :=
  if b.arr = b.exp then { b with phase := !b.phase, arr := 0, cdone := false } else b

/-- The BINIT of a cycle on a register: that of the lowest-numbered group (R248). -/
def initOf (evs : List BarEvent) : Option (BitVec 6) :=
  (evs.foldl (fun (acc : Option (Nat × BitVec 6)) e =>
    match e, acc with
    | .binit g n, some (h, m) => if g < h then some (g, n) else some (h, m)
    | .binit g n, none => some (g, n)
    | _, _ => acc) none).map Prod.snd

/-- The events of one cycle on one register, in order (R248). A landing of a rejected or stopped job sets ERR. -/
def Barrier.cycle (b : Barrier) (evs : List BarEvent) : Barrier :=
  let b0 := match initOf evs with
    | some n => b.binit n
    | none => b
  let b1 := evs.foldl (fun b e => match e with
    | .declare n => b.declare n
    | _ => b) b0
  let b2 := evs.foldl (fun (b : Barrier) e => match e with
    | .land n reject => (if reject then { b with err := true } else b).land n
    | _ => b) b1
  let b3 := evs.foldl (fun b e => match e with
    | .arrive => b.arrive
    | _ => b) b2.copyCheck
  b3.endOfCycle

/-- The barrier registers of a team at the end of a cycle. -/
def Team.barrierCycle (t : Team) : Team :=
  { t with
    bars := t.bars.mapIdx (fun i b => b.cycle ((t.barEvents.filter (fun e => e.1 == i)).map Prod.snd)), barEvents := [] }

/-- An event of this cycle on a register of a team. -/
def State.barEvent (s : State) (team n : Nat) (e : BarEvent) : State :=
  s.modTeam team (fun t => { t with barEvents := t.barEvents ++ [(n, e)] })

/-- A register a team does not hold. -/
def Barrier.zero : Barrier := { owed := 0, phase := false, err := false, cwait := false, cdone := false, arr := 0, exp := 0 }

/-- A register at its team's first issue (R246). -/
def Barrier.first (groups : Nat) : Barrier := { Barrier.zero with exp := BitVec.ofNat 6 groups }

/-- A register as BTEST returns it (R246). -/
def Barrier.bits (b : Barrier) : DWord :=
  let bit (x : Bool) (k : Nat) : Nat := if x then 2 ^ k else 0
  BitVec.ofNat 64 (b.exp.toNat + b.arr.toNat * 2 ^ 8 + bit b.cdone 28 + bit b.cwait 29 + bit b.err 30 + bit b.phase 31 +
    b.owed.toNat * 2 ^ 32)

/-! ## The words -/

/-- BINIT bwN, sA (R277). -/
def execBinit (a : BitVec 5) (w : BitVec 4) (s : State) : Out :=
  word (.binit a w) s (fun c s =>
    let n := (c.grp.s a.toNat).toNat
    if n = 0 ∨ 63 < n then raiseOp c s 0x1B (w.setWidth 56)
    else retire c (.binit a w) (s.barEvent c.ref.team w.toNat (.binit c.ref.g (BitVec.ofNat 6 n))))

/-- BARV bwN (R250, R277): once, by the whole group. As a release it is held until every earlier access of the group is performed
(log 35). -/
def execBarv (w : BitVec 4) (s : State) : Out :=
  word (.barv w) s (fun c s =>
    if !c.wholeGroup then illop c s
    else if !s.quiet c.ref then s
    else retire c (.barv w) (s.barEvent c.ref.team w.toNat .arrive))

/-- BEXP bwN, sA (R277). -/
def execBexp (a : BitVec 5) (w : BitVec 4) (s : State) : Out :=
  word (.bexp a w) s (fun c s =>
    let n := (c.grp.s a.toNat).toNat
    if 2 ^ 32 ≤ n then raiseOp c s 0x1B (w.setWidth 56)
    else retire c (.bexp a w) (s.barEvent c.ref.team w.toNat (.declare n)))

/-- BWAIT bwN, sA (R249): PHASE as it stood when the cycle began. -/
def execBwait (a : BitVec 5) (w : BitVec 4) (s : State) : Out :=
  word (.bwait a w) s (fun c s =>
    if (c.team.bars.getD w.toNat Barrier.zero).phase != (c.grp.s a.toNat).getLsbD 0 then (retire c (.bwait a w) s).waitReturned c.ref
    else stayWaiting c s true)

/-- BTEST sD, bwN (R277). -/
def execBtest (d : BitVec 5) (w : BitVec 4) (s : State) : Out :=
  aluWord (.btest d w) s (fun c g => g.setS d.toNat (c.team.bars.getD w.toNat Barrier.zero).bits)

end Sys2Proof.Machine
end

