-- ==== Sys2Proof/Machine/BaseWords.lean ====
section
/-! DEFINITION. Major BASE (08 R258 to R262). -/
namespace Sys2Proof.Machine

/-- A base register that maps nothing. -/
def BaseReg.unmapped (vbase : BitVec 56) : BaseReg :=
  { valid := true, space := .virtual, vbase := vbase, frame := 0, limit := 0, perm := ⟨false, false, false, false⟩, leaf := (0, 0), more := [] }

/-- The leaf of an address for BSET and BLIM, which make no fault-queue entry and never fault (R258): words and log2 of the page. -/
def State.leafFor (s : State) (core : Nat) (ctx : Option Nat) (va : Nat) : State × Option (DWord × DWord × Nat) :=
  match ctx with
  | none => if 2 ^ 52 ≤ va then (s, none) else (s, some (s.identityLeaf (quarterOf core) va, 0, 30))
  | some n =>
    match s.leafOf core n va with
    | (s1, .leaf w0 w1 lo) => (s1, some (w0, w1, lo))
    | (s1, _) => (s1, none)

/-- The physical address under a leaf; 0 for peer memory, which has no frame here. -/
def frameOf (w0 : DWord) (lo va : Nat) : Nat :=
  if leafTier w0 = 3 then 0 else (w0.extractLsb' 12 40).toNat * 4096 + va % 2 ^ lo

/-- What BSET makes of s(a) (R258). -/
def State.bset (s : State) (c : Cx) (v : DWord) : State × BaseReg :=
  let top := (v.extractLsb' 56 8).toNat
  let va := v.extractLsb' 0 56
  let rank := top - 0x80
  if top = 0 then
    match s.leafFor c.core c.team.shape.ctx va.toNat with
    | (s1, some (w0, w1, lo)) =>
      (s1, { valid := true, space := .virtual, vbase := va, frame := BitVec.ofNat 52 (frameOf w0 lo va.toNat),
             limit := 2 ^ lo - va.toNat % 2 ^ lo, perm := permOf w0, leaf := (w0, w1), more := [] })
    | (s1, none) => (s1, BaseReg.unmapped va)
  else if 0x80 ≤ top ∧ rank < min 8 (max 1 c.team.shape.cluster) ∧ va = 0 then
    (s, { BaseReg.unmapped 0 with
          space := .scratch rank, limit := ((s.rankTeam c.team rank).map Team.scratchSize).getD 0 })
  else (s, { BaseReg.unmapped 0 with valid := false })

/-- The walk of an address waits: the memory of one of its tables is not ready (21 R512). -/
def State.leafHeld (s : State) (core : Nat) (ctx : Option Nat) (va : Nat) : Bool :=
  match ctx with
  | none => false
  | some n => (s.leafOf core n va).2 == .hold

/-- BSET waits for a table that its translation reads. -/
def State.bsetHeld (s : State) (c : Cx) (v : DWord) : Bool :=
  v.extractLsb' 56 8 == 0 && s.leafHeld c.core c.team.shape.ctx (v.extractLsb' 0 56).toNat

/-- BSET bN, sA (R258). -/
def execBset (n : BitVec 3) (a : BitVec 5) (s : State) : Out :=
  word (.bset n a) s (fun c s =>
    if s.bsetHeld c (c.grp.s a.toNat) then s
    else
      let r := s.bset c (c.grp.s a.toNat)
      retire c (.bset n a) (r.1.modGroup c.ref (fun g => { g with bases := g.bases.set n.toNat r.2 })))

/-- Whether a page continues a base register's span: physically contiguous from FRAME, with its permissions (R259). Peer memory has no frame
here, so that a span of it ends with its first page (log 61). -/
def BaseReg.continues (b : BaseReg) (off : Nat) (w0 : DWord) (lo : Nat) : Bool :=
  let p := permOf w0
  decide (frameOf w0 lo (b.vbase.toNat + off) = b.frame.toNat + off) &&
  (!b.perm.r || p.r) && (!b.perm.w || p.w) && (!b.perm.x || p.x) && (!b.perm.u || p.u)

/-- The pages from an offset of a base register walked (R259): the length of the span found, at most `want`, and the leaves of its pages. -/
def State.blimWalk (core : Nat) (ctx : Option Nat) (b : BaseReg) (want : Nat) :
    Nat → Nat → List (Nat × (DWord × DWord)) → State → State × Nat × List (Nat × (DWord × DWord))
  | 0, off, ls, s => (s, min off want, ls)
  | f + 1, off, ls, s =>
    if want ≤ off then (s, want, ls)
    else
      match s.leafFor core ctx (b.vbase.toNat + off) with
      | (s1, some (w0, w1, lo)) =>
        if b.continues off w0 lo then
          State.blimWalk core ctx b want f (off + (2 ^ lo - (b.vbase.toNat + off) % 2 ^ lo)) (ls ++ [(off, (w0, w1))]) s1
        else (s1, off, ls)
      | (s1, none) => (s1, off, ls)

/-- The span BLIM finds for a base register (R259): at most the bytes asked for, below 2^32. -/
def State.blim (s : State) (c : Cx) (b : BaseReg) (v : DWord) : State × Nat × List (Nat × (DWord × DWord)) :=
  State.blimWalk c.core c.team.shape.ctx b (min v.toNat (2 ^ 32 - 1)) 65537 0 [] s

/-- BLIM waits where its walk stopped at a page whose tables are not ready. -/
def State.blimHeld (s : State) (c : Cx) (b : BaseReg) (v : DWord) : Bool :=
  let k := (s.blim c b v).2.1
  b.valid && b.space == .virtual && decide (k < min v.toNat (2 ^ 32 - 1)) && s.leafHeld c.core c.team.shape.ctx (b.vbase.toNat + k)

/-- BLIM bN, sA (R259). -/
def execBlim (n : BitVec 3) (a : BitVec 5) (s : State) : Out :=
  word (.blim n a) s (fun c s =>
    let b := c.bn n.toNat
    if s.blimHeld c b (c.grp.s a.toNat) then s
    else if b.valid && b.space == .virtual then
      let r := s.blim c b (c.grp.s a.toNat)
      retire c (.blim n a) (r.1.modGroup c.ref (fun g => { g with bases := g.bases.set n.toNat { b with limit := r.2.1, more := r.2.2 } }))
    else retire c (.blim n a) s)

/-- A BSET or BLIM that waits, held at issue like a word of a unit that is not ready. -/
def State.baseHeld (s : State) (c : Cx) (i : Instr) : Bool :=
  match i with
  | .bset _ a => s.bsetHeld c (c.grp.s a.toNat)
  | .blim n a => s.blimHeld c (c.bn n.toNat) (c.grp.s a.toNat)
  | _ => false

/-- An LDU form (R262): one read for the group. -/
def lduMem (c : Cx) (dword : Bool) (d : BitVec 5) (n : BitVec 3) : MemWord :=
  { kind := .uniform dword, acc := 1, width := if dword then 64 else 32, align := if dword then 8 else 4, sel := 1,
    checked := 1, base := n.toNat, off := fun _ => dispOf c.hs, data := fun _ => 0, data2 := fun _ => 0, dst := d.toNat,
    order := 0, scope := 0, bypass := false, byLd := true }

/-- LDU.b32 (R262). -/
def execLduB32 (d : BitVec 5) (n : BitVec 3) (s : State) : Out :=
  word (.lduB32 d n) s (fun c s => issueMem c (.lduB32 d n) s (lduMem c false d n))

/-- LDU.b64 (R262). -/
def execLduB64 (d : BitVec 5) (n : BitVec 3) (s : State) : Out :=
  word (.lduB64 d n) s (fun c s => issueMem c (.lduB64 d n) s (lduMem c true d n))

end Sys2Proof.Machine
end

