-- ==== Sys2Proof/Machine/IntAlu.lean ====
section
/-! DEFINITION. Integer arithmetic of majors IOP, IOPI and IOPW (05 R153 to R155). -/
namespace Sys2Proof.Machine

/-- The exact results of R153 at a width, wrapped: fn as R100 numbers the functions of IOP. -/
def intOp {w : Nat} (fn : Nat) (a b : BitVec w) : BitVec w :=
  match fn with
  | 0 => a + b
  | 1 => a - b
  | 2 => if a.toInt ≤ b.toInt then a else b
  | 3 => if a.toNat ≤ b.toNat then a else b
  | 4 => if a.toInt ≤ b.toInt then b else a
  | 5 => if a.toNat ≤ b.toNat then b else a
  | 6 => a &&& b
  | 7 => a ||| b
  | 8 => a ^^^ b
  | 9 => a &&& ~~~b
  | 10 => wrapI w ((a.toInt - b.toInt).natAbs : Int)
  | 11 => wrapI w (((a.toNat : Int) - (b.toNat : Int)).natAbs : Int)
  | 12 => wrapI w (clampI (a.toInt + b.toInt) (-(2 ^ (w - 1))) (2 ^ (w - 1) - 1))
  | 13 => wrapI w (clampI ((a.toNat : Int) + b.toNat) 0 (2 ^ w - 1))
  | 14 => wrapI w (clampI (a.toInt - b.toInt) (-(2 ^ (w - 1))) (2 ^ (w - 1) - 1))
  | _ => wrapI w (clampI ((a.toNat : Int) - b.toNat) 0 (2 ^ w - 1))

/-- A word that computes d from a and b lane by lane on 32-bit words (R149). -/
def vword2 (i : Instr) (d a b : BitVec 6) (p : BitVec 3) (s : State) (op : Word → Word → Word) : Out :=
  aluWord i s (fun c g => g.setV d.toNat (c.sel p.toNat) (fun l => op (g.v a.toNat l) (g.v b.toNat l)))

/-- A word that computes d from a lane by lane on 32-bit words (R149). -/
def vword1 (i : Instr) (d a : BitVec 6) (p : BitVec 3) (s : State) (op : Word → Word) : Out :=
  aluWord i s (fun c g => g.setV d.toNat (c.sel p.toNat) (fun l => op (g.v a.toNat l)))

/-- A word that computes d from a and the composed immediate lane by lane (R149, R154). -/
def vwordImm (i : Instr) (d a : BitVec 6) (imm : BitVec 8) (p : BitVec 3) (s : State) (op : Word → Int → Word) : Out :=
  aluWord i s (fun c g => g.setV d.toNat (c.sel p.toNat) (fun l => op (g.v a.toNat l) (immVI c.hs imm)))

/-- ADD (R153). -/
def execAdd (d a b : BitVec 6) (p : BitVec 3) (s : State) : Out := vword2 (.add d a b p) d a b p s (intOp 0)

/-- SUB (R153). -/
def execSub (d a b : BitVec 6) (p : BitVec 3) (s : State) : Out := vword2 (.sub d a b p) d a b p s (intOp 1)

/-- MIN_I32 (R153). -/
def execMinI32 (d a b : BitVec 6) (p : BitVec 3) (s : State) : Out := vword2 (.minI32 d a b p) d a b p s (intOp 2)

/-- MIN_N32 (R153). -/
def execMinN32 (d a b : BitVec 6) (p : BitVec 3) (s : State) : Out := vword2 (.minN32 d a b p) d a b p s (intOp 3)

/-- MAX_I32 (R153). -/
def execMaxI32 (d a b : BitVec 6) (p : BitVec 3) (s : State) : Out := vword2 (.maxI32 d a b p) d a b p s (intOp 4)

/-- MAX_N32 (R153). -/
def execMaxN32 (d a b : BitVec 6) (p : BitVec 3) (s : State) : Out := vword2 (.maxN32 d a b p) d a b p s (intOp 5)

/-- AND (R153). -/
def execAndB (d a b : BitVec 6) (p : BitVec 3) (s : State) : Out := vword2 (.andB d a b p) d a b p s (intOp 6)

/-- OR (R153). -/
def execOrB (d a b : BitVec 6) (p : BitVec 3) (s : State) : Out := vword2 (.orB d a b p) d a b p s (intOp 7)

/-- XOR (R153). -/
def execXorB (d a b : BitVec 6) (p : BitVec 3) (s : State) : Out := vword2 (.xorB d a b p) d a b p s (intOp 8)

/-- ANDN (R153). -/
def execAndn (d a b : BitVec 6) (p : BitVec 3) (s : State) : Out := vword2 (.andn d a b p) d a b p s (intOp 9)

/-- ABSD_I32 (R153). -/
def execAbsdI32 (d a b : BitVec 6) (p : BitVec 3) (s : State) : Out := vword2 (.absdI32 d a b p) d a b p s (intOp 10)

/-- ABSD_N32 (R153). -/
def execAbsdN32 (d a b : BitVec 6) (p : BitVec 3) (s : State) : Out := vword2 (.absdN32 d a b p) d a b p s (intOp 11)

/-- ADDSAT_I32 (R153). -/
def execAddsatI32 (d a b : BitVec 6) (p : BitVec 3) (s : State) : Out := vword2 (.addsatI32 d a b p) d a b p s (intOp 12)

/-- ADDSAT_N32 (R153). -/
def execAddsatN32 (d a b : BitVec 6) (p : BitVec 3) (s : State) : Out := vword2 (.addsatN32 d a b p) d a b p s (intOp 13)

/-- SUBSAT_I32 (R153). -/
def execSubsatI32 (d a b : BitVec 6) (p : BitVec 3) (s : State) : Out := vword2 (.subsatI32 d a b p) d a b p s (intOp 14)

/-- SUBSAT_N32 (R153). -/
def execSubsatN32 (d a b : BitVec 6) (p : BitVec 3) (s : State) : Out := vword2 (.subsatN32 d a b p) d a b p s (intOp 15)

/-- IOPW (R153): the functions of IOP on 64-bit pairs. -/
def execIopw (d a b : BitVec 6) (f : BitVec 5) (p : BitVec 3) (s : State) : Out :=
  aluWord (.iopw d a b f p) s (fun c g =>
    g.setV64 d.toNat (c.sel p.toNat) (fun l => intOp f.toNat (g.v64 a.toNat l) (g.v64 b.toNat l)))

/-- The results of IOPI (R154), imm the composed immediate. -/
def intOpImm (fn : Nat) (a : Word) (imm : Int) : Word :=
  match fn with
  | 0 => wrapI 32 (a.toNat + imm)
  | 1 => wrapI 32 (a.toNat * imm)
  | 2 => a &&& wrapI 32 imm
  | 3 => a ||| wrapI 32 imm
  | 4 => a ^^^ wrapI 32 imm
  | 5 => a <<< imm.toNat
  | 6 => a >>> imm.toNat
  | _ => a.sshiftRight imm.toNat

/-- ADDI (R154). -/
def execAddi (d a : BitVec 6) (i : BitVec 8) (p : BitVec 3) (s : State) : Out := vwordImm (.addi d a i p) d a i p s (intOpImm 0)

/-- MULI (R154). -/
def execMuli (d a : BitVec 6) (i : BitVec 8) (p : BitVec 3) (s : State) : Out := vwordImm (.muli d a i p) d a i p s (intOpImm 1)

/-- ANDI (R154). -/
def execAndi (d a : BitVec 6) (i : BitVec 8) (p : BitVec 3) (s : State) : Out := vwordImm (.andi d a i p) d a i p s (intOpImm 2)

/-- ORI (R154). -/
def execOri (d a : BitVec 6) (i : BitVec 8) (p : BitVec 3) (s : State) : Out := vwordImm (.ori d a i p) d a i p s (intOpImm 3)

/-- XORI (R154). -/
def execXori (d a : BitVec 6) (i : BitVec 8) (p : BitVec 3) (s : State) : Out := vwordImm (.xori d a i p) d a i p s (intOpImm 4)

/-- SHLI (R154). -/
def execShli (d a : BitVec 6) (i : BitVec 8) (p : BitVec 3) (s : State) : Out := vwordImm (.shli d a i p) d a i p s (intOpImm 5)

/-- SHRI (R154). -/
def execShri (d a : BitVec 6) (i : BitVec 8) (p : BitVec 3) (s : State) : Out := vwordImm (.shri d a i p) d a i p s (intOpImm 6)

/-- SARI (R154). -/
def execSari (d a : BitVec 6) (i : BitVec 8) (p : BitVec 3) (s : State) : Out := vwordImm (.sari d a i p) d a i p s (intOpImm 7)

end Sys2Proof.Machine
end

