-- ==== Sys2Proof/Machine/Bits.lean ====
section
/-! DEFINITION. Bit operations of major BITS (05 R156 to R158). -/
namespace Sys2Proof.Machine

/-- Shifts and rotates of R156 by a count, which a 32-bit register supplies whatever the width. -/
def shiftOp {w : Nat} (fn : Nat) (a : BitVec w) (c : Nat) : BitVec w :=
  match fn with
  | 0 => if c < w then a <<< c else 0
  | 1 => if c < w then a >>> c else 0
  | 2 => if c < w then a.sshiftRight c else (if a.msb then BitVec.allOnes w else 0)
  | 3 => a.rotateLeft (c % w)
  | _ => a.rotateRight (c % w)

/-- Number of set bits (R156). -/
def popCount {w : Nat} (a : BitVec w) : Nat := ((List.range w).filter (fun i => a.getLsbD i)).length

/-- Number of trailing zero bits; w for 0 (R156). -/
def ctzCount {w : Nat} (a : BitVec w) : Nat := ((List.range w).find? (fun i => a.getLsbD i)).getD w

/-- Number of leading zero bits; w for 0 (R156). -/
def clzCount {w : Nat} (a : BitVec w) : Nat := ((List.range w).find? (fun i => a.getLsbD (w - 1 - i))).getD w

/-- Bit j moved to bit w − 1 − j (R156). -/
def revBits {w : Nat} (a : BitVec w) : BitVec w := a.reverse

/-- Position and length of a field operand (R157). -/
def fieldOf (b : Word) : Nat × Nat :=
  let pos := b.toNat % 32
  (pos, min (b.toNat / 256 % 64) (32 - pos))

/-- BFX (R157): a field of a, zero- or sign-extended. -/
def bfx (signed : Bool) (a b : Word) : Word :=
  let (pos, len) := fieldOf b
  let f := a.toNat / 2 ^ pos % 2 ^ len
  if signed && len != 0 && f.testBit (len - 1) then wrapI 32 ((f : Int) - 2 ^ len) else BitVec.ofNat 32 f

/-- BFI (R157): old with a field replaced by the low bits of a. -/
def bfi (old a b : Word) : Word :=
  let (pos, len) := fieldOf b
  let mask : Word := BitVec.ofNat 32 ((2 ^ len - 1) * 2 ^ pos)
  (old &&& ~~~mask) ||| ((a <<< pos) &&& mask)

/-- PERMB (R158): bytes chosen from old (bytes 7 to 4) and a (bytes 3 to 0). -/
def permb (old a b : Word) : Word :=
  let src : DWord := old ++ a
  let byte (k : Nat) : Nat :=
    let n := b.toNat / 16 ^ k % 16
    if 8 ≤ n then 0 else src.toNat / 256 ^ n % 256
  BitVec.ofNat 32 (packElems 8 [byte 0, byte 1, byte 2, byte 3])

/-- A 64-bit shift by a 32-bit count (R156). -/
def wideShift (i : Instr) (d a b : BitVec 6) (p : BitVec 3) (s : State) (fn : Nat) : Out :=
  aluWord i s (fun c g =>
    g.setV64 d.toNat (c.sel p.toNat) (fun l => shiftOp fn (g.v64 a.toNat l) (g.v b.toNat l).toNat))

/-- A unary operation on pairs (R156). -/
def wideUnary (i : Instr) (d a : BitVec 6) (p : BitVec 3) (s : State) (op : DWord → DWord) : Out :=
  aluWord i s (fun c g => g.setV64 d.toNat (c.sel p.toNat) (fun l => op (g.v64 a.toNat l)))

/-- SHL (R156). -/
def execShl (d a b : BitVec 6) (p : BitVec 3) (s : State) : Out :=
  vword2 (.shl d a b p) d a b p s (fun x y => shiftOp 0 x y.toNat)

/-- SHR (R156). -/
def execShr (d a b : BitVec 6) (p : BitVec 3) (s : State) : Out :=
  vword2 (.shr d a b p) d a b p s (fun x y => shiftOp 1 x y.toNat)

/-- SAR (R156). -/
def execSar (d a b : BitVec 6) (p : BitVec 3) (s : State) : Out :=
  vword2 (.sar d a b p) d a b p s (fun x y => shiftOp 2 x y.toNat)

/-- ROL (R156). -/
def execRol (d a b : BitVec 6) (p : BitVec 3) (s : State) : Out :=
  vword2 (.rol d a b p) d a b p s (fun x y => shiftOp 3 x y.toNat)

/-- ROR (R156). -/
def execRor (d a b : BitVec 6) (p : BitVec 3) (s : State) : Out :=
  vword2 (.ror d a b p) d a b p s (fun x y => shiftOp 4 x y.toNat)

/-- POPC (R156). -/
def execPopc (d a : BitVec 6) (p : BitVec 3) (s : State) : Out :=
  vword1 (.popc d a p) d a p s (fun x => BitVec.ofNat 32 (popCount x))

/-- CLZ (R156). -/
def execClz (d a : BitVec 6) (p : BitVec 3) (s : State) : Out :=
  vword1 (.clz d a p) d a p s (fun x => BitVec.ofNat 32 (clzCount x))

/-- CTZ (R156). -/
def execCtz (d a : BitVec 6) (p : BitVec 3) (s : State) : Out :=
  vword1 (.ctz d a p) d a p s (fun x => BitVec.ofNat 32 (ctzCount x))

/-- BREV (R156). -/
def execBrev (d a : BitVec 6) (p : BitVec 3) (s : State) : Out := vword1 (.brev d a p) d a p s revBits

/-- BFX_N32 (R157). -/
def execBfxN32 (d a b : BitVec 6) (p : BitVec 3) (s : State) : Out := vword2 (.bfxN32 d a b p) d a b p s (bfx false)

/-- BFX_I32 (R157). -/
def execBfxI32 (d a b : BitVec 6) (p : BitVec 3) (s : State) : Out := vword2 (.bfxI32 d a b p) d a b p s (bfx true)

/-- BFI (R157): d is also a source. -/
def execBfi (d a b : BitVec 6) (p : BitVec 3) (s : State) : Out :=
  aluWord (.bfi d a b p) s (fun c g =>
    g.setV d.toNat (c.sel p.toNat) (fun l => bfi (g.v d.toNat l) (g.v a.toNat l) (g.v b.toNat l)))

/-- PERMB (R158): d is also a source. -/
def execPermb (d a b : BitVec 6) (p : BitVec 3) (s : State) : Out :=
  aluWord (.permb d a b p) s (fun c g =>
    g.setV d.toNat (c.sel p.toNat) (fun l => permb (g.v d.toNat l) (g.v a.toNat l) (g.v b.toNat l)))

/-- SHL_B64 (R156). -/
def execShlB64 (d a b : BitVec 6) (p : BitVec 3) (s : State) : Out := wideShift (.shlB64 d a b p) d a b p s 0

/-- SHR_B64 (R156). -/
def execShrB64 (d a b : BitVec 6) (p : BitVec 3) (s : State) : Out := wideShift (.shrB64 d a b p) d a b p s 1

/-- SAR_B64 (R156). -/
def execSarB64 (d a b : BitVec 6) (p : BitVec 3) (s : State) : Out := wideShift (.sarB64 d a b p) d a b p s 2

/-- ROL_B64 (R156). -/
def execRolB64 (d a b : BitVec 6) (p : BitVec 3) (s : State) : Out := wideShift (.rolB64 d a b p) d a b p s 3

/-- ROR_B64 (R156). -/
def execRorB64 (d a b : BitVec 6) (p : BitVec 3) (s : State) : Out := wideShift (.rorB64 d a b p) d a b p s 4

/-- POPC_B64 (R156): the count in the even register, 0 in the odd one. -/
def execPopcB64 (d a : BitVec 6) (p : BitVec 3) (s : State) : Out :=
  wideUnary (.popcB64 d a p) d a p s (fun x => BitVec.ofNat 64 (popCount x))

/-- CLZ_B64 (R156): the count in the even register, 0 in the odd one. -/
def execClzB64 (d a : BitVec 6) (p : BitVec 3) (s : State) : Out :=
  wideUnary (.clzB64 d a p) d a p s (fun x => BitVec.ofNat 64 (clzCount x))

/-- CTZ_B64 (R156): the count in the even register, 0 in the odd one. -/
def execCtzB64 (d a : BitVec 6) (p : BitVec 3) (s : State) : Out :=
  wideUnary (.ctzB64 d a p) d a p s (fun x => BitVec.ofNat 64 (ctzCount x))

/-- BREV_B64 (R156). -/
def execBrevB64 (d a : BitVec 6) (p : BitVec 3) (s : State) : Out := wideUnary (.brevB64 d a p) d a p s revBits

end Sys2Proof.Machine
end

