-- ==== Sys2Proof/Machine/Compare.lean ====
section
/-! DEFINITION. Compares and predicates of majors ICMP, FCMP and PLOG (05 R162 to R165). -/
namespace Sys2Proof.Machine

/-- A compare: one truth value a selected lane, combined into pd (R162). -/
def compareWord (i : Instr) (d : BitVec 3) (m : BitVec 2) (p : BitVec 3) (s : State) (r : Group → Nat → Bool) : Out :=
  aluWord i s (fun c g =>
    g.setP d.toNat (c.sel p.toNat) (lanesWhere (fun l => combine m.toNat ((g.p d.toNat).getLsbD l) (r g l))))

/-- CMP (R162). -/
def execCmp (d : BitVec 3) (c : BitVec 4) (m : BitVec 2) (a b : BitVec 6) (t : BitVec 2) (p : BitVec 3) (s : State) :
    Out :=
  compareWord (.cmp d c m a b t p) d m p s (fun g l =>
    if t.toNat < 2 then icmp c.toNat t.toNat (g.v a.toNat l) (g.v b.toNat l)
    else icmp c.toNat t.toNat (g.v64 a.toNat l) (g.v64 b.toNat l))

/-- A source operand's code of an FCMP type in a lane (R163). -/
def cmpCode (g : Group) (t : BitVec 2) (n l : Nat) : Nat :=
  match t.toNat with
  | 1 => (g.v64 n l).toNat
  | 0 => (g.v n l).toNat
  | _ => (g.v n l).toNat % 65536

/-- FCMP (R163). -/
def execFcmp (d : BitVec 3) (c : BitVec 4) (m : BitVec 2) (a b : BitVec 6) (t : BitVec 2) (p : BitVec 3) (s : State) :
    Out :=
  compareWord (.fcmp d c m a b t p) d m p s (fun g l =>
    fcmp c.toNat ((fcmpFmt t.toNat).decode (cmpCode g t a.toNat l)) ((fcmpFmt t.toNat).decode (cmpCode g t b.toNat l)))

/-- FCLASS (R164). -/
def execFclass (d : BitVec 3) (m : BitVec 2) (a k : BitVec 6) (t : BitVec 2) (p : BitVec 3) (s : State) : Out :=
  compareWord (.fclass d m a k t p) d m p s (fun g l => fclass (fcmpFmt t.toNat) k (cmpCode g t a.toNat l))

/-- A PLOG word that writes a predicate from two (R165). -/
def plogWord (i : Instr) (d : BitVec 6) (p : BitVec 3) (s : State) (r : Group → Lanes) : Out :=
  aluWord i s (fun c g => g.setP d.toNat (c.sel p.toNat) (r g))

/-- PAND (R165). -/
def execPand (d a b : BitVec 6) (p : BitVec 3) (s : State) : Out :=
  plogWord (.pand d a b p) d p s (fun g => g.p a.toNat &&& g.p b.toNat)

/-- POR (R165). -/
def execPor (d a b : BitVec 6) (p : BitVec 3) (s : State) : Out :=
  plogWord (.por d a b p) d p s (fun g => g.p a.toNat ||| g.p b.toNat)

/-- PXOR (R165). -/
def execPxor (d a b : BitVec 6) (p : BitVec 3) (s : State) : Out :=
  plogWord (.pxor d a b p) d p s (fun g => g.p a.toNat ^^^ g.p b.toNat)

/-- PNOT (R165). -/
def execPnot (d a : BitVec 6) (p : BitVec 3) (s : State) : Out := plogWord (.pnot d a p) d p s (fun g => ~~~(g.p a.toNat))

/-- PMOV between predicates (R165). -/
def execPmov (d a : BitVec 6) (p : BitVec 3) (s : State) : Out := plogWord (.pmov d a p) d p s (fun g => g.p a.toNat)

/-- PMOV from a scalar (R165): lane l takes bit l. -/
def execPmovFromScalar (d a : BitVec 6) (p : BitVec 3) (s : State) : Out :=
  plogWord (.pmovFromScalar d a p) d p s (fun g => (g.s a.toNat).extractLsb' 0 32)

/-- PMOV to a scalar (R165): the predicate's active lanes. -/
def execPmovToScalar (d a : BitVec 6) (s : State) : Out :=
  aluWord (.pmovToScalar d a) s (fun c g => g.setS d.toNat ((g.p a.toNat &&& c.act).setWidth 64))

/-- SEL (R165). -/
def execSel (d a b : BitVec 6) (n p : BitVec 3) (s : State) : Out :=
  aluWord (.sel d a b n p) s (fun c g =>
    g.setV d.toNat (c.sel p.toNat) (fun l => if (g.p n.toNat).getLsbD l then g.v a.toNat l else g.v b.toNat l))

end Sys2Proof.Machine
end

