-- ==== Sys2Proof/Machine/Control.lean ====
section
/-! DEFINITION. Branches, loops, calls and traps of majors BR, JMP and LOOP (05 R189 to R193). -/
namespace Sys2Proof.Machine

/-- The target of an offset in words from the issuing word (R89). -/
def Cx.target (c : Cx) (off : Int) : Int := (c.pc.toNat : Int) + 4 * off

/-- A transfer of the whole sub-gang; outside the code section the word raises ILLOP instead (R89). -/
def transfer (c : Cx) (i : Instr) (s : State) (target : Int) (f : Group → Group) : State :=
  if c.team.inCode target then retireTo c i (s.modGroup c.ref f) (wrapI 32 target) else illop c s

/-- A conditional branch on a scalar (R190). -/
def branchWord (i : Instr) (a : BitVec 5) (o : BitVec 18) (s : State) (taken : Int → Bool) : Out :=
  word i s (fun c s => if taken (c.grp.s a.toNat).toInt then transfer c i s (c.target o.toInt) id else retire c i s)

/-- BEZ (R190). -/
def execBez (s : BitVec 5) (o : BitVec 18) (st : State) : Out := branchWord (.bez s o) s o st (fun x => x == 0)

/-- BNZ (R190). -/
def execBnz (s : BitVec 5) (o : BitVec 18) (st : State) : Out := branchWord (.bnz s o) s o st (fun x => x != 0)

/-- BLTZ (R190). -/
def execBltz (s : BitVec 5) (o : BitVec 18) (st : State) : Out := branchWord (.bltz s o) s o st (fun x => decide (x < 0))

/-- BGEZ (R190). -/
def execBgez (s : BitVec 5) (o : BitVec 18) (st : State) : Out := branchWord (.bgez s o) s o st (fun x => decide (0 ≤ x))

/-- BGTZ (R190). -/
def execBgtz (s : BitVec 5) (o : BitVec 18) (st : State) : Out := branchWord (.bgtz s o) s o st (fun x => decide (0 < x))

/-- BLEZ (R190). -/
def execBlez (s : BitVec 5) (o : BitVec 18) (st : State) : Out := branchWord (.blez s o) s o st (fun x => decide (x ≤ 0))

/-- LOOP (R190): decrements the group's single copy and branches while the new value is not 0. -/
def execLoopW (s : BitVec 5) (o : BitVec 18) (st : State) : Out :=
  word (.loopW s o) st (fun c st =>
    let v := c.grp.s s.toNat - 1
    if v = 0 then retire c (.loopW s o) (st.modGroup c.ref (fun g => g.setS s.toNat v))
    else transfer c (.loopW s o) st (c.target o.toInt) (fun g => g.setS s.toNat v))

/-- JMP (R189). -/
def execJmp (o : BitVec 20) (s : State) : Out := word (.jmp o) s (fun c s => transfer c (.jmp o) s (c.target o.toInt) id)

/-- JMPI (R191). -/
def execJmpi (s : BitVec 5) (st : State) : Out :=
  word (.jmpi s) st (fun c st => transfer c (.jmpi s) st (c.grp.s s.toNat).toNat id)

/-- CALL (R56, R192): the window slides and the return is pushed. `l` is slide/8. -/
def execCallW (l : BitVec 4) (o : BitVec 20) (s : State) : Out :=
  word (.callW l o) s (fun c s =>
    let slide := 8 * l.toNat
    let t := c.target o.toInt
    if !c.wholeGroup then illop c s
    else if !c.team.inCode t then illop c s
    else if c.grp.ctl.base + slide + 64 > c.grp.lines.length ∨ 32 ≤ c.grp.ctl.links.length then
      raiseOp c s 0x14 (BitVec.ofNat 56 (c.grp.ctl.base + slide))
    else transfer c (.callW l o) s t (fun g => g.modCtl (fun k =>
      { k with base := k.base + slide, links := (c.pc + 4, slide) :: k.links })))

/-- RET (R192). -/
def execRet (s : State) : Out :=
  word .ret s (fun c s =>
    if !c.wholeGroup then illop c s
    else
      match c.grp.ctl.links with
      | [] => illop c s
      | (pc, slide) :: rest =>
        transfer c .ret s pc.toNat (fun g => g.modCtl (fun k => { k with base := k.base - slide, links := rest })))

/-- TRAP (R193): a lane trap in every active lane. -/
def execTrapW (code : BitVec 16) (s : State) : Out :=
  trapWord (.trapW code) s (fun c => c.act) 0x03 (fun _ _ => code.setWidth 32) none (fun _ g => g)

end Sys2Proof.Machine
end

