-- ==== Sys2Proof/Machine/FloatAlu.lean ====
section
/-! DEFINITION. Floating point of majors FOP, FMAC and FSPC (05 R166 to R171). -/
namespace Sys2Proof.Machine

/-- A value computed for each selected lane in ascending order, the LFSR passing from lane to lane (R130). -/
def drawLanes {α : Type} (sel : Lanes) (st : Word) (f : Nat → Word → α × Word) : List (Nat × α) × Word :=
  (laneNums sel).foldl (fun acc l => let r := f l acc.2; (acc.1 ++ [(l, r.1)], r.2)) ([], st)

/-- A value computed for each code of a list in order, the LFSR passing along. -/
def drawList (st : Word) (xs : List Nat) (f : Nat → Word → Nat × Word) : List Nat × Word :=
  xs.foldl (fun acc x => let r := f x acc.2; (acc.1 ++ [r.1], r.2)) ([], st)

/-- Formats of FOP, FMAC and FSPC types (R102): 0 .f32, 1 .f64, 2 .f16x2, 3 .bf16x2. -/
def vecFmt (t : Nat) : Fmt :=
  match t with
  | 0 => fmtF32
  | 1 => fmtF64
  | 2 => fmtF16
  | _ => fmtBf16

/-- The element codes a lane of a register holds in a vector float type, the low one first (R121, R169). -/
def Group.codes (g : Group) (t n l : Nat) : List Nat :=
  match t with
  | 0 => [(g.v n l).toNat]
  | 1 => [(g.v64 n l).toNat]
  | _ => [(g.v n l).toNat % 65536, (g.v n l).toNat / 65536]

/-- Element codes written to the selected lanes of d; the LFSR keeps its new state. -/
def Group.setCodes (g : Group) (t d : Nat) (sel : Lanes) (r : List (Nat × List Nat) × Word) : Group :=
  (g.setVN d sel (fun l => packElems (vecFmt t).width ((lookupNat r.1 l).getD [])) (if t = 1 then 2 else 1)).modCtl
    (fun k => { k with lfsr := r.2 })

/-- A word that computes each element of d from the same elements of its sources (R166, R169). -/
def floatWord (i : Instr) (t : BitVec 2) (d : BitVec 6) (p : BitVec 3) (s : State) (srcs : Cx → List Nat)
    (op : Fmt → Mods → List Nat → Word → Nat × Word) : Out :=
  aluWord i s (fun c g =>
    let f := vecFmt t.toNat
    let md := modsOf c.hs
    let sel := c.sel p.toNat
    let r := drawLanes sel g.ctl.lfsr (fun l st =>
      let cols := (srcs c).map (fun n => g.codes t.toNat n l)
      drawList st (List.range (if t.toNat < 2 then 1 else 2)) (fun e st => op f md (cols.map (fun x => x.getD e 0)) st))
    g.setCodes t.toNat d.toNat sel r)

/-- FADD, FSUB and FMUL of two codes, rounded (R166, R167). -/
def fopArith (op : Rm → Exact → Exact → Exact) (f : Fmt) (md : Mods) (xs : List Nat) (st : Word) : Nat × Word :=
  finish f md (op md.rm (source f md (xs.getD 0 0)) (source f md (xs.getD 1 0))) st

/-- An exact form, whose mode has no effect and which draws nothing (R168). -/
def fopExact (op : Exact → Exact → Exact) (f : Fmt) (md : Mods) (xs : List Nat) (st : Word) : Nat × Word :=
  ((finish f { md with rm := .rne } (op (source f md (xs.getD 0 0)) (source f md (xs.getD 1 0))) st).1, st)

/-- The FMAC forms (R166): ±(a·b) ± c rounded once. -/
def fmacOp (negProd negAdd : Bool) (f : Fmt) (md : Mods) (xs : List Nat) (st : Word) : Nat × Word :=
  let prod := (source f md (xs.getD 0 0)).mul (source f md (xs.getD 1 0))
  let add := source f md (xs.getD 2 0)
  finish f md (Exact.add md.rm (if negProd then prod.neg else prod) (if negAdd then add.neg else add)) st

/-- FADD (R166 to R169). -/
def execFadd (d a b : BitVec 6) (t : BitVec 2) (p : BitVec 3) (s : State) : Out :=
  floatWord (.fadd d a b t p) t d p s (fun _ => [a.toNat, b.toNat]) (fopArith Exact.add)

/-- FSUB (R166 to R169). -/
def execFsub (d a b : BitVec 6) (t : BitVec 2) (p : BitVec 3) (s : State) : Out :=
  floatWord (.fsub d a b t p) t d p s (fun _ => [a.toNat, b.toNat]) (fopArith (fun rm x y => Exact.add rm x y.neg))

/-- FMUL (R166 to R169). -/
def execFmul (d a b : BitVec 6) (t : BitVec 2) (p : BitVec 3) (s : State) : Out :=
  floatWord (.fmul d a b t p) t d p s (fun _ => [a.toNat, b.toNat]) (fopArith (fun _ x y => x.mul y))

/-- FMIN (R166 to R169). -/
def execFmin (d a b : BitVec 6) (t : BitVec 2) (p : BitVec 3) (s : State) : Out :=
  floatWord (.fmin d a b t p) t d p s (fun _ => [a.toNat, b.toNat]) (fopExact (Exact.minMax false))

/-- FMAX (R166 to R169). -/
def execFmax (d a b : BitVec 6) (t : BitVec 2) (p : BitVec 3) (s : State) : Out :=
  floatWord (.fmax d a b t p) t d p s (fun _ => [a.toNat, b.toNat]) (fopExact (Exact.minMax true))

/-- FABS (R168). -/
def execFabs (d a : BitVec 6) (t : BitVec 2) (p : BitVec 3) (s : State) : Out :=
  floatWord (.fabs d a t p) t d p s (fun _ => [a.toNat]) (fopExact (fun x _ => x.abs))

/-- FNEG (R168). -/
def execFneg (d a : BitVec 6) (t : BitVec 2) (p : BitVec 3) (s : State) : Out :=
  floatWord (.fneg d a t p) t d p s (fun _ => [a.toNat]) (fopExact (fun x _ => x.neg))

/-- FMA (R166): the third operand is the old d. -/
def execFma (d a b : BitVec 6) (t : BitVec 2) (p : BitVec 3) (s : State) : Out :=
  floatWord (.fma d a b t p) t d p s (fun _ => [a.toNat, b.toNat, d.toNat]) (fmacOp false false)

/-- FMS (R166): the third operand is the old d. -/
def execFms (d a b : BitVec 6) (t : BitVec 2) (p : BitVec 3) (s : State) : Out :=
  floatWord (.fms d a b t p) t d p s (fun _ => [a.toNat, b.toNat, d.toNat]) (fmacOp false true)

/-- FNMA (R166): the third operand is the old d. -/
def execFnma (d a b : BitVec 6) (t : BitVec 2) (p : BitVec 3) (s : State) : Out :=
  floatWord (.fnma d a b t p) t d p s (fun _ => [a.toNat, b.toNat, d.toNat]) (fmacOp true false)

/-- FMAD (R166): the third operand is the HREG register. -/
def execFmad (d a b : BitVec 6) (t : BitVec 2) (p : BitVec 3) (s : State) : Out :=
  floatWord (.fmad d a b t p) t d p s (fun c => [a.toNat, b.toNat, hregOf c.hs]) (fmacOp false false)

/-- A special function (R170, R171): fn as R102 numbers them. -/
def fspcWord (i : Instr) (fn : Nat) (t : BitVec 2) (d a : BitVec 6) (p : BitVec 3) (s : State) : Out :=
  floatWord i t d p s (fun _ => [a.toNat]) (fun f md xs st => fspcCode f t.toNat fn md (xs.getD 0 0) st)

/-- RCP (R170, R171). -/
def execRcp (d a : BitVec 6) (t : BitVec 2) (p : BitVec 3) (s : State) : Out := fspcWord (.rcp d a t p) 0 t d a p s

/-- RSQ (R170, R171). -/
def execRsq (d a : BitVec 6) (t : BitVec 2) (p : BitVec 3) (s : State) : Out := fspcWord (.rsq d a t p) 1 t d a p s

/-- SQRT (R170, R171). -/
def execSqrt (d a : BitVec 6) (t : BitVec 2) (p : BitVec 3) (s : State) : Out := fspcWord (.sqrt d a t p) 2 t d a p s

/-- EXP2 (R170, R171). -/
def execExp2 (d a : BitVec 6) (t : BitVec 2) (p : BitVec 3) (s : State) : Out := fspcWord (.exp2 d a t p) 3 t d a p s

/-- LOG2 (R170, R171). -/
def execLog2 (d a : BitVec 6) (t : BitVec 2) (p : BitVec 3) (s : State) : Out := fspcWord (.log2 d a t p) 4 t d a p s

/-- SIN (R170, R171). -/
def execSin (d a : BitVec 6) (t : BitVec 2) (p : BitVec 3) (s : State) : Out := fspcWord (.sin d a t p) 5 t d a p s

/-- COS (R170, R171). -/
def execCos (d a : BitVec 6) (t : BitVec 2) (p : BitVec 3) (s : State) : Out := fspcWord (.cos d a t p) 6 t d a p s

/-- TANH (R170, R171). -/
def execTanh (d a : BitVec 6) (t : BitVec 2) (p : BitVec 3) (s : State) : Out := fspcWord (.tanh d a t p) 7 t d a p s

end Sys2Proof.Machine
end

