-- ==== Sys2Proof/Machine/Convert.lean ====
section
/-! DEFINITION. Conversions and block quantisation of majors CVT and QNT (04 R139 to R148). -/
namespace Sys2Proof.Machine

/-- Whether a format code names an integer type (R88). -/
def isIntFmt (t : Nat) : Bool := 10 ≤ t

/-- Whether an integer type is signed (R119). -/
def isSignedFmt (t : Nat) : Bool := t == 10 || t == 11 || t == 13

/-- A code of an integer type as an integer. -/
def intOfCode (t x : Nat) : Int :=
  let w := fmtBits t
  let u := x % 2 ^ w
  if isSignedFmt t && 2 ^ (w - 1) ≤ u then (u : Int) - 2 ^ w else u

/-- Least and greatest value of an integer type. -/
def intRange (t : Nat) : Int × Int :=
  let w := fmtBits t
  if isSignedFmt t then (-(2 ^ (w - 1)), 2 ^ (w - 1) - 1) else (0, 2 ^ w - 1)

/-- An integer as a code of a type. -/
def codeOfInt (t : Nat) (x : Int) : Nat := (x % (2 ^ fmtBits t : Int)).toNat

/-- A value rounded to an integer in a mode with the 16 bits of a draw, clamped (R129, R141): 0 for a NaN. -/
def roundInt (rm : Rm) (lo hi : Int) (x : Exact) (draw : Nat) : Int :=
  match x with
  | .nan => 0
  | .inf neg => if neg then lo else hi
  | .fin neg m e =>
    let (q, frac, half, exact) := cutAt m e 0
    let k : Int := chooseUnits rm neg q frac half exact draw
    clampI (if neg then -k else k) lo hi

/-- The LFSR after a rounding in a mode (R130). -/
def afterDraw (rm : Rm) (st : Word) : Word := if rm = .sr then lfsrDraw st else st

/-- One element converted from type s to type t (R141). -/
def cvtElem (t s : Nat) (md : Mods) (x : Nat) (st : Word) : Nat × Word :=
  if isIntFmt s then
    let n := intOfCode s x
    if isIntFmt t then
      let (lo, hi) := intRange t
      (codeOfInt t (clampI n lo hi), st)
    else finish (fmtOfCode t) md (.fin (n < 0) n.natAbs 0) st
  else
    let f := fmtOfCode s
    let v := source f md (x % 2 ^ f.width)
    if isIntFmt t then
      let st' := afterDraw md.rm st
      let (lo, hi) := intRange t
      (codeOfInt t (roundInt md.rm lo hi v (st'.toNat % 65536)), st')
    else finish (fmtOfCode t) md v st

/-- CVT (R139 to R142). -/
def execCvt (d a : BitVec 6) (t s : BitVec 4) (p : BitVec 3) (st : State) : Out :=
  aluWord (.cvt d a t s p) st (fun c g =>
    let n := cvtCount t.toNat s.toNat
    let ws := fmtBits s.toNat
    let wd := fmtBits t.toNat
    let sel := c.sel p.toNat
    let r := drawLanes sel g.ctl.lfsr (fun l f =>
      drawList f ((List.range n).map (fun e => g.elem a.toNat l e ws)) (cvtElem t.toNat s.toNat (modsOf c.hs)))
    (g.setVN d.toNat sel (fun l => packElems wd ((lookupNat r.1 l).getD [])) (n * wd / 32)).modCtl
      (fun k => { k with lfsr := r.2 }))

/-- CVTS (R139 to R142): one value between scalar registers. -/
def execCvts (d a : BitVec 6) (t s : BitVec 4) (st : State) : Out :=
  aluWord (.cvts d a t s) st (fun c g =>
    let r := cvtElem t.toNat s.toNat (modsOf c.hs) ((g.s a.toNat).toNat % 2 ^ fmtBits s.toNat) g.ctl.lfsr
    (g.setS d.toNat (BitVec.ofNat 64 r.1)).modCtl (fun k => { k with lfsr := r.2 }))

/-! ## QNT -/

/-- emax of an element format (R144). -/
def emaxOf (t : Nat) : Int :=
  match t with
  | 4 => 8
  | 5 => 15
  | 6 => 4
  | 7 => 2
  | 8 => 2
  | _ => 0

/-- An exact value times 2^k. -/
def scaleBy (x : Exact) (k : Int) : Exact :=
  match x with
  | .fin neg m e => .fin neg m (e + k)
  | y => y

/-- The code of a scaled value in an element format (R144). -/
def quantise (t : Nat) (md : Mods) (x : Exact) (st : Word) : Nat × Word :=
  let st' := afterDraw md.rm st
  let draw := st'.toNat % 65536
  if t = 10 then (codeOfInt 10 (roundInt md.rm (-127) 127 (scaleBy x 6) draw), st')
  else (roundNum (fmtOfCode t) { md with sat := false, ftz := false } x draw, st')

/-- floor(log2 x) of a finite nonzero magnitude. -/
def floorLog2 (m : Nat) (e : Int) : Int := (Nat.log2 m : Int) + e

/-- What QBLK makes of one quarter's block (R144): the scale word, and the codes of each lane. -/
def qblkQuarter (t : Nat) (md : Mods) (lanes : List (Nat × List Exact)) (st : Word) :
    Nat × List (Nat × List Nat) × Word :=
  let xs := lanes.flatMap Prod.snd
  let zeros := lanes.map (fun p => (p.1, p.2.map (fun _ => 0)))
  let special := xs.any (fun x => match x with
    | .fin .. => false
    | _ => true)
  if special then (0xFF, zeros, st)
  else
    let amax := xs.foldl (fun acc x => Exact.minMax true acc x.abs) (.fin false 0 0)
    match amax with
    | .fin _ m e =>
      if m = 0 then (0x17F, zeros, st)
      else
        let se := clampI (floorLog2 m e - emaxOf t) (-127) 127
        let r := lanes.foldl (fun acc p =>
          let q := p.2.foldl (fun a x => let y := quantise t md (scaleBy x (-se)) a.2; (a.1 ++ [y.1], y.2)) ([], acc.2)
          (acc.1 ++ [(p.1, q.1)], q.2)) ([], st)
        ((se + 127).toNat, r.1, r.2)
    | _ => (0xFF, zeros, st)

/-- QBLK (R144): each quarter of the group is one block. -/
def execQblk (d a : BitVec 6) (t : BitVec 4) (l : BitVec 1) (p : BitVec 3) (s : State) : Out :=
  aluWord (.qblk d a t l p) s (fun c g =>
    let md := modsOf c.hs
    let m := if l = 1 then 4 else 2
    let w := fmtBits t.toNat
    let sel := c.sel p.toNat
    let value (l e : Nat) : Exact :=
      let x := source fmtF32 md (g.v (a.toNat + e) l).toNat
      if md.sat then satNum x else x
    let r := (List.range 4).foldl (fun acc q =>
      let ls := (laneNums sel).filter (fun l => l / 8 == q)
      if ls.isEmpty then acc
      else
        let b := qblkQuarter t.toNat md (ls.map (fun l => (l, (List.range m).map (value l)))) acc.2
        (acc.1 ++ b.2.1.map (fun x => (x.1, packElems w x.2, b.1)), b.2.2)) (([] : List (Nat × Nat × Nat)), g.ctl.lfsr)
    ((g.setV d.toNat sel (fun l => BitVec.ofNat 32 ((lookupNat r.1 l).getD (0, 0)).1)).setV (d.toNat + 1) sel
      (fun l => BitVec.ofNat 32 ((lookupNat r.1 l).getD (0, 0)).2)).modCtl (fun k => { k with lfsr := r.2 }))

/-- The decoded value of an element code (R145). -/
def qntDecode (t x : Nat) : Exact :=
  if t = 10 then (let n := intOfCode 10 x; .fin (n < 0) n.natAbs (-6))
  else (let f := fmtOfCode t; f.decode (x % 2 ^ f.width))

/-- DQBLK (R145): each lane decodes with its own scale word. -/
def execDqblk (d a : BitVec 6) (t : BitVec 4) (l : BitVec 1) (p : BitVec 3) (s : State) : Out :=
  aluWord (.dqblk d a t l p) s (fun c g =>
    let md := { modsOf c.hs with inf := false }
    let m := if l = 1 then 4 else 2
    let w := fmtBits t.toNat
    let sel := c.sel p.toNat
    let r := drawLanes sel g.ctl.lfsr (fun l st =>
      let x := (g.v (a.toNat + 1) l).toNat % 256
      drawList st (List.range m) (fun e st =>
        let y := if x = 255 then .nan
          else scaleBy (qntDecode t.toNat ((g.v a.toNat l).toNat / 2 ^ (e * w) % 2 ^ w)) ((x : Int) - 127)
        finish fmtF32 md y st))
    (g.setVN d.toNat sel (fun l => packElems 32 ((lookupNat r.1 l).getD [])) m).modCtl (fun k => { k with lfsr := r.2 }))

/-- PACK6 (R146): sixteen FP6 bytes to a nibble pair, a crumb word and 0. -/
def execPack6 (d a : BitVec 6) (t : BitVec 4) (p : BitVec 3) (s : State) : Out :=
  aluWord (.pack6 d a t p) s (fun c g =>
    g.setVN d.toNat (c.sel p.toNat) (fun l =>
      let bs := (List.range 16).map (fun j => g.strByte a.toNat l j)
      packElems 4 (bs.map (fun x => x / 4 % 16)) + 2 ^ 64 * packElems 2 (bs.map (fun x => x % 4))) 4)

/-- UNPK6 (R146). -/
def execUnpk6 (d a : BitVec 6) (t : BitVec 4) (p : BitVec 3) (s : State) : Out :=
  aluWord (.unpk6 d a t p) s (fun c g =>
    g.setVN d.toNat (c.sel p.toNat) (fun l =>
      let nib := g.vN a.toNat l 2
      let crumb := (g.v (a.toNat + 2) l).toNat
      packElems 8 ((List.range 16).map (fun j => nib / 16 ^ j % 16 * 4 + crumb / 4 ^ j % 4))) 4)

/-- LGENC (R147): four FP32 elements to LG6 bytes. -/
def execLgenc (d a : BitVec 6) (p : BitVec 3) (s : State) : Out :=
  aluWord (.lgenc d a p) s (fun c g =>
    let sel := c.sel p.toNat
    let r := drawLanes sel g.ctl.lfsr (fun l st =>
      drawList st ((List.range 4).map (fun e => (g.v (a.toNat + e) l).toNat)) (lgEncode (modsOf c.hs)))
    (g.setV d.toNat sel (fun l => BitVec.ofNat 32 (packElems 8 ((lookupNat r.1 l).getD [])))).modCtl
      (fun k => { k with lfsr := r.2 }))

/-- LGDEC (R147): exact. -/
def execLgdec (d a : BitVec 6) (p : BitVec 3) (s : State) : Out :=
  aluWord (.lgdec d a p) s (fun c g =>
    g.setVN d.toNat (c.sel p.toNat) (fun l =>
      packElems 32 ((List.range 4).map (fun e =>
        roundNum fmtF32 Mods.plain (lgDecode (g.strByte a.toNat l e % 64)) 0))) 4)

end Sys2Proof.Machine
end

