-- ==== Sys2Proof/Machine/FenceWords.lean ====
section
/-! DEFINITION. Major FNC and the delivery of deferred faults (07 R252, 08 R278, R279, 13 R392, R393). -/
namespace Sys2Proof.Machine

/-- The pending batch of a team: its jobs that no batch holds yet (R252). -/
def Team.pendingJobs (t : Team) : List Job := t.jobs.filter (fun j => j.batch.isNone)

/-- The pending batch sealed with the next number (R252). A batch whose jobs are all done completes at once. -/
def Team.seal (t : Team) : Team :=
  if t.pendingJobs = [] then t
  else
    let n := t.lastBatch + 1
    let jobs := (t.jobs.map (fun j => if j.batch.isNone then { j with batch := some n } else j)).filter
      (fun j => !(j.batch == some n && j.state == .done))
    { t with
      lastBatch := n, jobs := jobs, batches := if jobs.any (fun j => j.batch == some n) then t.batches ++ [n] else t.batches }

/-- A sealing word is held where bt stands at its maximum (R53). -/
def sealHeld (c : Cx) : Bool := c.team.pendingJobs != [] && 15 ≤ c.team.batches.length

/-- What FENCEX and the FENCEX part of EXIT wait for (R279): the counters at 0, and with them every earlier access. -/
def fenceDone (c : Cx) (s : State) : Bool :=
  s.groupOps c.ref == [] && s.tlCount c.ref == 0 && s.btCount c.ref == 0 && c.grp.ctl.fence.isNone

/-- FENCE.scope (R278): later memory words are held until it takes effect, at once where nothing is outstanding. -/
def execFence (sc : BitVec 4) (s : State) : Out :=
  word (.fence sc) s (fun c s =>
    if c.grp.ctl.fence.isSome then s
    else
      settleGroup (retire c (.fence sc) (s.modGroup c.ref (fun g => g.modCtl (fun k => { k with fence := some sc.toNat })))) c.ref)

/-- The first steps of FENCEX and EXIT (R279): held, or still waiting with the batch sealed, or done and fenced. -/
def fencexSteps (c : Cx) (s : State) : State × Bool :=
  if sealHeld c ∧ c.grp.role = .producer then (s, false)
  else
    let s1 := if c.grp.role = .producer then s.modTeam c.ref.team Team.seal else s
    if fenceDone c s1 then (s1.fenceAt c.quarter 9, true) else (stayWaiting c s1, false)

/-- The deferred faults that a fence delivers: in a halted team none (13 R389). -/
def Cx.deferred (c : Cx) : List (Nat × BitVec 56) := if c.team.fr.halted && c.stuffed.isNone then [] else c.grp.flt.pending

/-- FENCEX (R279, R392). -/
def execFencex (s : State) : Out :=
  word .fencex s (fun c s =>
    match fencexSteps c s with
    | (s1, false) => s1
    | (s1, true) =>
      match c.deferred with
      | [] => retire c .fencex s1
      | (code, oper) :: _ =>
        if c.grp.flt.report then retire c .fencex (s1.modGroup c.ref (fun g => g.modFlt Flt.deliver))
        else if c.stuffed.isSome then raiseOp c s1 code oper
        else s1.halt c.ref code c.bundle oper true)

end Sys2Proof.Machine
end

