-- ==== Sys2Proof/Machine/CopyWords.lean ====
section
/-! DEFINITION. Copy jobs: major CPY and the copy unit (07 R247, R251, R252, 08 R280 to R286, 11 R349, R350). -/
namespace Sys2Proof.Machine

/-! ## Cards (R281) -/

/-- A card's field. -/
def cardField (c : BitVec 512) (lo bytes : Nat) : Nat := (c.extractLsb' (8 * lo) (8 * bytes)).toNat
def Job.src (j : Job) : Nat := cardField j.card 0 8
def Job.dst (j : Job) : Nat := cardField j.card 8 8
def Job.rowLen (j : Job) : Nat := cardField j.card 16 4
def Job.rows (j : Job) : Nat := cardField j.card 20 4
def Job.sstride (j : Job) : Int := (j.card.extractLsb' 192 64).toInt
def Job.dstride (j : Job) : Int := (j.card.extractLsb' 256 64).toInt
def Job.flags (j : Job) : Nat := cardField j.card 40 4
/-- The bytes a card declares (R281). -/
def Job.declared (j : Job) : Nat := j.rowLen * j.rows
/-- The record and first unit of a CPYC. -/
def Job.recNum (j : Job) : Nat := j.dst % 8
def Job.unitIndex (j : Job) : Nat := j.dst / 256 % 2 ^ 24

/-- The source's first byte as an offset or address, and the destination's. -/
def Job.srcStart (j : Job) : Nat := if j.form = 1 then j.src % 2 ^ 19 else j.src
def Job.dstStart (j : Job) : Nat := if j.form = 2 then j.dst % 2 ^ 19 else if j.form = 3 then j.unitIndex else j.dst

/-- The interval from the lowest to past the highest byte of n rows. -/
def rowSpan (start : Nat) (stride : Int) (rows len : Nat) : Int × Int :=
  let last := (start : Int) + ((rows : Int) - 1) * stride
  (min (start : Int) last, max (start : Int) last + len)

/-- A region of a job (R284): space (0 memory, 1 scratch, 2 + n record n) and interval. -/
def Job.readRegion (j : Job) : Nat × Int × Int :=
  (if j.form = 1 then 1 else 0, rowSpan j.srcStart j.sstride j.rows j.rowLen)
def Job.writeRegion (j : Job) : Nat × Int × Int :=
  if j.form = 3 then (2 + j.recNum, j.unitIndex, (j.unitIndex + j.rows : Nat))
  else (if j.form = 2 then 1 else 0, rowSpan j.dstStart j.dstride j.rows j.rowLen)

/-- Two regions share a byte. -/
def meets (a b : Nat × Int × Int) : Bool := a.1 == b.1 && decide (a.2.1 < b.2.2 ∧ b.2.1 < a.2.2)

/-- Whether a span lies in a space of n bytes. -/
def inside (r : Int × Int) (n : Nat) : Bool := decide (0 ≤ r.1 ∧ r.2 ≤ (n : Int))

/-- The fields of a card meet R281 (log 16: bits of DST beyond the named ones are not looked at). -/
def Job.cardOk (j : Job) : Bool :=
  (if j.form = 1 then j.src / 2 ^ 19 == 0 else j.src / 2 ^ 56 == 0) &&
  1 ≤ j.rowLen && j.rowLen ≤ 2 ^ 24 && 1 ≤ j.rows && j.rows ≤ 65536 && j.flags / 4 == 0 && cardField j.card 44 20 == 0 &&
  (j.form != 3 || j.dstride == 0) && j.declared ≤ 2 ^ 32 - 1

/-- Whether the copy unit accepts a job (R283). -/
def Job.accepted (j : Job) (t : Team) : Bool :=
  let r := t.obRec j.recNum
  let src := rowSpan j.srcStart j.sstride j.rows j.rowLen
  let dst := rowSpan j.dstStart j.dstride j.rows j.rowLen
  j.cardOk && inside src (if j.form = 1 then t.scratchSize else 2 ^ 56) &&
  (if j.form = 3 then
    r.bound && j.rowLen == descUnit r.desc && decide (j.unitIndex + j.rows ≤ descUnits r.desc) && j.src % 256 == 0 &&
    (j.rows == 1 || j.sstride % 256 == 0)
  else inside dst (if j.form = 2 then t.scratchSize else 2 ^ 56))

/-! ## The words -/

/-- Whether a copy word is held: what holds any access, and 32 jobs not complete (R282). -/
def copyHeld (c : Cx) (s : State) (va : Nat) : Bool :=
  accessHeld s c false false 0 || 32 ≤ (c.team.jobs.filter (fun j => j.state != .done)).length || opsBehind c s va 64

/-- The issue of a copy word (R282): the card is read, the job joins the pending batch. -/
def copyWord (i : Instr) (form : Nat) (a : BitVec 5) (w : BitVec 4) (q : BitVec 1) (s : State) : Out :=
  word i s (fun c s =>
    let v := (c.grp.s a.toNat).toNat
    if copyHeld c s v then s
    else if v % 64 ≠ 0 ∨ 2 ^ 56 ≤ v then raiseOp c s 0x18 (BitVec.ofNat 56 v)
    else
      let enterJob (s : State) (card : Nat) : State :=
        let r := s.fresh
        let j : Job :=
          { id := r.1, form := form, cardVa := BitVec.ofNat 56 v, card := BitVec.ofNat 512 card,
            post := if q = 1 then some w.toNat else none, state := .issued, landed := [], batch := none, page := none, serviced := [] }
        retire c i (r.2.modTeam c.ref.team (fun t => { t with jobs := t.jobs ++ [j] }))
      match s.vRead c.core c.team.shape.ctx (c.level == 0) .touching v 64 with
      | (s1, .ok card) => enterJob s1 card
      | (s1, .bad code oper card) => enterJob (s1.noteBad c.core c.team.shape.ctx (c.level == 0) c.ref code oper) card
      | (s1, .wait k va) =>
        (match c.stuffed with
        | some x => s1.endExec x 4 0
        | none => parkWord c s1 [(0, va, k)] [])
      | (s1, .deny va) => raiseOp c s1 0x18 (BitVec.ofNat 56 va)
      | (s1, .hold) => s1)

/-- CPY (R280, R282). -/
def execCpy (a : BitVec 5) (w : BitVec 4) (q : BitVec 1) (s : State) : Out := copyWord (.cpy a w q) 0 a w q s
/-- CPYG (R280, R282). -/
def execCpyg (a : BitVec 5) (w : BitVec 4) (q : BitVec 1) (s : State) : Out := copyWord (.cpyg a w q) 1 a w q s
/-- CPYS (R280, R282). -/
def execCpys (a : BitVec 5) (w : BitVec 4) (q : BitVec 1) (s : State) : Out := copyWord (.cpys a w q) 2 a w q s
/-- CPYC (R280, R282). -/
def execCpyc (a : BitVec 5) (w : BitVec 4) (q : BitVec 1) (s : State) : Out := copyWord (.cpyc a w q) 3 a w q s

/-- CLOSE sD (R252). -/
def execClose (d : BitVec 5) (s : State) : Out :=
  word (.close d) s (fun c s =>
    if sealHeld c then s
    else
      let t := c.team.seal
      retire c (.close d) ((s.modTeam c.ref.team Team.seal).modGroup c.ref (fun g => g.setS d.toNat (t.lastBatch.setWidth 64))))

/-! ## The copy unit -/

/-- A job done: complete for its batch, which completes with its last job (R252). -/
def Team.finishJob (t : Team) (id : Nat) : Team :=
  let jobs := t.jobs.map (fun j => if j.id == id then { j with state := .done } else j)
  match (t.jobs.find? (fun j => j.id == id)).bind (fun j => j.batch) with
  | none => { t with jobs := jobs }
  | some b =>
    if jobs.any (fun j => j.batch == some b && j.state != .done) then { t with jobs := jobs }
    else { t with jobs := jobs.filter (fun j => !(j.batch == some b)), batches := t.batches.filter (fun x => x != b) }

/-- The producer of a team as a group reference. -/
def producerRef (team : Nat) : GRef := ⟨team, 0⟩

/-- A job that ends in a fault (R283, R285): bytes it declared land with ERR, its code is recorded, it counts as complete. -/
def State.failJob (s : State) (team : Nat) (j : Job) (left code : Nat) : State :=
  let s1 := match j.post with
    | some n => s.barEvent team n (.land left true)
    | none => s
  (s1.deferFault (producerRef team) code j.cardVa).modTeam team (fun t => t.finishJob j.id)

/-- JOB_ACCEPT (R283): accepted or rejected as a whole. -/
def execJobAccept (team job : Nat) (s : State) : Out :=
  .next (match s.team? team with
    | none => s
    | some t =>
      match t.jobs.find? (fun j => j.id == job && j.state == .issued) with
      | none => s
      | some j =>
        if j.accepted t then
          s.modTeam team (fun t => { t with jobs := t.jobs.map (fun j => if j.id == job then { j with state := .running } else j) })
        else s.failJob team j j.declared 0x40)

/-- The bytes of a row that have landed, one bit each. -/
def Job.rowMask (j : Job) (row : Nat) : Nat := j.landed.getD row 0

/-- A list with an entry changed, grown with zeros where it is short. -/
def setGrow : List Nat → Nat → Nat → List Nat
  | [], 0, v => [v]
  | [], n + 1, v => 0 :: setGrow [] n v
  | _ :: xs, 0, v => v :: xs
  | x :: xs, n + 1, v => x :: setGrow xs n v

/-- Set bits of a number. -/
def popNat (n : Nat) : Nat := (List.range (Nat.log2 n + 1)).foldl (fun acc i => acc + n / 2 ^ i % 2) 0

/-- Bytes of a job that have landed. -/
def Job.landedCount (j : Job) : Nat := (j.landed.map popNat).foldl (· + ·) 0

/-- Whether a job may access memory now: accepted, every earlier job it depends on complete (R284), and every access that its
producer made before it performed, those in the matrix unit and the engines among them (R282, R330, R350). -/
def Job.mayRun (j : Job) (s : State) (t : Team) : Bool :=
  j.state == .running && j.page.isNone &&
  t.jobs.all (fun e => !(decide (e.id < j.id) && e.state != .done &&
    (meets e.writeRegion j.readRegion || meets e.writeRegion j.writeRegion || meets e.readRegion j.writeRegion))) &&
  (s.groupOps (producerRef t.id)).all (fun o => !(decide (o.id < j.id) && (o.sel &&& ~~~o.served) != 0)) &&
  (s.mxAccesses (producerRef t.id)).all (fun a => !decide (a.entry.id < j.id))

/-- The address or offset of a byte of a row. -/
def rowAt (start : Nat) (stride : Int) (row lo : Nat) : Nat := ((start : Int) + row * stride + lo).toNat

/-- n bytes of a job's source read. -/
def Job.readSource (j : Job) (s : State) (t : Team) (core row lo n : Nat) : State × Direct :=
  let at_ := rowAt j.srcStart j.sstride row lo
  if j.form = 1 then (s, .ok (t.scratchNat at_ n))
  else s.vRead core t.shape.ctx (t.priv == 0) (if j.flags % 2 = 1 then .bypassing else .touching) at_ n

/-- n bytes of a job's destination written. -/
def Job.writeDest (j : Job) (s : State) (t : Team) (core row lo n v : Nat) : State × Direct :=
  match j.form with
  | 2 => (s.modTeam t.id (fun t => t.setScratchNat (rowAt j.dstStart j.dstride row lo) n v), .ok 0)
  | 3 =>
    (s.modTeam t.id (fun t => t.modRec j.recNum (fun r =>
      ({ r with range := setWordsNat r.range ((j.unitIndex + row) * descUnit r.desc + lo) n v }).tagUnit (j.unitIndex + row)
        (rowAt j.srcStart j.sstride row 0))), .ok 0)
  | _ =>
    s.vWrite core t.shape.ctx (t.priv == 0) (if j.flags / 2 % 2 = 1 then .bypassing else .touching)
      (rowAt j.dstStart j.dstride row lo) n v

/-- A job waits for a page (R285, R434). -/
def State.jobWaits (s : State) (t : Team) (core : Nat) (j : Job) (kind va : Nat) : State :=
  (s.modTeam t.id (fun t => { t with jobs := t.jobs.map (fun x => if x.id == j.id then { x with page := some (va / 65536) } else x) })).faultFor
    t core (0xFF, 0) va kind (.job t.id j.id)

/-- Whether a page is unmapped after service: the driver has answered for it, and it is still not present (R285, log 62). -/
def Job.unmapped (j : Job) (kind va : Nat) : Bool := decide (kind ≤ 2) && j.serviced.contains (va / 65536)

/-- The pages of memory that n bytes of a row lie in, at the source and at the destination. -/
def Job.pagesOf (j : Job) (row lo n : Nat) : List Nat :=
  let span (va : Nat) : List Nat := (List.range ((va + n + 65535) / 65536 - va / 65536)).map (fun i => va / 65536 + i)
  (if j.form = 1 then [] else span (rowAt j.srcStart j.sstride row lo)) ++
  (if j.form = 2 ∨ j.form = 3 then [] else span (rowAt j.dstStart j.dstride row lo))

/-- The bytes in which a job's writes land: an operand buffer's elements whole, which for FP6 lie in two planes of the unit (R211, R216);
elsewhere single bytes (R333). -/
def Job.grain (j : Job) (t : Team) : Nat :=
  if j.form = 3 then
    let f := descFmt (t.obRec j.recNum).desc
    if f = 6 ∨ f = 7 then max 1 j.rowLen else max 1 (elemBits f / 8)
  else 1

/-- Bytes lo to lo + n − 1 of a row copied (R247, R281, R284 to R286). -/
def State.landJob (s : State) (t : Team) (core : Nat) (j : Job) (row lo n : Nat) : State :=
  let bits := (2 ^ n - 1) * 2 ^ lo
  if !j.mayRun s t || n = 0 || lo % j.grain t != 0 || n % j.grain t != 0 || j.rows ≤ row || j.rowLen < lo + n || (j.rowMask row &&& bits) != 0 then s
  else
    let fail (s : State) : State := s.failJob t.id j (j.declared - j.landedCount) 0x41
    match j.readSource s t core row lo n with
    | (s1, .hold) => s1
    | (s1, .wait k va) => if j.unmapped k va then fail s1 else s1.jobWaits t core j k va
    | (s1, .deny _) => fail s1
    | (s1, .bad code oper _) => fail (if code = 0x44 then s1.countReader core t.shape.ctx (t.priv == 0) t.id oper else s1)
    | (s1, .ok v) =>
      match j.writeDest s1 t core row lo n v with
      | (s2, .hold) => s2
      | (s2, .wait k va) => if j.unmapped k va then fail s2 else s2.jobWaits t core j k va
      | (s2, .deny _) => fail s2
      | (s2, .bad ..) => fail s2
      | (s2, .ok _) =>
        let s3 := s2.modTeam t.id (fun t => { t with jobs := t.jobs.map (fun x =>
          if x.id == j.id then { x with serviced := x.serviced.filter (fun g => !(j.pagesOf row lo n).contains g), landed := setGrow x.landed row (x.rowMask row ||| bits) } else x) })
        match j.post with
        | some b => s3.barEvent t.id b (.land n false)
        | none => s3

/-- JOB_LAND (R247, R284). -/
def execJobLand (team job row lo n : Nat) (s : State) : Out :=
  .next (match s.team? team with
    | none => s
    | some t =>
      match t.jobs.find? (fun j => j.id == job), t.core? with
      | some j, some core => (s.landJob t core j row lo n).sweep
      | _, _ => s)

/-- JOB_COMPLETE (R286): every declared byte has landed. -/
def execJobComplete (team job : Nat) (s : State) : Out :=
  .next (match s.team? team with
    | none => s
    | some t =>
      match t.jobs.find? (fun j => j.id == job && j.state == .running) with
      | some j => if j.landedCount = j.declared then s.modTeam team (fun t => t.finishJob job) else s
      | none => s)

/-- JOB_STOP (R285): the job meets a failure at its next byte; where there is none, nothing. -/
def execJobStop (team job : Nat) (s : State) : Out :=
  .next (match s.team? team with
    | none => s
    | some t =>
      match t.jobs.find? (fun j => j.id == job), t.core? with
      | some j, some core =>
        let row := (List.range j.rows).find? (fun r => j.rowMask r != 2 ^ j.rowLen - 1)
        (match row with
        | none => s
        | some r =>
          let lo := ((List.range j.rowLen).find? (fun b => j.rowMask r / 2 ^ b % 2 == 0)).getD 0
          let s1 := s.landJob t core j r lo (j.grain t)
          let stopped : Bool := match s1.team? team with
            | some u => !(u.jobs.any (fun x => x.id == job && x.state == .running))
            | none => false
          if stopped then s1.sweep else s)
      | _, _ => s)

end Sys2Proof.Machine
end

