-- ==== Sys2Proof/Machine/Diverge.lean ====
section
/-! DEFINITION. Divergence and reconvergence: major DVG, the completion of joins, the release at an RCV, and the end of
lanes and slices (02 R44, 05 R194 to R198, 07 R255). -/
namespace Sys2Proof.Machine

/-- The slices of a mask that share a PC share a tag, that of their lowest (R44). -/
def Group.retagByPc (g : Group) (m : BitVec 8) : Group :=
  g.modSlices m (fun _ sl =>
    { sl with tag := (((sliceNums m).filter (fun j => (g.slice j).pc == sl.pc)).head?).getD sl.tag })

/-- The slices of a sub-gang that its EXIT leaves alive: where they go on at one PC they keep their tag, which no other sub-gang holds
(R44); where their stacks send them to several, they divide. -/
def Group.retagParted (g : Group) (m : BitVec 8) : Group :=
  match (sliceNums m).map (fun k => (g.slice k).pc) with
  | [] => g
  | p :: ps => if ps.all (fun q => q == p) then g else g.retagByPc m

/-- The accesses that a group has issued come before those it issues from now on (R200): what a completed REGANG or RCV makes of it. -/
def Group.orderedTo (n : Nat) (g : Group) : Group := g.modCtl (fun k => { k with joinTo := n })

/-! ## BRP -/

/-- What BRP does to one slice (R195): the slice, and whether it goes to the target. -/
def brpSlice (sl : Slice) (taken : BitVec 4) (next : Word) : Slice × Bool :=
  let push (pend : BitVec 4) : List MaskEntry :=
    { full := sl.active, pend := pend, pendPc := next, resumePc := next } :: sl.stack
  if taken = sl.active then ({ sl with stack := push 0 }, true)
  else if taken = 0 then ({ sl with stack := push 0 }, false)
  else ({ sl with stack := push (sl.active &&& ~~~taken), active := taken }, true)

/-- The active lanes of a slice for which a predicate holds. -/
def Group.takenOf (g : Group) (n k : Nat) : BitVec 4 := (g.slice k).active &&& (g.p n).extractLsb' (4 * k) 4

/-- BRP pN, label (R195). -/
def execBrp (p : BitVec 3) (o : BitVec 18) (s : State) : Out :=
  word (.brp p o) s (fun c s =>
    let goes (k : Nat) : Bool := (brpSlice (c.grp.slice k) (c.grp.takenOf p.toNat k) (c.pc + 4)).2
    let dest := c.target o.toInt
    let leave : BitVec 8 := (sliceNums c.slices).foldl (fun m k => if goes k then m ||| ((1#8) <<< k) else m) 0
    if (sliceNums c.slices).any (fun k => 8 ≤ (c.grp.slice k).stack.length) then illop c s
    else if leave ≠ 0 ∧ c.team.inCode dest = false then illop c s
    else
      let s1 := s.modGroup c.ref (fun g => g.modSlices c.slices (fun k sl => (brpSlice sl (c.grp.takenOf p.toNat k) (c.pc + 4)).1))
      let s2 := retireBy c (.brp p o) s1 (fun k => if goes k then (wrapI 32 dest, true) else (c.pc + 4, false))
      let stay := c.slices &&& ~~~leave
      if leave = 0 ∨ stay = 0 then s2 else s2.modGroup c.ref (fun g => g.divide leave stay))

/-! ## REGANG -/

/-- REGANG label (R198): arms a join, at which every live slice's depth is recorded. -/
def execRegang (o : BitVec 18) (s : State) : Out :=
  word (.regang o) s (fun c s =>
    if 4 ≤ c.grp.ctl.joins.length then illop c s
    else
      retire c (.regang o) (s.modGroup c.ref (fun g => g.modCtl (fun k =>
        { k with joins := (wrapI 32 (c.target o.toInt), g.slices.map (fun sl => sl.stack.length)) :: k.joins }))))

/-- A slice at a join that completes (R198): its stack cut back, its mask the F of the lowest entry removed. -/
def joinSlice (sl : Slice) (depth : Nat) : Slice :=
  let cut := sl.stack.take (sl.stack.length - depth)
  { sl with
    stack := sl.stack.drop (sl.stack.length - depth), active := ((cut.getLast?).map (fun e => e.full)).getD sl.active,
    wait := .running, landed := true, partners := [], hints := [], bundle := .none }

/-- Whether the armed join of a group completes: every live slice waits at its label. -/
def Group.joinReady (g : Group) : Bool :=
  match g.ctl.joins with
  | [] => false
  | (label, _) :: _ =>
    g.liveSlices != 0 && (sliceNums g.liveSlices).all (fun k => (g.slice k).wait == .atJoin && (g.slice k).pc == label)

/-- The join completes (R44, R198). Where the next armed label is the same address the slices wait there again, and that entry completes next (DESIGN
CHOICE, log 85): step 4 of R198 says that they issue the word at the label, and its second paragraph that they wait at the label on top. -/
def Group.completeJoin (g : Group) : Group :=
  match g.ctl.joins with
  | [] => g
  | (_, depths) :: rest =>
    let g1 := (g.modSlices g.liveSlices (fun k sl => joinSlice sl (depths.getD k 0))).retag g.liveSlices
    (g1.modCtl (fun k => { k with joins := rest })).settle

/-- JOIN_COMPLETE (R198). -/
def execJoinComplete (team g : Nat) (s : State) : Out :=
  .next (match s.group? ⟨team, g⟩ with
    | some x => if x.joinReady then s.modGroup ⟨team, g⟩ (fun y => y.completeJoin.orderedTo s.dev.nextId) else s
    | none => s)

/-! ## RCV -/

/-- What RCV does to one slice at an address (R196). -/
def rcvSlice (sl : Slice) (at_ : Word) : Slice :=
  match sl.stack with
  | [] => { sl with pc := at_ + 4, landed := true }
  | e :: rest =>
    if e.pend ≠ 0 then
      { sl with active := e.pend, stack := { e with pend := 0, resumePc := at_ + 4 } :: rest, pc := e.pendPc, landed := true }
    else { sl with active := e.full, stack := rest, pc := at_ + 4, landed := true }

/-- A slice's partners that are live. -/
def Group.livePartners (g : Group) (k : Nat) : List Nat := (g.slice k).partners.filter (fun j => (g.slice j).live)

/-- RCV (R196, R197): slices parted by a wave split wait for their partners, the others apply it. -/
def execRcv (s : State) : Out :=
  word .rcv s (fun c s =>
    let waits : BitVec 8 := (sliceNums c.slices).foldl (fun m k => if c.grp.livePartners k = [] then m else m ||| ((1#8) <<< k)) 0
    let goes := c.slices &&& ~~~waits
    let after (k : Nat) : Slice := rcvSlice (c.grp.slice k) c.pc
    let s1 := retireBy c .rcv s (fun k => if goes.getLsbD k then ((after k).pc, true) else (c.pc, false))
    s1.modGroup c.ref (fun g =>
      let g1 := g.modSlices goes (fun k sl => { sl with active := (after k).active, stack := (after k).stack, partners := [] })
      let g2 := g1.modSlices waits (fun _ sl => { sl with wait := .atRcv })
      let g3 := ((g2.retagByPc goes).retag waits).settle
      if goes = 0 then g3 else g3.orderedTo s.dev.nextId))

/-- The slices that may leave the RCV at an address (R197): those whose own live partners all wait. Where the partner sets of the slices at one
RCV differ, the others stay (DESIGN CHOICE, log 73): R197 says both that a slice waits for its partners and that the slices are released
together. -/
def Group.rcvReady (g : Group) (at_ : Word) : BitVec 8 :=
  (sliceNums g.liveSlices).foldl (fun m k =>
    let sl := g.slice k
    if sl.wait == .atRcv && sl.pc == at_ &&
        (g.livePartners k).all (fun j => (g.slice j).wait == .atRcv || (g.slice j).wait == .atJoin)
    then m ||| ((1#8) <<< k) else m) 0

/-- Slices of a mask that wait at one RCV are released together and apply R196 (R44, R197). -/
def Group.releaseAt (g : Group) (at_ : Word) (m : BitVec 8) : Group :=
  (g.modSlices m (fun _ sl => { rcvSlice sl at_ with wait := .running, partners := [] })).retagByPc m

/-- The RCVs at which slices of a group wait. -/
def Group.rcvsOf (g : Group) : List Word :=
  (((sliceNums g.liveSlices).filter (fun k => (g.slice k).wait == .atRcv)).map (fun k => (g.slice k).pc)).eraseDups

/-- Every RCV whose condition holds is released, each with its own slices (R197): those that hold at once are decided together, since slices
that go on no longer wait. -/
def Group.releaseRcvs (g : Group) : Group :=
  (g.rcvsOf.foldl (fun (x : Group) a => x.releaseAt a (g.rcvReady a)) g).settle

/-- RCV_RELEASE (R197): of an RCV whose condition holds, and of those whose conditions hold with it. -/
def execRcvRelease (team g : Nat) (at_ : Word) (s : State) : Out :=
  .next (match s.group? ⟨team, g⟩ with
    | some x => if x.rcvReady at_ = 0 then s else s.modGroup ⟨team, g⟩ (fun y => y.releaseRcvs.orderedTo s.dev.nextId)
    | none => s)

/-! ## The end of lanes (05 R194) -/

/-- Where a slice whose active lanes have ended goes on: active mask, stack, PC; none where it ends. -/
def exitScan : List MaskEntry → Option (BitVec 4 × List MaskEntry × Word)
  | [] => none
  | e :: rest =>
    if e.pend ≠ 0 then some (e.pend, { e with pend := 0 } :: rest, e.pendPc)
    else if e.full ≠ 0 then some (e.full, rest, e.resumePc)
    else exitScan rest

/-- Lanes removed from every stored mask of a slice. -/
def Slice.forget (sl : Slice) (gone : BitVec 4) : Slice :=
  { sl with stack := sl.stack.map (fun e => { e with full := e.full &&& ~~~gone, pend := e.pend &&& ~~~gone }) }

/-- Lanes of a slice end; where no active lane is left it goes on as R194 gives, or ends. -/
def Slice.endLanes (sl : Slice) (gone : BitVec 4) : Slice :=
  let x := sl.forget gone
  let left := sl.active &&& ~~~gone
  if left ≠ 0 then { x with active := left }
  else
    match exitScan x.stack with
    | some (m, st, pc) => { x with active := m, stack := st, pc := pc, landed := true, wait := .running }
    | .none => { x with active := 0, stack := [], live := false, wait := .running }

end Sys2Proof.Machine
end

