-- ==== Sys2Proof/Machine/SpiralWords.lean ====
section
/-! DEFINITION. Major SPL (08 R272, R273) and the events of the spirals' fronts and fills (09 R311, R315). -/
namespace Sys2Proof.Machine

/-- An SPL form: its address need not be aligned, and needs R alone (R272). -/
def splMem (c : Cx) (kind : OpKind) (d : Nat) (b : BitVec 3) (o : BitVec 6) (p : BitVec 3) : MemWord :=
  let sel := c.sel p.toNat
  { kind := kind, acc := 1, width := 8, align := 1, sel := sel, checked := sel, base := b.toNat,
    off := c.laneOff o.toNat, data := fun _ => 0, data2 := fun _ => 0, dst := c.grp.ctl.base + d, order := 0, scope := 0,
    bypass := false, byLd := kind == .dist || kind == .pin }

/-- SDIST (R272). -/
def execSdist (d : BitVec 6) (b : BitVec 3) (o : BitVec 6) (p : BitVec 3) (s : State) : Out :=
  word (.sdist d b o p) s (fun c s => issueMem c (.sdist d b o p) s (splMem c .dist d.toNat b o p))
/-- SPIN (R272, R307). -/
def execSpin (d : BitVec 6) (b : BitVec 3) (o : BitVec 6) (p : BitVec 3) (s : State) : Out :=
  word (.spin d b o p) s (fun c s => issueMem c (.spin d b o p) s (splMem c .pin d.toNat b o p))
/-- SUNPIN (R272, R308). -/
def execSunpin (b : BitVec 3) (o : BitVec 6) (p : BitVec 3) (s : State) : Out :=
  word (.sunpin b o p) s (fun c s => issueMem c (.sunpin b o p) s (splMem c .unpin 0 b o p))
/-- SBYP (R272, R310). -/
def execSbyp (b : BitVec 3) (o : BitVec 6) (p : BitVec 3) (s : State) : Out :=
  word (.sbyp b o p) s (fun c s => issueMem c (.sbyp b o p) s (splMem c .setByp 0 b o p))
/-- SCLR (R272, R310). -/
def execSclr (b : BitVec 3) (o : BitVec 6) (p : BitVec 3) (s : State) : Out :=
  word (.sclr b o p) s (fun c s => issueMem c (.sclr b o p) s (splMem c .clrByp 0 b o p))
/-- STOUCH (R272). -/
def execStouch (b : BitVec 3) (o : BitVec 6) (p : BitVec 3) (s : State) : Out :=
  word (.stouch b o p) s (fun c s => issueMem c (.stouch b o p) s (splMem c .touch 0 b o p))

/-- ADMISSION (R311 to R313): one cycle of a quarter's front, once in a cycle. -/
def execAdmission (q : Nat) (s : State) : Out :=
  .next (if (s.quarter q).frontDone then s else (s.frontCycle q).sweep)

/-- Whether the fill of a copy waits for a refresh of its channel (21 R502). -/
def State.fillHeld (s : State) (q tile : Nat) : Bool :=
  match (s.quarter q).copy? tile with
  | some c => s.refreshing q (4096 * tile) (leafTier c.leaf.1)
  | none => false

/-- FILL_LANDS (R315, 21 R502). -/
def execFillLands (q tile : Nat) (s : State) : Out := .next (if s.fillHeld q tile then s else (s.fillLands q tile).sweep)

/-- Whether a load of a core's words waits for a refresh (21 R502): before the front, or behind the fill of its tile. -/
def State.loadWaits (s : State) (core : Nat) : Bool :=
  let q := quarterOf core
  s.ops.any (fun o => (o.kind == .load || o.kind.isUniform) && (o.sel &&& ~~~o.served) != 0 && ((s.team? o.team).bind Team.core?) == some core &&
    ((s.core core).reqs.any (fun r => r.op == o.id && s.loadHeld q r o) ||
     (s.quarter q).copies.any (fun c => c.filling && c.queue.any (fun w => w.1 == o.id) && s.refreshing q (4096 * c.tile) (leafTier c.leaf.1))))

/-- MOTION_END (R314). -/
def execMotionEnd (q tile : Nat) (s : State) : Out :=
  .next (s.modQuarter q (fun k => k.modCopy tile (fun c => { c with motion := match c.motion with
    | some m => if m ≤ s.cycle then none else some m
    | none => none })))

/-- WRITE_BACK_AT_HOME (R317): the write-back at a place of the list reaches its home. -/
def execWriteBackAtHome (entry : Nat) (s : State) : Out :=
  .next (match s.wbq[entry]? with
    | none => s
    | some w =>
      -- write-backs of one tile from one quarter stay in order (R335)
      if (s.wbq.take entry).any (fun x => x.tile == w.tile && x.quarter == w.quarter) then s
      else ({ s with wbq := s.wbq.eraseIdx entry }).applyWb w)

/-- DRAIN_REQUEST (R318): a quarter of a home's mask writes back every tile that is dirty now, and its bit clears. -/
def execDrainRequest (home q : Nat) (s : State) : Out := .next (s.drainMask home (fun k => k == q))

/-- MASK_DRAIN (R318): a home drains a quarter whose bit has stood for 65,536 cycles. -/
def execMaskDrain (home q : Nat) (s : State) : Out :=
  .next (
    let h := s.quarter home
    if h.masks.getLsbD q && decide (h.maskAge.getD q 0 + 65536 ≤ s.cycle) then s.drainMask home (fun k => k == q) else s)

/-- A flush starts (R329): what the context owns now, and with UNPIN what it has pinned, is to leave. -/
def State.flushStart (s : State) (q : Nat) (v : DWord) : State :=
  let k := s.quarter q
  let x := (v.extractLsb' 0 6).toNat
  let pins := v.getLsbD 7
  let mine := (k.chain.filter (fun c => c.owner == some x)).map (fun c => c.tile)
  let pinned := if pins then k.bay.filterMap (fun e => match e with
    | some (c, p) => if p == some x then some c.tile else none
    | none => none) else []
  s.modQuarter q (fun k => { k with flushUnpin := pins, flushCtx := BitVec.ofNat 6 x, flush := some (mine ++ pinned) })

/-- The tiles of a flush that have not left since it started leave, and with UNPIN the bypass entries of its context go; BUSY clears (R329). A counted
tile that left, or that a SPIN took out of the chain, is counted no longer. -/
def State.flushEnd (s : State) (q : Nat) : State :=
  match (s.quarter q).flush with
  | none => s
  | some tiles =>
    ((tiles.foldl (fun s t => s.removeCopy q t) s).modQuarter q (fun k => { k with
      flush := none, bypass := if k.flushUnpin then k.bypass.filter (fun e => e.ctx != k.flushCtx.toNat) else k.bypass })).sweep

/-- SPFLUSH (R329): a flush from its start to its end; a write while one runs is ignored. -/
def execSpflush (q : Nat) (v : DWord) (s : State) : Out :=
  .next (if (s.quarter q).flush.isSome then s else (s.flushStart q v).flushEnd q)

/-- A line's tile leaves every quarter of the device, dirty bytes written back first (R320, R352, R490). -/
def State.removeEverywhere (s : State) (tile : Nat) : State :=
  ((List.range 4).foldl (fun s q => s.removeCopy q tile) s).flushWb tile

/-- BACK_INVALIDATION (R320, R490): of a 64-byte line of pool memory. -/
def execBackInvalidation (line : Nat) (s : State) : Out := .next (s.removeEverywhere (line / 64)).sweep

/-- HOST_SNOOP (R320, R352). -/
def execHostSnoop (line : Nat) (s : State) : Out := .next (s.removeEverywhere (line / 64)).sweep

/-- Whether a physical address is exposed to the host (R353, R488). -/
def State.exposed (s : State) (q pa : Nat) : Bool :=
  match s.rangeAt q pa with
  | some r => r.host
  | none => false

/-- What a host access to an address is. -/
inductive HostPlace where
  /-- Exposed device memory, at a home that the quarter of the host's port reaches. -/
  | exposed (home : Nat)
  /-- Exposed device memory behind a closed dike: the request of that quarter is dropped (R479, R480). -/
  | cut (port : Nat)
  /-- Host memory. -/
  | own
  /-- Device or pool memory that the host does not see (R488). -/
  | hidden
  deriving DecidableEq, Repr

/-- Where a host access goes: to exposed memory through the function of the polder that exposes it, in the polder's lowest quarter (R477, R488). -/
def State.hostPlace (s : State) (pa : Nat) : HostPlace :=
  match (List.range 4).find? (fun q => s.exposed q pa) with
  | some q =>
    match s.reach (s.polderOf q) pa 0 with
    | .home h => .exposed h
    | _ => .cut (s.polderOf q)
  | none => if (List.range 4).any (fun q => (s.rangeAt q pa).isSome) || (s.regionAt pa).isSome then .hidden else .own

/-- A home drains the dirty bytes of a mask of a tile from every quarter that it reaches (R353, R479). -/
def State.drainTile (s : State) (home tile : Nat) (mask : BitVec 4096) : State :=
  (List.range 4).foldl (fun s q =>
    if s.passes home q then s.cleanCopy q tile mask
    else if ((s.quarter q).copy? tile).isSome then s.countDrop home
    else s) (s.flushWb tile)

/-- HOST_READ (R353): of exposed device memory, after every quarter's dirty bytes of the line have reached the home. -/
def execHostRead (pa n : Nat) (s : State) : Out :=
  .next ((pieces pa n).foldl (fun s x =>
    match s.hostPlace x.1 with
    | .exposed h => s.drainTile h (x.1 / 4096) (byteMask (x.1 % 4096 / 64 * 64) ((x.1 % 4096 + x.2 + 63) / 64 * 64 - x.1 % 4096 / 64 * 64))
    | .cut p => s.countDrop p
    | _ => s) s)

/-- Bytes of one tile that the host writes reach their memory; copies lose them (R317, R352, R353). -/
def State.hostPut (s : State) (pa n value : Nat) : State :=
  let tile := pa / 4096
  let mask := byteMask (pa % 4096) n
  let s1 := s.flushWb tile
  let s2 := s1.modHome (fun h => (wholeUnits mask).foldl (fun h u => h.cleanUnit (64 * tile + u)) (h.setNatAs s1.keys none pa n value))
  s2.homeWritten none tile mask

/-- HOST_WRITE (R352, R353): merged at the home of exposed device memory, or made to host memory, whose copies go first. -/
def execHostWrite (pa n value : Nat) (s : State) : Out :=
  .next (((pieces pa n).foldl (fun (acc : State × Nat) x =>
    ((match acc.1.hostPlace x.1 with
      | .exposed _ => acc.1.hostPut x.1 x.2 acc.2
      | .cut p => acc.1.countDrop p
      | .own => (acc.1.removeEverywhere (x.1 / 4096)).hostPut x.1 x.2 acc.2
      | .hidden => acc.1), acc.2 / 2 ^ (8 * x.2))) (s, value)).1.sweep)

end Sys2Proof.Machine
end

