-- ==== Sys2Proof/Machine/Strings.lean ====
section
/-! DEFINITION. Strings and hashes of majors STR and HASH (05 R180 to R188). -/
namespace Sys2Proof.Machine

/-- The sixteen bytes of a lane string (R180). -/
def Group.str (g : Group) (n l : Nat) : List Nat := (List.range 16).map (fun j => g.strByte n l j)

/-- Offset and length of SLD and SST (R181). -/
def spanOf (b : Word) : Nat × Nat := (b.toNat % 32, min (b.toNat / 256 % 32) 16)

/-- SLD (R181). -/
def execSld (d a b : BitVec 6) (p : BitVec 3) (s : State) : Out :=
  aluWord (.sld d a b p) s (fun c g =>
    g.setVN d.toNat (c.sel p.toNat) (fun l =>
      let (off, len) := spanOf (g.v b.toNat l)
      packElems 8 ((List.range 16).map (fun j => if j < len ∧ off + j < 32 then g.strByte a.toNat l (off + j) else 0))) 4)

/-- SST (R181): d is the span, which keeps its other bytes. -/
def execSst (d a b : BitVec 6) (p : BitVec 3) (s : State) : Out :=
  aluWord (.sst d a b p) s (fun c g =>
    g.setVN d.toNat (c.sel p.toNat) (fun l =>
      let (off, len) := spanOf (g.v b.toNat l)
      packElems 8 ((List.range 32).map (fun k =>
        if off ≤ k ∧ k - off < len then g.strByte a.toNat l (k - off) else g.strByte d.toNat l k))) 8)

/-- The first index at which two strings differ, 16 if none (R182). -/
def firstDiff (x y : List Nat) : Nat := ((List.range 16).find? (fun j => x.getD j 0 != y.getD j 0)).getD 16

/-- The result of SCMP (R182). -/
def scmpResult (x y : List Nat) : Nat :=
  let k := firstDiff x y
  if k = 16 then 16 else k + (if x.getD k 0 < y.getD k 0 then 3 else 1) * 2 ^ 30

/-- SCMP on strings (R182). -/
def execScmp (d a b : BitVec 6) (p : BitVec 3) (s : State) : Out :=
  aluWord (.scmp d a b p) s (fun c g =>
    g.setV d.toNat (c.sel p.toNat) (fun l => BitVec.ofNat 32 (scmpResult (g.str a.toNat l) (g.str b.toNat l))))

/-- A mask of indices in bits 31:16 (R183, R184). -/
def hitMask (hit : Nat → Bool) : Nat := (List.range 16).foldl (fun acc j => if hit j then acc + 2 ^ (16 + j) else acc) 0

/-- SFINDB (R183). -/
def execSfindb (d a b : BitVec 6) (p : BitVec 3) (s : State) : Out :=
  aluWord (.sfindb d a b p) s (fun c g =>
    g.setV d.toNat (c.sel p.toNat) (fun l =>
      let hit (j : Nat) : Bool := g.strByte a.toNat l j == (g.v b.toNat l).toNat % 256
      BitVec.ofNat 32 (hitMask hit + ((List.range 16).find? hit).getD 16)))

/-- SFOLD (R184). -/
def execSfold (d a : BitVec 6) (p : BitVec 3) (s : State) : Out :=
  aluWord (.sfold d a p) s (fun c g =>
    g.setVN d.toNat (c.sel p.toNat) (fun l =>
      packElems 8 ((g.str a.toNat l).map (fun x => if 0x41 ≤ x ∧ x ≤ 0x5A then x + 0x20 else x))) 4)

/-- SMATCH (R184). -/
def execSmatch (d a b : BitVec 6) (p : BitVec 3) (s : State) : Out :=
  aluWord (.smatch d a b p) s (fun c g =>
    g.setV d.toNat (c.sel p.toNat) (fun l =>
      let hit (j : Nat) : Bool := g.strByte a.toNat l j == g.strByte b.toNat l j
      BitVec.ofNat 32 (hitMask hit + firstDiff (g.str a.toNat l) (g.str b.toNat l))))

/-- One bit step of CRC-32C (R185). -/
def crcBit (c : Word) : Word := if c.getLsbD 0 then (c >>> 1) ^^^ 0x82F63B78 else c >>> 1

/-- One byte fed into a CRC-32C state (R185). -/
def crcByte (c : Word) (b : Nat) : Word :=
  (List.range 8).foldl (fun x _ => crcBit x) (c ^^^ BitVec.ofNat 32 (b % 256))

/-- HCRC (R185): the four bytes of b from the lowest up. -/
def execHcrc (d a b : BitVec 6) (p : BitVec 3) (s : State) : Out :=
  vword2 (.hcrc d a b p) d a b p s (fun x y => (List.range 4).foldl (fun c k => crcByte c (y.toNat / 256 ^ k)) x)

/-- The mixing function of HMIX (R186). -/
def hmix (x : DWord) : DWord :=
  let x := x ^^^ (x >>> 32)
  let x := x * 0x9A3C5E71D24B86F5
  let x := x ^^^ (x >>> 29)
  let x := x * 0xC58E1B4F63A72D09
  x ^^^ (x >>> 32)

/-- HMIX (R186). -/
def execHmix (d a : BitVec 6) (p : BitVec 3) (s : State) : Out :=
  aluWord (.hmix d a p) s (fun c g => g.setV64 d.toNat (c.sel p.toNat) (fun l => hmix (g.v64 a.toNat l)))

/-- One step of the rolling hash (R187). -/
def rollHash (h u : Nat) : Nat := (h % (2 ^ 31 - 1) * 48271 + u + 1) % (2 ^ 31 - 1)

/-- RHASH (R187). -/
def execRhash (d a b : BitVec 6) (p : BitVec 3) (s : State) : Out :=
  vword2 (.rhash d a b p) d a b p s (fun x y => BitVec.ofNat 32 (rollHash x.toNat y.toNat))

/-- PBIN (R188). -/
def execPbin (d a b : BitVec 6) (p : BitVec 3) (s : State) : Out :=
  vword2 (.pbin d a b p) d a b p s (fun x y => BitVec.ofNat 32 (x.toNat * y.toNat / 2 ^ 32))

end Sys2Proof.Machine
end

