-- ==== Sys2Proof/Machine/Engine.lean ====
section
/-! DEFINITION. The snapshot-tree engine and the sequence-store engine of a polder (17 R446 to R464). -/
namespace Sys2Proof.Machine

/-! ## The engine's own accesses -/

/-- The engine of a polder changed. -/
def State.modEng (s : State) (p : Nat) (f : Engine → Engine) : State := s.modPolder p (fun x => { x with eng := f x.eng })

/-- What an access of a polder's engine has met, noted for the step that makes it. -/
def State.engMeets (s : State) (p : Nat) (m : EngMet) : State := s.modEng p (fun e => { e with met := e.met ++ [m] })

/-- An access of a polder's engine that does not reach its memory (19 R480, R492). -/
def State.engLost (s : State) (p pa : Nat) : State :=
  match s.reach p pa (s.rawTier p pa) with
  | .region r => s.engMeets p (.region r)
  | _ => (s.countDrop p).engMeets p (.dropped pa)

/-- n bytes at a physical address read under a key slot at their home (R447, R451), their errors met as any read meets them; a poisoned unit reads as
all ones (11 R358). -/
def State.engRead (s : State) (p : Nat) (key : Option Nat) (pa n : Nat) : State × Nat :=
  match s.reach p pa (s.rawTier p pa) with
  | .home _ =>
    if !s.devReady p pa then (s.engMeets p .notReady, 0)
    else
      let s1 := (pieces pa n).foldl (fun s x => s.cleanEverywhere (x.1 / 4096) (byteMask (x.1 % 4096) x.2)) s
      let s2 := ((unitParts pa n).filter (fun x => (lookupNat s1.home.errors (x.1 / 64)).isSome)).foldl (fun s x =>
        s.readUnit p (x.1 / 64) (tierLeaf (s.rawTier p pa))) s1
      (s2, if s2.home.poison.isEmpty then s2.home.natAs s2.keys key pa n
        else (unitParts pa n).foldl (fun v x => v + 2 ^ (8 * (x.1 - pa)) *
          (if s2.home.isPoisoned x.1 then 2 ^ (8 * x.2) - 1 else s2.home.natAs s2.keys key x.1 x.2)) 0)
  | _ => (s.engLost p pa, 2 ^ (8 * n) - 1)

/-- The low n bytes of a number written under a key slot at their home; copies lose the bytes. -/
def State.engWrite (s : State) (p : Nat) (key : Option Nat) (pa n v : Nat) : State :=
  match s.reach p pa (s.rawTier p pa) with
  | .home _ =>
    if !s.devReady p pa then s.engMeets p .notReady
    else
      let s1 := (pieces pa n).foldl (fun s x => s.flushWb (x.1 / 4096)) s
      let s2 := s1.modHome (fun h => h.setNatAs s1.keys key pa n v)
      (pieces pa n).foldl (fun s x => s.homeWritten none (x.1 / 4096) (byteMask (x.1 % 4096) x.2)) s2
  | _ => s.engLost p pa

/-- Whether the engines of a polder serve words and lookups: ENABLE = 1 and READY set; until then they act as with ENABLE = 0 (R446, 21 R512). -/
def State.engOn (s : State) (p : Nat) : Bool := (s.polder p).eng.enable && (s.polder p).snReady

/-- The engines serve, but the descriptors that they read as ENABLE rose are still to be read: what needs them waits for their memory (21 R512). -/
def State.engUnread (s : State) (p : Nat) : Bool := s.engOn p && (s.polder p).eng.unread

/-- A step of a polder's engine begins with nothing met, or waits for the descriptors. -/
def State.engStart (s : State) (p : Nat) : State := s.modEng p (fun e => { e with met := if s.engUnread p then [.notReady] else [] })

/-- A step of a polder's engine is done: none where memory was not ready, so that it waits (21 R512); else what its accesses met is recorded for the
group it serves, if it serves one (19 R480, R492). -/
def State.engEnd (s : State) (p : Nat) (r : Option GRef) : Option State :=
  let met := (s.polder p).eng.met
  if met.contains .notReady then none
  else
    some ((match r with
      | none => s
      | some r => met.foldl (fun (s : State) (m : EngMet) => match m with
        | .dropped pa => s.deferFault r 0x44 (BitVec.ofNat 56 pa)
        | .region n => s.deferFault r 0x45 (BitVec.ofNat 56 n)
        | .notReady => s) s).engStart p)

/-- A key slot, while feature bit 18 is set (R427, R510). -/
def State.slotKey (s : State) (p slot : Nat) : Option Nat := if s.feature p 18 then some slot else none

/-- Bytes lo to lo + n − 1 of a number. -/
def natBytes (v lo n : Nat) : Nat := v / 2 ^ (8 * lo) % 2 ^ (8 * n)

/-! ## Trees -/

/-- A tree that is not enabled. -/
def Tree.off : Tree :=
  { on := false, tokens := false, full := false, pages := false, log2g := 0, slotLog := 0, keyslot := 0, seed := 0, nbase := 0,
    ncount := 0, pbase := 0, store := 0 }

/-- Tree t of a polder as its engine read it. -/
def State.tree (s : State) (p t : Nat) : Tree := (s.polder p).eng.trees.getD t Tree.off

/-- Bytes of a unit, units of a segment, bytes of a segment (R447). -/
def Tree.w (t : Tree) : Nat := if t.tokens then 4 else 1
def Tree.g (t : Tree) : Nat := 2 ^ t.log2g
def Tree.segBytes (t : Tree) : Nat := t.g * t.w

/-- A tree descriptor's 32 bytes (R447). -/
def treeOf (v : Nat) : Tree :=
  let flags := natBytes v 0 1
  { on := flags % 2 == 1, tokens := flags / 2 % 2 == 1, full := flags / 4 % 2 == 1, pages := flags / 8 % 2 == 1,
    log2g := natBytes v 1 1, slotLog := natBytes v 2 1, keyslot := natBytes v 3 1, seed := natBytes v 4 4,
    nbase := natBytes v 8 4, ncount := natBytes v 12 4, pbase := natBytes v 16 8, store := natBytes v 24 1 }

/-- The limits of R447 on one descriptor. -/
def Tree.fits (t : Tree) (v logNodes : Nat) : Bool :=
  natBytes v 0 1 / 16 == 0 && 4 ≤ t.log2g && t.log2g ≤ 12 && 6 ≤ t.slotLog && t.slotLog ≤ 20 &&
  (!t.full || decide (t.segBytes ≤ 2 ^ t.slotLog)) && t.keyslot ≤ 63 && t.seed ≤ 2 ^ 31 - 2 && 1 ≤ t.nbase && 1 ≤ t.ncount &&
  t.nbase + t.ncount ≤ 2 ^ logNodes && t.pbase % 2 ^ t.slotLog == 0 && (if t.pages then t.store ≤ 15 else t.store == 0) &&
  natBytes v 25 7 == 0

/-- The 256 trees as the engine reads them at enable: overlapping ones act as disabled (R447). -/
def treesOf (vs : List Nat) (logNodes : Nat) : List Tree :=
  let ts := vs.map (fun v => let t := treeOf v; { t with on := t.on && t.fits v logNodes })
  ts.mapIdx (fun i (t : Tree) =>
    { t with on := t.on && (List.range ts.length).all (fun j =>
        let u := ts.getD j Tree.off
        i == j || !u.on || !decide (t.nbase < u.nbase + u.ncount ∧ u.nbase < t.nbase + t.ncount)) })

/-! ## Stores -/

/-- A store that is not enabled. -/
def Store.off : Store :=
  { on := false, pool := false, layers := 0, heads := 0, keyslot := 0, maxSeq := 0, maxPos := 0, npages := 0, poolPa := 0,
    scalePa := 0, privPa := 0, pages := [], seqs := [] }

/-- Store k of a polder. -/
def State.store (s : State) (p k : Nat) : Store := (s.polder p).eng.stores.getD k Store.off

/-- A store changed. -/
def State.modStore (s : State) (p k : Nat) (f : Store → Store) : State :=
  s.modEng p (fun e => { e with stores := modAt e.stores k f })

/-- A store descriptor's 64 bytes (R456). -/
def storeOf (v : Nat) : Store :=
  { Store.off with
    on := natBytes v 0 1 % 2 == 1, pool := natBytes v 0 1 / 2 % 2 == 1, layers := natBytes v 1 1 + 1, heads := natBytes v 2 1 + 1,
    keyslot := natBytes v 3 1, maxSeq := natBytes v 4 4, maxPos := natBytes v 8 4, npages := natBytes v 12 4,
    poolPa := natBytes v 16 8, scalePa := natBytes v 24 8, privPa := natBytes v 32 8 }

/-- The limits of R456. -/
def Store.fits (t : Store) (v : Nat) : Bool :=
  natBytes v 0 1 / 4 == 0 && t.keyslot ≤ 63 && 1 ≤ t.maxSeq && t.maxSeq ≤ 2 ^ 28 && t.maxPos % 16 == 0 && 16 ≤ t.maxPos &&
  t.maxPos ≤ 2 ^ 28 && 2 ≤ t.npages && t.npages ≤ 2 ^ 24 && natBytes v 40 24 == 0

/-- A store read at enable keeps the tables it had under the same descriptor (R446, log 19). -/
def Store.keep (new old : Store) : Store :=
  if new == { old with pages := [], seqs := [] } then { new with pages := old.pages, seqs := old.seqs } else new

/-- The addresses of the descriptors: 256 of trees and 16 of stores (R446). -/
def Engine.descs (e : Engine) : List Nat :=
  (List.range 256).map (fun i => e.snTrees.toNat * 8192 + 32 * i) ++ (List.range 16).map (fun i => e.kvTab.toNat * 8192 + 64 * i)

/-- The engines read every descriptor that SNCFG.ENABLE rising has them read, once their memory is ready (R446, 21 R512). -/
def State.engLoad (s : State) (p : Nat) : State :=
  let e := (s.polder p).eng
  if e.unread && e.descs.all (fun pa => s.devReady p pa) then
    let rd (base : Nat) (size n : Nat) (s : State) : State × List Nat := (List.range n).foldl (fun (acc : State × List Nat) i =>
      let r := acc.1.devRead p (base + size * i) size
      (r.1, acc.2 ++ [r.2])) (s, [])
    let a := rd (e.snTrees.toNat * 8192) 32 256 s
    let b := rd (e.kvTab.toNat * 8192) 64 16 a.1
    let stores := b.2.mapIdx (fun i w =>
      let x := storeOf w
      Store.keep { x with on := x.on && x.fits w } (e.stores.getD i Store.off))
    b.1.modEng p (fun e => { e with unread := false, trees := treesOf a.2 (max 10 (min 22 e.logNodes.toNat)), stores := stores })
  else s

/-- SNCFG: its ENABLE rising has the engines read every descriptor (R446). -/
def State.sncfg (s : State) (p : Nat) (v : DWord) : State :=
  let on := v.getLsbD 31
  (s.modEng p (fun e => { e with enable := on, logNodes := v.extractLsb' 0 5, unread := on && (e.unread || !e.enable) })).engLoad p

/-! ## Keys and nodes (R448 to R450) -/

/-- The key of a prefix as it is formed: rolling hash, CRC state, depth. -/
structure Key where
  h : Nat
  c : Word
  d : Nat
  deriving DecidableEq, Repr

/-- key_start. -/
def Tree.start (t : Tree) : Key := ⟨t.seed, 0xFFFFFFFF, 0⟩

/-- key_segment over a segment's bytes as one number. -/
def Tree.segment (t : Tree) (k : Key) (v : Nat) : Key :=
  let r := (List.range t.g).foldl (fun (acc : Nat × Word) i =>
    let x := natBytes v (i * t.w) t.w
    (rollHash acc.1 x, (List.range t.w).foldl (fun c j => crcByte c (natBytes x j 1)) acc.2)) (k.h, k.c)
  ⟨r.1, r.2, k.d + 1⟩

/-- The address of a node (R449). -/
def State.nodePa (s : State) (p n : Nat) : Nat := (s.polder p).eng.snTab.toNat * 2 ^ 21 + 128 * n

/-- A node as its first 64 bytes. -/
structure NodeVal where
  parent : Nat
  tree : Nat
  depth : Nat
  hash : Nat
  crc : Nat
  payload : Nat
  psize : Nat
  holders : Nat
  children : Nat
  lastUse : Nat
  live : Bool
  pages : Bool
  deriving DecidableEq, Repr

/-- A node from its bytes. -/
def nodeVal (v : Nat) : NodeVal :=
  { parent := natBytes v 0 4 % 2 ^ 22, tree := natBytes v 0 4 / 2 ^ 22 % 256, depth := natBytes v 4 4, hash := natBytes v 8 4,
    crc := natBytes v 12 4, payload := natBytes v 16 8, psize := natBytes v 24 4, holders := natBytes v 28 4,
    children := natBytes v 32 4, lastUse := natBytes v 36 8, live := natBytes v 44 4 % 2 == 1,
    pages := natBytes v 44 4 / 2 % 2 == 1 }

/-- A node as bytes. -/
def NodeVal.bytes (n : NodeVal) : Nat :=
  n.parent + 2 ^ 22 * n.tree + 2 ^ 32 * n.depth + 2 ^ 64 * n.hash + 2 ^ 96 * n.crc + 2 ^ 128 * n.payload + 2 ^ 192 * n.psize +
  2 ^ 224 * n.holders + 2 ^ 256 * n.children + 2 ^ 288 * n.lastUse + 2 ^ 352 * ((if n.live then 1 else 0) + (if n.pages then 2 else 0))

/-- A node read and written in the node table. -/
def State.node (s : State) (p n : Nat) : State × NodeVal := let r := s.engRead p none (s.nodePa p n) 64; (r.1, nodeVal r.2)
def State.setNode (s : State) (p n : Nat) (v : NodeVal) : State := s.engWrite p none (s.nodePa p n) 64 v.bytes
def State.modNode (s : State) (p n : Nat) (f : NodeVal → NodeVal) : State := let r := s.node p n; r.1.setNode p n (f r.2)

/-- The payload slot of a node (R447). -/
def Tree.slotPa (t : Tree) (n : Nat) : Nat := t.pbase + (n - t.nbase) * 2 ^ t.slotLog
/-- Where the payload stands in the slot, and the space for it. -/
def Tree.payOff (t : Tree) : Nat := if t.full then t.segBytes else 0
def Tree.space (t : Tree) : Nat := 2 ^ t.slotLog - t.payOff

/-- Node ids of a tree in ascending order. -/
def Tree.ids (t : Tree) : List Nat := (List.range t.ncount).map (fun i => t.nbase + i)

/-- Whether a node matches a prefix with a key, under a parent (R450): `seg` is the prefix's last segment. -/
def State.nodeMatches (s : State) (p ti : Nat) (t : Tree) (parent : Nat) (k : Key) (seg id : Nat) : State × Bool :=
  let r := s.node p id
  let n := r.2
  if n.live && n.tree == ti && n.parent == parent && n.depth == k.d && n.hash == k.h && n.crc == (k.c ^^^ 0xFFFFFFFF).toNat then
    (if t.full then
      let x := r.1.engRead p (r.1.slotKey p t.keyslot) (t.slotPa id) t.segBytes
      (x.1, x.2 == seg)
    else (r.1, true))
  else (r.1, false)

/-- The first of some nodes that meets a test which reads it. -/
def findNode (f : Nat → State → State × Bool) : List Nat → State → State × Option Nat
  | [], s => (s, none)
  | id :: rest, s =>
    match f id s with
    | (s1, true) => (s1, some id)
    | (s1, false) => findNode f rest s1

/-- The child that matches. -/
def State.childMatch (s : State) (p ti : Nat) (t : Tree) (parent : Nat) (k : Key) (seg : Nat) : State × Option Nat :=
  findNode (fun id s => s.nodeMatches p ti t parent k seg id) t.ids s

/-- The walk of R455 over segments whose bytes are given in order: state, node reached, segments matched. -/
def State.walkTree (p ti : Nat) (t : Tree) : List Nat → Nat → Key → State → State × Nat × Nat
  | [], node, k, s => (s, node, k.d)
  | seg :: rest, node, k, s =>
    let k1 := t.segment k seg
    match s.childMatch p ti t node k1 seg with
    | (s1, none) => (s1, node, k.d)
    | (s1, some m) => State.walkTree p ti t rest m k1 (s1.modNode p m (fun n => { n with lastUse := s.tick.toNat }))

/-- One hold added to a node (R452, R453). -/
def State.holdNode (s : State) (p n : Nat) : State := s.modNode p n (fun x => { x with holders := x.holders + 1 })
/-- One hold taken off. -/
def State.unholdNode (s : State) (p n : Nat) : State := s.modNode p n (fun x => { x with holders := x.holders - 1 })

/-! ## Pages and sequences (R457, R458, R462) -/

/-- The record of a page. -/
def Store.page (t : Store) (k : Nat) : PageRec :=
  (t.pages.find? (fun x => x.page == k)).getD { page := k, shares := 0, prov := false, filled := 0, scale := 0 }

/-- A page's record changed. -/
def Store.modPage (t : Store) (k : Nat) (f : PageRec → PageRec) : Store :=
  { t with pages := f (t.page k) :: t.pages.filter (fun x => x.page != k) }

/-- A freed page's bytes are undefined: free values (R458, log 9). -/
def State.scramblePage (s : State) (p : Nat) (t : Store) (k : Nat) : State :=
  let r := s.draw
  let v := (List.range 1024).foldl (fun acc i => acc + (Config.rawWord (r.1 * 2 ^ 20 + i)).toNat * 2 ^ (32 * i)) 0
  ((r.2.removeEverywhere ((t.poolPa + 4096 * k) / 4096)).engWrite p (r.2.slotKey p t.keyslot) (t.poolPa + 4096 * k) 4096 v)

/-- One reference to a page gone; a page without references is freed (R458). -/
def State.dropPage (s : State) (p k pg : Nat) : State :=
  if pg = 0 then s
  else
    let t := s.store p k
    let n := (t.page pg).shares
    if n ≤ 1 then
      (s.scramblePage p t pg).modStore p k (fun t => { t with pages := t.pages.filter (fun x => x.page != pg) })
    else s.modStore p k (fun t => t.modPage pg (fun x => { x with shares := x.shares - 1 }))

/-- One reference added. -/
def State.sharePage (s : State) (p k pg : Nat) : State :=
  if pg = 0 then s else s.modStore p k (fun t => t.modPage pg (fun x => { x with shares := x.shares + 1 }))

/-- The state of a head: NEXT and its entries. -/
def Seq.head (q : Seq) (layer hd : Nat) : HeadRec :=
  (q.heads.find? (fun x => x.layer == layer && x.head == hd)).getD
    { layer := layer, head := hd, next := q.committed, entries := [] }

/-- A head changed. -/
def Seq.modHead (q : Seq) (layer hd : Nat) (f : HeadRec → HeadRec) : Seq :=
  { q with heads := f (q.head layer hd) :: q.heads.filter (fun x => !(x.layer == layer && x.head == hd)) }

/-- An entry: page and LIMIT. -/
def HeadRec.entry (h : HeadRec) (i : Nat) : Nat × Nat :=
  match h.entries.find? (fun e => e.1 == i) with
  | some e => e.2
  | none => (0, 0)

/-- An entry set; page 0 removes it. -/
def HeadRec.setEntry (h : HeadRec) (i pg limit : Nat) : HeadRec :=
  let rest := h.entries.filter (fun e => e.1 != i)
  { h with entries := if pg = 0 then rest else (i, pg, limit) :: rest }

/-- A sequence of a store that is OPEN. -/
def Store.seq? (t : Store) (n : Nat) : Option Seq := t.seqs.find? (fun q => q.num == n)

/-- An open sequence changed. -/
def Store.modSeq (t : Store) (n : Nat) (f : Seq → Seq) : Store :=
  { t with seqs := t.seqs.map (fun q => if q.num == n then f q else q) }

/-- The uncommitted positions of a sequence discarded (R462). -/
def State.discardSeq (s : State) (p k n : Nat) : State :=
  match (s.store p k).seq? n with
  | none => s
  | some q =>
    let c := q.committed
    let gone := q.heads.flatMap (fun h => (h.entries.filter (fun e => decide (c ≤ 16 * e.1))).map (fun e => e.2.1))
    let cut := q.heads.flatMap (fun h => (h.entries.filter (fun e => e.1 == c / 16 && c % 16 != 0)).map (fun e => e.2.1))
    let heads := q.heads.map (fun (h : HeadRec) => { h with
      next := c,
      entries := (h.entries.filter (fun e => decide (16 * e.1 < c))).map (fun e =>
        if e.1 == c / 16 then (e.1, e.2.1, c % 16) else e) })
    let s1 := s.modStore p k (fun t => cut.foldl (fun t pg => t.modPage pg (fun x =>
      if x.shares = 1 then { x with filled := c % 16 } else x)) (t.modSeq n (fun q => { q with heads := heads, writer := none })))
    gone.foldl (fun s pg => s.dropPage p k pg) s1

/-- Every sequence that a team writes loses its uncommitted positions (R462). -/
def State.discardOf (s : State) (p team : Nat) : State :=
  (List.range 16).foldl (fun s k =>
    (((s.store p k).seqs.filter (fun q => q.writer == some team)).map (fun q => q.num)).foldl (fun s n => s.discardSeq p k n) s) s

/-- The engines' part of a team's end (R452, R462): its holds are released, its uncommitted positions discarded. -/
def State.endEngines (s : State) (p team : Nat) : State :=
  match s.team? team with
  | none => s
  | some t => ((t.holds.foldl (fun s n => s.unholdNode p n) s).modTeam team (fun t => { t with holds := [] })).discardOf p team

end Sys2Proof.Machine
end

