-- ==== Sys2Proof/Machine/Image.lean ====
section
/-! DEFINITION. A team's image in memory (02 R55, R62 to R64, 07 R237, R242, 16 R441) and the register lines of a core's G-role banks. Fills,
write-backs and the switch read and write the image at its home, under the team's context; no copy in a spiral takes part (11 R330). -/
namespace Sys2Proof.Machine

/-! ## The layout (R441) -/

/-- The roles of a team's groups by number (R236). -/
def Shape.roles (h : Shape) : List Role :=
  List.replicate h.producer Role.producer ++ List.replicate h.matrix Role.matrix ++
  List.replicate (h.groups - h.producer - h.matrix) Role.vector

/-- A and E of a role. -/
def Shape.aOf (h : Shape) (r : Role) : Nat :=
  match r with
  | .producer => h.budget.1
  | .matrix => h.budget.2.1
  | _ => h.budget.2.2
def Shape.eOf (h : Shape) (r : Role) : Nat :=
  match r with
  | .producer => h.spill.1
  | .matrix => h.spill.2.1
  | _ => h.spill.2.2

/-- A size rounded up. -/
def roundUp (n m : Nat) : Nat := (n + m - 1) / m * m

/-- What a group of a role takes of an image: its lines, and its core-resident state. -/
def Shape.groupBytes (h : Shape) (r : Role) : Nat := roundUp (128 * (h.aOf r + h.eOf r)) 4096 + 4096

/-- Where the parts of an image begin that a switch or a fill reads and writes: scratchpad, accumulators, handler area, groups. -/
def Shape.scratchOff (_h : Shape) : Nat := 131072
def Shape.accOff (h : Shape) : Nat :=
  h.scratchOff + roundUp (1024 * h.scratch) 65536 + (if 0 < h.producer + h.matrix then 393216 else 0)
def Shape.handlerOff (h : Shape) : Nat := h.accOff + 16384 * h.matrix
def Shape.groupOff (h : Shape) (g : Nat) : Nat := h.handlerOff + 16384 + ((h.roles.take g).map h.groupBytes).foldl (· + ·) 0

/-- TIMG. -/
def Shape.imageBytes (h : Shape) : Nat := roundUp (h.groupOff h.groups) 65536

/-- The base of a team's image. -/
def Team.imageBase (t : Team) : Nat := t.shape.image.toNat + t.imageSlot * t.shape.imageBytes

/-- The place of a line in an image (02 R63): that of a handler group lies in the handler area (13 R382). -/
def Shape.lineOff (h : Shape) (g k : Nat) : Nat := (if g = 32 then h.handlerOff else h.groupOff g) + 128 * k

/-- A line of a group: team, group, line. -/
abbrev LineRef := Nat × Nat × Nat

/-! ## Bytes of an image -/

/-- The groups of a team by number, its handler group among them. -/
def Team.numbered (t : Team) : List (Nat × Group) :=
  (t.groups.mapIdx (fun k g => (k, g))) ++ (match t.handler with
    | some h => [(32, h)]
    | none => [])

/-- The lines of a team in its core's banks, each with whether it is dirty. -/
def Team.linesIn (t : Team) : List (LineRef × Bool) :=
  t.numbered.flatMap (fun e => (List.range e.2.lines.length).filterMap (fun n =>
    if e.2.resident.getD n false then some ((t.id, e.1, n), e.2.dirty.getD n false) else none))

/-- Whether a page of a team's image is about to be written: every one as the team leaves its core, that of the record slots where records await
their first placement, and those of the dirty lines that it left in the banks of another core (R421, R442). -/
def Team.writesPage (core : Nat) (t : Team) (i : Nat) : Bool :=
  t.leaving || (i == 1 && !t.records.isEmpty) ||
  (t.linesAt != some core && t.linesIn.any (fun x => x.2 && t.shape.lineOff x.1.2.1 x.1.2.2 / 65536 == i))

/-- The first page of a team's image that it waits for, and the kind of the fault: 6 the page is not present (R434), 5 it is to be written and its
replicas stand (R438); 0 where a table's memory is not ready (21 R512). -/
def State.imageMissing (core : Nat) (t : Team) : List Nat → State → State × Option (Nat × Nat)
  | [], s => (s, none)
  | i :: is, s =>
    let va := t.imageBase + 65536 * i
    match s.xlate core t.shape.ctx false 2 va with
    | (s1, .wait k) => if k = 5 && !t.writesPage core i then State.imageMissing core t is s1 else (s1, some (va, if k = 5 then 5 else 6))
    | (s1, .hold) => (s1, some (va, 0))
    | (s1, _) => State.imageMissing core t is s1

/-- Whether every page of a team's image can be reached. -/
def State.imageMapped (s : State) (core : Nat) (t : Team) : Bool :=
  t.shape.ctx.isNone || (State.imageMissing core t (List.range (t.shape.imageBytes / 65536)) s).2.isNone

/-- The home of a byte of a team's image and its leaf, where its page is present, admits the kind of access, and its memory is ready. -/
def State.imageAt (s : State) (core : Nat) (t : Team) (off : Nat) (k : Kind) : State × Option (Nat × (DWord × DWord)) :=
  match s.xlate core t.shape.ctx false k (t.imageBase + off) with
  | (s1, .at (.phys pa leaf)) => (s1, if s1.homeReady (quarterOf core) pa (leafTier leaf.1) then some (pa, leaf) else none)
  | (s1, _) => (s1, none)

/-- Units written within a page of a team's image; what lies outside the memory there is drops them (19 R480). None where the page cannot
be reached. -/
def State.putImage (s : State) (core : Nat) (t : Team) (off : Nat) (bs : List Byte) : Option State :=
  match s.imageAt core t off 2 with
  | (s1, some (pa, leaf)) =>
    some (match s1.reach (quarterOf core) pa (leafTier leaf.1) with
      | .home _ => s1.modHome (fun h => h.putUnits (s1.keyFor (quarterOf core) t.shape.ctx leaf) pa bs)
      | _ => s1)
  | (_, none) => none

/-- n units of a page of a team's image, their errors met as any read of memory meets them (21 R507): all ones where they are poisoned or
were dropped (11 R358, 19 R480). -/
def State.getImage (s : State) (core : Nat) (t : Team) (off n : Nat) : Option (State × List Byte) :=
  let q := quarterOf core
  match s.imageAt core t off 1 with
  | (s1, some (pa, leaf)) =>
    some (match s1.reach q pa (leafTier leaf.1) with
      | .home _ =>
        let s2 := (List.range n).foldl (fun s i => s.readUnit q (pa / 64 + i) leaf) s1
        (s2, (s2.home.unitsAs s2.keys (s2.keyFor q t.shape.ctx leaf) pa n).mapIdx (fun i b => if s2.home.isPoisoned (pa + i) then 0xFF else b))
      | _ => (s1, List.replicate (64 * n) 0xFF))
  | (_, none) => none

/-- 32-bit words as bytes, and back. -/
def wordsBytes (ws : List Word) : List Byte := ws.flatMap (fun w => natBytesList 4 w.toNat)
def bytesWords : List Byte → List Word
  | a :: b :: c :: d :: rest => BitVec.ofNat 32 (bytesNat [a, b, c, d]) :: bytesWords rest
  | _ => []

/-- Words of an image written and read in parts of 16 KiB at most, none of which crosses a page. -/
def State.putWords (s : State) (core : Nat) (t : Team) (off : Nat) (ws : List Word) : State :=
  (List.range ((ws.length + 4095) / 4096)).foldl (fun s i =>
    (s.putImage core t (off + 16384 * i) (wordsBytes ((ws.drop (4096 * i)).take 4096))).getD s) s
def State.getWords (s : State) (core : Nat) (t : Team) (off n : Nat) : State × List Word :=
  (List.range ((n + 4095) / 4096)).foldl (fun (acc : State × List Word) i =>
    match acc.1.getImage core t (off + 16384 * i) (min 256 ((n - 4096 * i) / 16)) with
    | some (s1, bs) => (s1, acc.2 ++ bytesWords bs)
    | none => acc) (s, [])

/-! ## Register lines (R64) -/

/-- The teams whose lines stand in a core's banks: the resident ones, and those switched out from it (16 R442). -/
def State.linesOf (s : State) (core : Nat) : List Team := s.teams.filter (fun t => t.linesAt == some core && !t.ended)

/-- The lines in a core's banks. -/
def State.linesOn (s : State) (core : Nat) : List (LineRef × Bool) := (s.linesOf core).flatMap Team.linesIn

/-- Whether a line is the destination of an incomplete operation of variable latency. -/
def State.lineAwaited (s : State) (l : LineRef) : Bool :=
  s.ops.any (fun o => o.team == l.1 && o.group == l.2.1 && o.kind.hasResult && !o.kind.isUniform && decide (o.dst ≤ l.2.2) &&
    decide (l.2.2 < o.dst + max 1 (o.width / 32)))

/-- The least recently used of some lines, by a list of lines with the most recent first. -/
def oldestLine (lru : List LineRef) : List LineRef → Option LineRef
  | [] => none
  | l :: rest =>
    match oldestLine lru rest with
    | none => some l
    | some m => if lru.findIdx (fun x => x == m) ≤ lru.findIdx (fun x => x == l) then some l else some m

/-- The line freed for a fill (R64): one of a team that is switched out, else a clean one before a dirty one, the least recently used of
each. R64 orders the clean and the dirty ones by use; among several lines of teams switched out it gives no order, and the least recently used of
them is the model's choice (DESIGN CHOICE, log 14). -/
def State.lineVictim (s : State) (core : Nat) : Option (LineRef × Bool) :=
  let free := (s.linesOn core).filter (fun x => !s.lineAwaited x.1)
  let lru := (s.core core).regs.lru
  let best (xs : List (LineRef × Bool)) : Option (LineRef × Bool) :=
    (oldestLine lru (xs.map Prod.fst)).bind (fun l => xs.find? (fun x => x.1 == l))
  ((best (free.filter (fun x => ((s.team? x.1.1).bind Team.core?).isNone))).or (best (free.filter (fun x => !x.2)))).or (best free)

/-- A line leaves its bank, written back first if it is dirty (R63, R80). A service kernel has no image: its lines stay as they are. None
where its image cannot be reached. -/
def State.dropLine (s : State) (core : Nat) (x : LineRef × Bool) : Option State :=
  let l := x.1
  match s.team? l.1, s.group? ⟨l.1, l.2.1⟩ with
  | some t, some g =>
    let gone (s : State) : State :=
      (s.modGroup ⟨l.1, l.2.1⟩ (fun g => { g with resident := g.resident.set l.2.2 false, dirty := g.dirty.set l.2.2 false })).modCore core
        (fun k => { k with regs := { k.regs with
          wback := if x.2 then satAdd k.regs.wback 1 else k.regs.wback, lru := k.regs.lru.filter (fun y => y != l) } })
    if x.2 && t.shape.ctx.isSome then (s.putImage core t (t.shape.lineOff l.2.1 l.2.2) (wordsBytes (g.line l.2.2))).map gone
    else some (gone s)
  | _, _ => none

/-- A missing line filled from the image (R63, R64). -/
def State.bringLine (s : State) (core : Nat) (l : LineRef) : Option State :=
  let come (s : State) (v : Option Line) : State :=
    (s.modGroup ⟨l.1, l.2.1⟩ (fun g => { g with
      lines := match v with
        | some x => g.lines.set l.2.2 x
        | none => g.lines,
      resident := g.resident.set l.2.2 true, dirty := g.dirty.set l.2.2 false })).modCore core
        (fun k => { k with regs := { k.regs with fills := satAdd k.regs.fills 1, lru := l :: k.regs.lru } })
  match s.team? l.1 with
  | none => none
  | some t =>
    if t.shape.ctx.isNone then some (come s none)
    else (s.getImage core t (t.shape.lineOff l.2.1 l.2.2) 2).map (fun r => come r.1 (some (bytesWords r.2)))

/-- LINE_FILL (R64): a slot is freed first where none is free. -/
def execLineFill (team g line : Nat) (s : State) : Out :=
  .next (match s.group? ⟨team, g⟩, (s.team? team).bind Team.core? with
    | some x, some core =>
      if x.lines.length ≤ line ∨ x.resident.getD line false then s
      else if (s.linesOn core).length < 256 * roleBanks (s.core core).regs.brole 1 then (s.bringLine core (team, g, line)).getD s
      else ((s.lineVictim core).bind (fun v => (s.dropLine core v).bind (fun s1 => s1.bringLine core (team, g, line)))).getD s
    | _, _ => s)

/-- Every line of a team leaves the banks of a core. -/
def State.dropLines (s : State) (core : Nat) (t : Team) : State := t.linesIn.foldl (fun s x => (s.dropLine core x).getD s) s

/-- The lines of the teams switched out from a core leave its banks, before what the banks hold is lost (R75, 21 R505, 00 R14). -/
def State.emptyBanks (s : State) (core : Nat) : State :=
  (s.linesOf core).foldl (fun s t => if t.core?.isSome then s else s.dropLines core t) s

/-- The 64 lines of a handler group that forms, written where its fills find them (13 R382, R384). None where the image cannot be reached. -/
def State.putHandler (s : State) (core : Nat) (t : Team) (h : Group) : Option State :=
  if t.shape.ctx.isNone then some s else s.putImage core t t.shape.handlerOff (wordsBytes (h.lines.flatMap (fun x => x)))

/-! ## The switch (R242, R442) -/

/-- A part of an image whose inner layout the spec does not give, written: free values (log 11). -/
def State.putFree (core : Nat) (t : Team) (s : State) (part : Nat × Nat) : State :=
  let d := s.draw
  d.2.putWords core t part.1 ((List.range part.2).map (fun i => Config.imageWord (131072 * d.1 + i)))

/-- The parts of a team's image of that kind, each with its offset and its words (R441): the team block, the ranges' contents and tags, the handler's
state block, and the core-resident state behind each group's lines (02 R62). -/
def Team.openParts (t : Team) : List (Nat × Nat) :=
  let h := t.shape
  [(0, 16384)] ++ (if 0 < h.producer + h.matrix then [(h.accOff - 393216, 98304)] else []) ++
  (if t.handler.isSome then [(h.handlerOff + 8192, 2048)] else []) ++
  t.groups.map (fun g => (h.groupOff g.num + h.groupBytes g.role - 4096, 1024))

/-- What R442 step 4 writes to the image: the core-resident state, the team block and the ranges, the scratchpad, and the accumulators of the save
path. -/
def State.saveTeam (s : State) (core : Nat) (t : Team) (saved : Nat → Bool) : State :=
  if t.shape.ctx.isNone then s
  else
    let s1 := (t.openParts.foldl (State.putFree core t) s).putWords core t t.shape.scratchOff t.scratch
    ((t.groups.filter (fun g => g.role == .matrix)).mapIdx (fun i g => (i, g))).foldl (fun s x =>
      if saved x.2.num then s.putWords core t (t.shape.accOff + 16384 * x.1) (x.2.acc.flatMap (fun a => a)) else s) s1

/-- Sixteen slots of 256 words. -/
def slotsOf (ws : List Word) : List (List Word) := (List.range 16).map (fun i => (ws.drop (256 * i)).take 256)

/-- They are read back. -/
def State.loadTeam (s : State) (core : Nat) (t : Team) (saved : Nat → Bool) : State :=
  if t.shape.ctx.isNone then s
  else
    let r := s.getWords core t t.shape.scratchOff t.scratch.length
    let s1 := if r.2.length = t.scratch.length then r.1.modTeam t.id (fun u => { u with scratch := r.2 }) else s
    ((t.groups.filter (fun g => g.role == .matrix)).mapIdx (fun i g => (i, g))).foldl (fun s x =>
      if saved x.2.num then
        let a := s.getWords core t (t.shape.accOff + 16384 * x.1) 4096
        if a.2.length = 4096 then a.1.modGroup ⟨t.id, x.2.num⟩ (fun g => { g with acc := slotsOf a.2 }) else s
      else s) s1

end Sys2Proof.Machine
end

