-- ==== Sys2Proof/Machine/ExitWords.lean ====
section
/-! DEFINITION. How groups and teams begin and end (02 R43, R55, 04 R130, 05 R194), EXIT, and the lane-trap collector and
its handler groups (13 R381 to R388). -/
namespace Sys2Proof.Machine

/-! ## A group at its first issue -/

/-- Control state at a first issue (R45, R53, R56, R198, R290, R291), with a seed for stochastic rounding (R130). -/
def Ctl.fresh (seed : Word) : Ctl :=
  { ptr := 0, base := 0, links := [], joins := [], lfsr := seed, dz := false, tfired := false, tlate := false, yielding := false,
    yieldUntil := none, stallUntil := 0, cyc := 0, timer := { armed := false, wall := false, deadline := 0, late := false },
    fence := none, park := none, emitting := false, bpSkip := none, words := 0, readsTo := 0, joinTo := 0, kept := [] }

/-- Fault state with nothing recorded (R397, R398). -/
def Flt.fresh : Flt :=
  { pending := [], report := false, count := 0, first := 0, codes := 0, addr := 0, valid := false, state := 0, code := 0,
    skid := 0, stopPc := 0, stopped := false }

/-- A base register that holds nothing. -/
def BaseReg.off : BaseReg :=
  { valid := false, space := .virtual, vbase := 0, frame := 0, limit := 0, perm := ⟨false, false, false, false⟩, leaf := (0, 0), more := [] }

/-- A slice with present lanes at a PC (R43, R46). -/
def Slice.fresh (pc : Word) (present : BitVec 4) : Slice :=
  { Slice.none with pc := pc, live := present != 0, present := present, active := present }

/-- A group at its first issue: a gang at a PC, its registers at the values log 5 names. -/
def Group.fresh (num : Nat) (role : Role) (budget spill : Nat) (lanes : Lanes) (pc : Word) (seed : Word) : Group :=
  { num := num, role := role, started := false,
    slices := (List.range 8).map (fun k => Slice.fresh pc (lanes.extractLsb' (4 * k) 4)),
    budget := budget, spill := spill, lines := List.replicate (budget + spill) zeroLine,
    resident := List.replicate (budget + spill) false, dirty := List.replicate (budget + spill) false, lineErrs := [],
    scalars := List.replicate 32 0, preds := List.replicate 8 0, index := List.replicate 4 (List.replicate 32 0),
    bases := List.replicate 8 BaseReg.off,
    acc := if role = .matrix then List.replicate 16 (List.replicate 256 0) else [],
    latch := none, restart := none, ctl := Ctl.fresh seed, flt := Flt.fresh, origins := [] }

/-- The seed of a group (R130). -/
def seedOf (team g : Nat) : Word :=
  let x : Word := BitVec.ofNat 32 (0x6A09E667 + 0x9E3779B9 * (32 * team + g))
  if x = 0 then 1 else x

/-! ## The lane-cycle record (23 R522, R523) -/

/-- The class of a lane: 0 active, 1 masked, 2 predicated, 3 absent, 4 idle. -/
def laneClass (g : Group) (w : Option Issued) (l : Nat) : Nat :=
  if !(g.slice (l / 4)).present.getLsbD (l % 4) then 3
  else
    match w with
    | none => 4
    | some w =>
      if w.hint || !w.slices.getLsbD (l / 4) then 4
      else if !w.active.getLsbD l then 1
      else if !w.sel.getLsbD l then 2
      else 0

/-- The bin of an offset. -/
def CoreDbg.binOf (d : CoreDbg) (pc : Word) : Nat :=
  ((List.range 16).find? (fun n =>
    let r := d.ranges.getD n 0
    let at_ := pc.toNat / 4
    r.getLsbD 63 && decide ((r.extractLsb' 0 30).toNat ≤ at_ ∧ at_ < (r.extractLsb' 32 30).toNat))).getD 16

/-- The 32 lanes of a group in a cycle, as (bin, class, lanes): those of the word it issued, else of the PC it offers next. -/
def CoreDbg.laneCounts (d : CoreDbg) (g : Group) (w : Option Issued) (offered : Word) : List (Nat × Nat × Nat) :=
  let bin := d.binOf ((w.map Issued.pc).getD offered)
  (List.range 5).map (fun k => (bin, k, (laneList.filter (fun l => laneClass g w l == k)).length))

/-- The word that a group has issued in the cycle. -/
def Core.issuedBy (k : Core) (team g : Nat) : Option Issued := k.clk.issued.find? (fun w => w.team == team && w.group == g)

/-- A group that ends in a cycle: its lanes are counted with that cycle, while the record counts its context. -/
def State.countEnded (s : State) (t : Team) (n : Nat) (g : Group) : State :=
  match t.core? with
  | none => s
  | some core =>
    let k := s.core core
    if k.dbg.lcrEn && t.shape.ctx == some k.dbg.lcrCtx.toNat then
      s.modCore core (fun c => { c with dbg := { c.dbg with lcrOut := c.dbg.lcrOut ++ c.dbg.laneCounts g (k.issuedBy t.id n) g.stopPcNow } })
    else s

/-! ## The end of a team (R194, R239, 15 R408, 17 R452, R462) -/

/-- Whether a group has a live slice. -/
def Group.alive (g : Group) : Bool := g.liveSlices != 0

/-- A team whose groups have all ended ends, unless it is halted (13 R391): its holds are released, its uncommitted positions discarded, its image slot
freed, and its launch counts it. -/
def State.endIfDone (s : State) (team : Nat) : State :=
  match s.team? team with
  | none => s
  | some t =>
    if t.ended || t.fr.halted || t.groups.any Group.alive || t.handler.isSome then s
    else
      let p := match t.core? with
        | some c => s.polderOf (quarterOf c)
        | none => 0
      let s1 := ((t.groups.mapIdx (fun n g => (n, g))).foldl (fun (s : State) x => s.countEnded t x.1 x.2) (s.endEngines p team)).modTeam team (fun t => { t with ended := true, barEvents := [], jobs := [], batches := [] })
      match t.launch with
      | none => s1
      | some l => s1.modLaunch l (fun x => { x with
          ended := x.ended + 1,
          nodes := match t.node with
            | some n => x.nodes.map (fun (d : Node) => if d.num == n then { d with slotsUsed := d.slotsUsed.erase t.imageSlot } else d)
            | none => x.nodes })

/-! ## Dispositions (R386) -/

/-- Whether a lane of a slice waits on a trap for its disposition. -/
def Slice.awaits (sl : Slice) (l : Nat) : Bool := sl.wait == .onTrap && sl.trapped.getLsbD l && sl.disps.all (fun d => d.1 != l)

/-- The disposition that handler lane j gives its origin lane; none where the lane has been given one already, as after the halt of its handler. -/
def giveDisp (c : Cx) (s : State) (j : Nat) : State :=
  match c.grp.origins[j]? with
  | none => s
  | some e =>
    let d := (c.grp.v 4 j).toNat % 4
    let kill := decide (2 ≤ d)
    let v3 := c.grp.v 3 j
    let lines := match s.group? ⟨c.ref.team, e.group⟩ with
      | some g => g.lines.length
      | none => 0
    let subst : Option (Word × Word) :=
      if d = 1 ∧ v3 ≠ 0xFFFFFFFF ∧ e.dbase + v3.toNat < lines then some (BitVec.ofNat 32 (e.dbase + v3.toNat), c.grp.v 5 j) else none
    let awaited := match s.group? ⟨c.ref.team, e.group⟩ with
      | some g => (g.slice (e.lane / 4)).awaits (e.lane % 4)
      | none => false
    if !awaited then s
    else
      (s.modGroup ⟨c.ref.team, e.group⟩ (fun g => g.modSlices ((1#8) <<< (e.lane / 4)) (fun _ sl =>
        { sl with disps := sl.disps ++ [(e.lane % 4, kill, subst)], dispAt := s.cycle }))).modTeam
        c.ref.team (fun t => { t with fr := { t.fr with
          killed := if kill then satAdd t.fr.killed 1 else t.fr.killed,
          badDisp := if d = 3 then satAdd t.fr.badDisp 1 else t.fr.badDisp } })

/-! ## EXIT (R194) -/

/-- The end of the active lanes of a sub-gang, once its FENCEX is done. A handler group that ends leaves the slot, but in the skid of its
team's halt, where its record stands (13 R398). -/
def exitLanes (c : Cx) (s : State) : State :=
  let s0 := if c.grp.role = .handler then (laneNums c.act).foldl (fun s j => giveDisp c s j) s else s
  let ended (k : Nat) : Slice := (c.grp.slice k).endLanes (c.grp.slice k).active
  let s1 := (retireBy c .exitW s0 (fun k => ((ended k).pc, (ended k).landed))).modGroup c.ref (fun g =>
    (((g.modSlices c.slices (fun k sl =>
        { sl with active := (ended k).active, stack := (ended k).stack, live := (ended k).live, wait := .running })).retagParted
      (c.slices &&& (sliceNums c.slices).foldl (fun m k => if (ended k).live then m ||| ((1#8) <<< k) else m) 0))).settle)
  let s2 := match s1.group? c.ref with
    | some g => if c.ref.g = 32 ∧ !g.alive ∧ !c.team.fr.halted then
        (s1.countEnded c.team 32 g).modTeam c.ref.team (fun t => { t with handler := none }) else s1
    | none => s1
  s2.endIfDone c.ref.team

/-- Deferred faults delivered at EXIT under REPORT = 1 (R392, R393): several of one code are one. -/
def exitDefers (c : Cx) (s : State) : State :=
  let n := (c.grp.flt.pending.map Prod.fst).eraseDups.length
  let s1 := (s.modTeam c.ref.team (fun t => { t with fr := { t.fr with defExit := satAdd t.fr.defExit n } })).modGroup c.ref
    (fun g => g.modFlt (fun f => { f with pending := [] }))
  match c.team.launch with
  | some l => s1.modLaunch l (fun x => { x with defers := x.defers + n })
  | none => s1

/-- EXIT (R194, R279, R392). -/
def execExitW (s : State) : Out :=
  word .exitW s (fun c s =>
    match fencexSteps c s with
    | (s1, false) => s1
    | (s1, true) =>
      match c.deferred with
      | [] => exitLanes c s1
      | (code, oper) :: _ =>
        if c.grp.flt.report then exitLanes c (exitDefers c s1)
        else if c.stuffed.isSome then raiseOp c s1 code oper
        else s1.halt c.ref code c.bundle oper true)

/-! ## The collector (R381, R382, R384) -/

/-- The order of entries: cycle, group, lane. -/
def TrapEntry.before (a b : TrapEntry) : Bool :=
  decide (a.cycle < b.cycle ∨ (a.cycle = b.cycle ∧ (a.group < b.group ∨ (a.group = b.group ∧ a.lane < b.lane))))

/-- Entries in order. -/
def insertTrap (e : TrapEntry) : List TrapEntry → List TrapEntry
  | [] => [e]
  | x :: xs => if e.before x then e :: x :: xs else x :: insertTrap e xs
def sortTraps (es : List TrapEntry) : List TrapEntry := es.foldl (fun acc e => insertTrap e acc) []

/-- Whether every live slice of a group waits. -/
def Group.stuck (g : Group) : Bool := g.ctl.park.isSome || (sliceNums g.liveSlices).all (fun k => (g.slice k).wait != .running)

/-- Whether a team's collector may form a handler group at a cycle. -/
def Team.collects (t : Team) (cycle : Nat) : Bool :=
  match sortTraps t.traps with
  | [] => false
  | e :: _ => 32 ≤ t.traps.length || decide (e.cycle + 16 ≤ cycle) || t.groups.all Group.stuck

/-- A team's note of the cycle in which its collector became ready, at the end of a cycle. -/
def Team.noteReady (t : Team) (cycle : Nat) : Team :=
  let ready := t.core?.isSome && !t.fr.halted && !t.ended && t.collects cycle
  { t with readySince := if ready then some (t.readySince.getD cycle) else none }

/-- The origin tag of an entry (R384). -/
def TrapEntry.tag (e : TrapEntry) : Nat → Word
  | 0 => BitVec.ofNat 32 (e.code * 65536 + e.group * 256 + e.lane)
  | 1 => e.pc
  | 2 => e.operand
  | 3 => match e.dest with
    | some d => BitVec.ofNat 32 d
    | none => 0xFFFFFFFF
  | _ => 0

/-- The handler group of a list of entries. -/
def handlerOf (es : List TrapEntry) (pc : Word) : Group :=
  let lanes : Lanes := BitVec.ofNat 32 (2 ^ es.length - 1)
  let g := Group.fresh 32 .handler 64 0 lanes pc 1
  { g with
    origins := es,
    lines := g.lines.mapIdx (fun n x => if n < 4 then mkLine (fun l => match es[l]? with
      | some e => e.tag n
      | none => 0) else x) }

/-- A handler group formed on a core, or NOHNDL (R381). Its lines are written to the handler area, and wait where that cannot be reached. -/
def State.formHandler (s : State) (core : Nat) (t : Team) : State :=
  match sortTraps t.traps with
  | [] => s
  | e :: rest =>
    if !t.fr.tvValid || !t.inCode t.fr.tvOffset.toNat then
      s.halt ⟨t.id, e.group⟩ 0x1E e.pc (trapOper e.code e.operand) false (s.skidSince ⟨t.id, e.group⟩ e.seq)
    else
      let h := handlerOf ((e :: rest).take 32) t.fr.tvOffset
      match s.putHandler core t h with
      | none => s
      | some s1 => s1.modTeam t.id (fun t => { t with
          handler := some h, traps := (e :: rest).drop 32, readySince := none, fr := { t.fr with handlers := satAdd t.fr.handlers 1 } })

/-- HANDLER_FORMATION (R381, R382): the core's handler slot goes to the collector that became ready first. -/
def execHandlerFormation (team : Nat) (s : State) : Out :=
  .next (match s.team? team with
    | none => s
    | some t =>
      match t.core? with
      | none => s
      | some core =>
        let others := s.residents core
        if t.collects s.cycle && !t.fr.halted && !t.ended && others.all (fun u => u.handler.isNone) &&
            others.all (fun u => u.id == t.id || u.fr.halted || !u.collects s.cycle ||
              decide (t.readySince.getD s.cycle ≤ u.readySince.getD s.cycle))
        then s.formHandler core t else s)

/-! ## Release (R387) -/

/-- Whether a slice has a disposition for every trapped lane. -/
def Slice.disposed (sl : Slice) : Bool :=
  sl.wait == .onTrap && sl.live && (List.range 4).all (fun l => !sl.trapped.getLsbD l || sl.disps.any (fun d => d.1 == l))

/-- The substitutions of a slice written (R387 step 1). -/
def Group.substitute (g : Group) (k : Nat) : Group :=
  (g.slice k).disps.foldl (fun g d => match d.2.2 with
    | some (line, v) => g.setLine line.toNat ((1#32) <<< (4 * k + d.1)) (fun _ => v)
    | none => g) g

/-- The lanes of a slice its dispositions kill. -/
def Slice.killed (sl : Slice) : BitVec 4 :=
  sl.disps.foldl (fun m d => if d.2.1 then m ||| ((1#4) <<< d.1) else m) 0

/-- The slices of a mask act on their dispositions; those of one trapping word form one sub-gang, and those of it that still wait form
another (R44, R387). -/
def Group.releaseTraps (g : Group) (mask : BitVec 8) : Group :=
  let m := (sliceNums mask).foldl (fun (acc : BitVec 8) k => if (g.slice k).disposed then acc ||| ((1#8) <<< k) else acc) 0
  let g1 := (sliceNums m).foldl (fun g k => g.substitute k) g
  let g2 := g1.modSlices m (fun _ sl =>
    let x := { sl with wait := .running, trapped := 0, disps := [] }
    if sl.killed = 0 then x else x.endLanes sl.killed)
  let moved : BitVec 8 := (sliceNums m).foldl (fun acc k =>
    if (g2.slice k).live && (g2.slice k).pc != (g.slice k).pc then acc ||| ((1#8) <<< k) else acc) 0
  let stay := m &&& ~~~moved
  let left := g.slicesWhere (fun sl => sl.live && sl.wait == .onTrap) &&& ~~~m
  let parts (x : BitVec 8) (g1 : Group) : Group := g1.modSlices x (fun k sl =>
    { sl with tag := (((sliceNums x).filter (fun j => (g.slice j).tag == (g.slice k).tag && (g.slice j).pc == (g.slice k).pc)).head?).getD k })
  ((parts left (parts stay g2)).retagByPc moved).settle

/-- The destination lines of a slice's substitutions. -/
def Slice.substLines (sl : Slice) : List Nat := sl.disps.filterMap (fun d => d.2.2.map (fun x => x.1.toNat))

/-- The slices of a group whose last disposition stood before a cycle (R387). -/
def Group.settled (g : Group) (cycle : Nat) : List Nat :=
  (sliceNums g.liveSlices).filter (fun k => (g.slice k).disposed && decide ((g.slice k).dispAt < cycle))

/-- Lines that a group's substitutions lack (R64, R387 step 1). -/
def Group.substMissing (g : Group) (cycle : Nat) : List Nat :=
  ((g.settled cycle).flatMap (fun k => (g.slice k).substLines)).filter (fun n => !g.resident.getD n false)

/-- The slices of a group that go on from their traps in a cycle. -/
def Group.releasable (g : Group) (cycle : Nat) : BitVec 8 :=
  ((g.settled cycle).filter (fun k => (g.slice k).substLines.all (fun n => g.resident.getD n false))).foldl (fun m k => m ||| ((1#8) <<< k)) 0

/-- TRAP_RELEASE (R387): in the cycle after the last disposition, once the lines of the substitutions are resident; of a halted team none
(R388). -/
def execTrapRelease (team g : Nat) (slices : BitVec 8) (s : State) : Out :=
  .next (match s.team? team with
    | none => s
    | some t =>
      if t.fr.halted || t.core?.isNone then s
      else (s.modGroup ⟨team, g⟩ (fun x => x.releaseTraps (slices &&& x.releasable s.cycle))).endIfDone team)

/-! ## Handler lanes halted without EXIT (R386) -/

/-- The origin of a handler lane that gives no disposition: killed, once it is released. -/
def Team.loseOrigin (t : Team) (cycle : Nat) (e : TrapEntry) : Team :=
  match t.groups[e.group]? with
  | none => t
  | some g =>
    if (g.slice (e.lane / 4)).awaits (e.lane % 4) then
      { t.modGroup e.group (fun g => g.modSlices ((1#8) <<< (e.lane / 4)) (fun _ sl =>
          { sl with disps := sl.disps ++ [(e.lane % 4, true, none)], dispAt := cycle })) with
        fr := { t.fr with killed := satAdd t.fr.killed 1, lost := satAdd t.fr.lost 1 } }
    else t

/-- The origins of the live handler lanes of a halted team, from the end of its skid on (R386, R389): the disposition of each is KILL, and
LOST counts it. No lane leaves its slice before a RESUME (R388, log 46). -/
def Team.loseOrigins (t : Team) (cycle : Nat) : Team :=
  match t.handler with
  | some h =>
    if t.fr.halted && decide (t.fr.haltedAt + 12 ≤ cycle) then
      ((h.origins.mapIdx (fun j e => (j, e))).filter (fun x => (h.slice (x.1 / 4)).live && (h.slice (x.1 / 4)).alive.getLsbD (x.1 % 4))).foldl
        (fun t x => t.loseOrigin cycle x.2) t
    else t
  | none => t

end Sys2Proof.Machine
end

