-- ==== Sys2Proof/Machine/LaunchWords.lean ====
section
/-! DEFINITION. Major LNCH (08 R287, R288) and the dispatcher's placing of records (15 R418, R419, R421). -/
namespace Sys2Proof.Machine

/-- A word that has issued and holds its group until an event ends it (R288): its slices stand at the next word, which they do not issue
yet (13 R390). -/
def issueHeld (c : Cx) (i : Instr) (s : State) : State :=
  schedule c ((noteIssue c i s).modGroup c.ref (fun g =>
    let moved := c.moved i (fun _ => (c.pc + 4, false)) g
    (if c.stuffed.isSome then moved else moved.modSlices c.slices (fun _ sl => { sl with wait := .inWord })).modCtl (fun k =>
      { k with emitting := true })))

/-- EMIT and EMIT.nb (R287, R288): the record goes to the dispatcher, and the group waits until it is placed or refused. -/
def emitWord (i : Instr) (a b : BitVec 5) (pred : Option Nat) (s : State) : Out :=
  word i s (fun c s =>
    let va := (c.grp.s a.toNat).toNat
    let sb := c.grp.s b.toNat
    let n := (sb.extractLsb' 16 7).toNat
    if accessHeld s c false false 2 || opsBehind c s va 64 then s
    else if va % 8 ≠ 0 ∨ n = 0 ∨ 64 < n ∨ sb.extractLsb' 23 41 ≠ 0 then raiseOp c s 0x1C (sb.setWidth 32 |>.setWidth 56)
    else
      let send (s : State) (v : Nat) : State :=
        let e : Emission :=
          { cycle := s.cycle, core := c.core, team := c.ref.team, group := c.ref.g, node := (sb.extractLsb' 0 16).toNat, bytes := BitVec.ofNat 512 v,
            len := n, pred := pred, slices := if c.stuffed.isSome then 0 else c.slices, act := c.act, pc := c.bundle }
        let s1 := s.release c.quarter 4 (s.polderQuarters c.quarter)
        issueHeld c i { s1 with emits := s1.emits ++ [e] }
      match s.vRead c.core c.team.shape.ctx (c.level == 0) .touching va n with
      | (s1, .ok v) => send s1 v
      | (s1, .bad code oper v) => send (s1.noteBad c.core c.team.shape.ctx (c.level == 0) c.ref code oper) v
      | (s1, .wait k pa) =>
        (match c.stuffed with
        | some x => s1.endExec x 4 0
        | none => parkWord c s1 [(0, pa, k)] [])
      | (s1, .deny pa) => raiseOp c s1 0x18 (BitVec.ofNat 56 pa)
      | (s1, .hold) => s1)

/-- EMIT sA, sB (R287, R288). -/
def execEmit (a b : BitVec 5) (s : State) : Out := emitWord (.emit a b) a b none s
/-- EMIT.nb pN, sA, sB (R287, R288). -/
def execEmitNb (a b : BitVec 5) (n : BitVec 3) (s : State) : Out := emitWord (.emitNb a b n) a b (some n.toNat) s

/-! ## The dispatcher -/

/-- The EMIT of a record ends: its sub-gang goes on. -/
def State.emitDone (s : State) (e : Emission) (placed : Bool) : State :=
  s.modGroup ⟨e.team, e.group⟩ (fun g =>
    let g0 := match e.pred with
      | some n => g.setP n e.act (if placed then BitVec.allOnes 32 else 0)
      | none => g
    ((g0.modSlices e.slices (fun _ sl => { sl with wait := .running })).modCtl (fun k => { k with emitting := false })).settle)

/-- Records of a polder in the store and in the overflow area (R421, R422). -/
def State.recordsOf (s : State) (p : Nat) : List NodeRec :=
  let ls := s.launches.filter (fun l => l.polder == p)
  ls.flatMap (fun l => l.nodes.flatMap (fun n => n.queue)) ++
  (s.teams.filter (fun t => ls.any (fun l => t.launch == some l.id))).flatMap (fun t => t.records)
def State.stored (s : State) (p : Nat) : Nat := ((s.recordsOf p).filter (fun r => r.overflow.isNone)).length
def State.ovfUsed (s : State) (p : Nat) : Nat := ((s.recordsOf p).filter (fun r => r.overflow.isSome)).length

/-- The lowest free slot of a polder's overflow area, and the address of a slot (R421, R422). -/
def State.ovfSlot (s : State) (p : Nat) : Nat :=
  let used := (s.recordsOf p).filterMap (fun r => r.overflow)
  ((List.range (used.length + 1)).find? (fun n => !used.contains n)).getD 0
def State.ovfAddr (s : State) (p n : Nat) : Nat := 64 * ((s.polder p).plovf.toNat + n)

/-- The polder of a team's launch; of its core where it has none. -/
def State.teamPolder (s : State) (t : Team) : Nat :=
  match t.launch.bind s.launch? with
  | some l => l.polder
  | none => match t.core? with
    | some c => s.polderOf (quarterOf c)
    | none => 0

/-- One record taken by the dispatcher (R288, R419, R421): none where its EMIT waits for a slot. -/
def State.takeRecord (s : State) (p : Nat) (e : Emission) : Option State :=
  let gone : State := { s with emits := s.emits.erase e }
  match s.team? e.team with
  | none => some gone
  | some t =>
    match t.launch.bind s.launch? with
    | none => some ((gone.deferFault ⟨e.team, e.group⟩ 0x42 (BitVec.ofNat 56 e.node)).emitDone e true)
    | some l =>
      if l.torn then some ((gone.modLaunch l.id (fun l => { l with discarded := l.discarded + 1 })).emitDone e true)
      else if !l.nodes.any (fun n => n.num == e.node) then
        some ((gone.deferFault ⟨e.team, e.group⟩ 0x42 (BitVec.ofNat 56 e.node)).emitDone e true)
      else
        let spill := decide (Config.pendingRecords ≤ s.stored p)
        if spill ∧ (s.polder p).plovfn.toNat ≤ s.ovfUsed p then
          (if e.pred.isSome then some (gone.emitDone e false) else none)
        else if spill && !s.devReady p (s.ovfAddr p (s.ovfSlot p)) then none
        else
          let slot := if spill then some (s.ovfSlot p) else none
          let r : NodeRec := { bytes := e.bytes, len := e.len, tick := s.tick.toNat, overflow := slot }
          let kept := match slot with
            | some n => gone.devWrite p (s.ovfAddr p n) 64 e.bytes.toNat
            | none => gone
          some ((kept.modLaunch l.id (fun l => { l with nodes := l.nodes.map (fun (n : Node) =>
            if n.num == e.node then { n with queue := n.queue ++ [r] } else n) })).emitDone e true)

/-- An emission before another: cycle, core, group (R419). -/
def Emission.before (a b : Emission) : Bool :=
  decide (a.cycle < b.cycle ∨ (a.cycle = b.cycle ∧ (a.core < b.core ∨ (a.core = b.core ∧ a.group < b.group))))
def insertEmit (e : Emission) : List Emission → List Emission
  | [] => [e]
  | x :: xs => if e.before x then e :: x :: xs else x :: insertEmit e xs

/-- The records a polder's dispatcher has taken in the present cycle. -/
def State.dispatchedNow (s : State) (p : Nat) : Nat :=
  if (s.polder p).dispatched.1 = s.cycle then (s.polder p).dispatched.2 else 0

/-- DISPATCH_RECORD (R419): a polder's dispatcher takes up to four records in a cycle. -/
def execDispatchRecord (polder : Nat) (s : State) : Out :=
  .next (
    let mine := s.emits.filter (fun e => match s.team? e.team with
      | some t => s.teamPolder t == polder
      | none => true)
    let ordered := mine.foldl (fun acc e => insertEmit e acc) []
    let r := ordered.foldl (fun (acc : State × Nat) e =>
      if 4 ≤ acc.2 then acc
      else
        match acc.1.takeRecord polder e with
        | some s1 => (s1, acc.2 + 1)
        | none => acc) (s, s.dispatchedNow polder)
    r.1.modPolder polder (fun x => { x with dispatched := (s.cycle, r.2) }))

end Sys2Proof.Machine
end

