-- ==== Sys2Proof/Machine/EvPolders.lean ====
section
/-! DEFINITION. Sluices, the reshaping of polders, interleave ranges and bias flips (11 R354, 19 R476 to R489, 20 R499,
R500, 21 R511). -/
namespace Sys2Proof.Machine

/-! ## Sluices (R483, R499) -/

/-- Whether a queue of a polder holds work (R483). A launch stays listed until its report is written (R408). -/
def State.holdsWork (s : State) (p q : Nat) : Bool :=
  let k := (s.polder p).queues.getD q Queue.reset
  (k.enable && k.head != k.tail) || s.launches.any (fun l => l.polder == p && l.queue == q)

/-- The lowest queue of a polder that holds work. -/
def State.busyQueue (s : State) (p : Nat) : Option Nat := (List.range 128).find? (fun q => s.holdsWork p q)

/-- A write of OP to SLUICE (R483): state 0 OPEN, 1 CLOSING, 2 CLOSED; status 0 OK, 1 BUSY, 2 IGNORED. -/
def State.sluiceOp (s : State) (p op : Nat) : State :=
  let st := (s.polder p).sluice
  if op = 1 ∧ st = 0 then
    match s.busyQueue p with
    | some n => s.modPolder p (fun x => { x with sluiceStatus := 1, busyq := BitVec.ofNat 7 n })
    | none => s.modPolder p (fun x => { x with sluice := 2, sluiceStatus := 0 })
  else if op = 2 ∧ st = 0 then s.modPolder p (fun x => { x with sluice := 1 })
  else if op = 3 ∧ (st = 1 ∨ st = 2) then s.modPolder p (fun x => { x with sluice := 0, sluiceStatus := 0 })
  else s.modPolder p (fun x => { x with sluiceStatus := 2 })

/-- A command of a register write waits for the end of its cycle, in the order of the writing cores. -/
def queueCmd (x : Nat × Nat × Nat × DWord) : List (Nat × Nat × Nat × DWord) → List (Nat × Nat × Nat × DWord)
  | [] => [x]
  | y :: ys => if y.1 ≤ x.1 then y :: queueCmd x ys else x :: y :: ys

/-- CLOSE_REFUSE (R483, R499): it tests each queue as the cycle ends, after the QTAIL writes and reports of the cycle. -/
def execCloseRefuse (polder : Nat) (s : State) : Out :=
  .next (if s.present polder then { s with cmds := queueCmd (256, 0x302, 4 + polder, 1) s.cmds } else s)
/-- CLOSE_DRAIN (R483). -/
def execCloseDrain (polder : Nat) (s : State) : Out := .next (if s.present polder then s.sluiceOp polder 2 else s)
/-- OPEN (R483). -/
def execOpenSluice (polder : Nat) (s : State) : Out := .next (if s.present polder then s.sluiceOp polder 3 else s)
/-- SLUICE_CLOSED (R483): a CLOSING sluice, in the cycle after one that ended with no queue holding work. -/
def execSluiceClosed (polder : Nat) (s : State) : Out :=
  .next (if (s.polder polder).sluice = 1 ∧ (s.polder polder).sluiceIdle = true ∧ s.busyQueue polder = none then
    s.modPolder polder (fun x => { x with sluice := 2, sluiceStatus := 0 })
  else s)

/-! ## Exposed pages (R353, R488) -/

/-- A page of exposed device memory of a polder. -/
def State.pageExposed (s : State) (p page : Nat) : Bool :=
  ((List.range 4).filter (fun q => s.polderOf q == p)).any (fun q => s.exposed q (page * 65536))

/-- Pages of host bias that no range exposes any more lose it: a page is in device bias when its range becomes exposed
(R488). -/
def State.trimBias (s : State) : State :=
  s.modHome (fun h => { h with hostBias := h.hostBias.filter (fun page => (List.range 4).any (fun q => s.exposed q (page * 65536))) })

/-! ## Shapes (R476, R484 to R486, R500) -/

/-- The quarter sets of R476. -/
def shapes : List (BitVec 4) := [1, 2, 4, 8, 3, 12, 15]

/-- The masks of the polders that meet a mask, lowest first. -/
def State.oldMasks (s : State) (n : BitVec 4) : List (BitVec 4) :=
  (((List.range 4).map (fun q => (s.part q).mask)).filter (fun m => m &&& n != 0)).eraseDups

/-- The range registers of a quarter that hold VALID = 1, as ranges (R481). -/
def State.rangeList (s : State) (q : Nat) : List Range :=
  (List.range 8).filterMap (fun i => rangeOf ((s.part q).irBase.getD i 0) ((s.part q).irCfg.getD i 0))

/-- Two quarters hold the same set of ranges. -/
def sameRanges (a b : List Range) : Bool := a.all (fun r => b.contains r) && b.all (fun r => a.contains r)

/-- The quarters of a mask. -/
def maskQuarters (m : BitVec 4) : List Nat := (List.range 4).filter (fun q => m.getLsbD q)

/-- What still holds a polder that a merge would absorb (R484, WHY 4). -/
def State.engaged (s : State) (p : Nat) : Bool :=
  (s.polder p).queues.any (fun q => q.enable) || (s.polder p).eng.enable || !(s.recordsOf p).isEmpty

/-- The first check of R484 that a write of mask n to quarter q fails; 0 where none does. -/
def State.shapeWhy (s : State) (q : Nat) (n : BitVec 4) : Nat :=
  let olds := s.oldMasks n
  let kept := s.polderOf (lowestQuarter n)
  let splits := olds.filter (fun m => m &&& ~~~n != 0)
  if !n.getLsbD q || !shapes.contains n || splits.any (fun m => !shapes.contains (m &&& ~~~n)) then 1
  else if olds.any (fun m => (s.polder (lowestQuarter m)).sluice != 2) then 2
  else if (maskQuarters n).any (fun k => !sameRanges (s.rangeList k) (s.rangeList (lowestQuarter n))) then 3
  else if 1 < olds.length && olds.any (fun m => lowestQuarter m != kept && s.engaged (lowestQuarter m)) then 4
  else if splits.any (fun m =>
      (s.ranges (lowestQuarter m)).any (fun r => r.qmask &&& n != 0 && r.qmask &&& (m &&& ~~~n) != 0) ||
      s.ctxs.any (fun c => c.live && c.polder == lowestQuarter m)) then 5
  else 0

/-- What a polder that a reshape leaves without an old polder's units starts with (R485, R511). -/
def Polder.split (old mine : Polder) : Polder :=
  { Polder.reset with sluice := 2, featOn := old.featOn, snReady := mine.snReady }

/-- The outstanding faults of an absorbed polder, as if raised now (R486). -/
def FaultEntry.again (e : FaultEntry) (tick : DWord) : FaultEntry :=
  { e with index := none, entry := (e.entry.extractLsb' 0 192).setWidth 256 ||| ((tick.setWidth 256) <<< 192) }

/-- A reshape that no check refuses (R484 to R486, R511). -/
def State.reshape (s : State) (n : BitVec 4) : State :=
  let olds := s.oldMasks n
  let kept := s.polderOf (lowestQuarter n)
  let newMask (k : Nat) : BitVec 4 :=
    if n.getLsbD k then n else if (s.part k).mask &&& n != 0 then (s.part k).mask &&& ~~~n else (s.part k).mask
  let lost := (olds.map lowestQuarter).filter (fun p => p != kept && n.getLsbD p)
  let moved := lost.flatMap (fun p => (s.polder p).fq.entries.map (fun e => e.again s.tick))
  let s1 : State := { s with
    parts := s.parts.mapIdx (fun k x => { x with mask := newMask k }),
    polders := s.polders.mapIdx (fun k x =>
      let m := newMask k
      if !(olds.any (fun o => o.getLsbD k)) then x
      -- the lowest quarter of its old polder keeps that polder's units
      else if s.polderOf k == k && lowestQuarter m == k then x
      else if lowestQuarter m == k then Polder.split (s.polder (s.polderOf k)) x
      else { Polder.reset with snReady := x.snReady }),
    ctxs := s.ctxs.map (fun c => if c.live && lost.contains c.polder then { c with polder := kept } else c) }
  ((s1.modPolder kept (fun x => { x with fq := { x.fq with entries := x.fq.entries ++ moved } })).pumpFaults kept).trimBias

/-- A write to PSHAPE of quarter q (R484, R500). -/
def State.pshapeWrite (s : State) (q : Nat) (v : DWord) : State :=
  let n := v.extractLsb' 4 4
  let why := s.shapeWhy q n
  let s1 := if why = 0 then s.reshape n else s
  s1.modPart q (fun x => { x with rej := why != 0, why := BitVec.ofNat 3 why })

/-- PSHAPE_WRITE (R484). -/
def execPshapeWrite (q : Nat) (v : DWord) (s : State) : Out := .next (s.pshapeWrite q v)

/-! ## Ranges and bias (R353, R354, R481, R488, R489) -/

/-- A write to IRBASEn or IRCFGn of a quarter (R481). -/
def State.writeRange (s : State) (q i : Nat) (cfg : Bool) (v : DWord) : State :=
  (s.modPart q (fun x =>
    if cfg then { x with irCfg := x.irCfg.set i (v &&& 0x0000FFFF00FFF1F0) }
    else { x with irBase := x.irBase.set i (v &&& 0x000FFFFFC0000001) })).trimBias

/-- The operations with a lane on a page that is still to be performed: its accesses in flight (R354). -/
def State.opsOnPage (s : State) (page : Nat) : List Nat :=
  (s.ops.filter (fun o => (laneNums (o.sel &&& ~~~o.served)).any (fun l => match o.phys? l with
    | some (pa, _) => pa / 65536 == page
    | none => false))).map (fun o => o.id)

/-- Every copy of a page leaves every quarter, its dirty bytes written back first (R354). -/
def State.emptyPage (s : State) (page : Nat) : State := (List.range 16).foldl (fun s i => s.removeEverywhere (16 * page + i)) s

/-- A flip that runs completes once no access that was in flight when it began is left (R354). -/
def State.biasGo (s : State) (p : Nat) : State :=
  let x := s.polder p
  let page := x.biasPage.toNat
  match x.biasOps with
  | none => s
  | some ids =>
    if (s.opsOnPage page).any (fun n => ids.contains n) then s
    else
      let s1 := if x.biasTo then s.emptyPage page else s
      ((s1.modHome (fun h => { h with
        hostBias := if x.biasTo then page :: h.hostBias else h.hostBias.filter (fun y => y != page) })).modPolder p (fun x =>
          { x with biasOps := none })).sweep

/-- A write to BIASCMD (R354, R489): status 0 OK, 1 NOTEXPOSED, 2 SAME; ignored while a flip runs. -/
def State.biasCmd (s : State) (p : Nat) (v : DWord) : State :=
  let toHost := v.getLsbD 62
  let page := (v.extractLsb' 16 36).toNat
  let put (s : State) (st : BitVec 2) (ops : Option (List Nat)) : State :=
    s.modPolder p (fun x => { x with biasTo := toHost, biasPage := BitVec.ofNat 36 page, biasStatus := st, biasOps := ops })
  if (s.polder p).biasOps.isSome then s
  else if !s.pageExposed p page || (toHost && !s.feature p 17) then put s 1 none
  else if s.home.hostBias.contains page == toHost then put s 2 none
  else
    let s1 := if toHost then s.emptyPage page else s
    (put s1 0 (some (s1.opsOnPage page))).biasGo p

/-- BIAS_FLIP (R489). -/
def execBiasFlip (polder : Nat) (v : DWord) (s : State) : Out := .next (if s.present polder then s.biasCmd polder v else s)

end Sys2Proof.Machine
end

