-- ==== Sys2Proof/Machine/EvPool.lean ====
section
/-! DEFINITION. The pool: regions, their commands and the loss of their links (09 R320, R328, 19 R490 to R493). -/
namespace Sys2Proof.Machine

/-- Whether a pool port carries traffic (R492, R510, R512). -/
def State.portUp (s : State) (port : Nat) : Bool :=
  (s.part port).poolUp && s.feature (s.polderOf port) 15 && s.dev.readyPool.getLsbD port

/-- A tile lies in a region. -/
def Region.hasTile (r : Region) (tile : Nat) : Bool := r.has (4096 * tile)

/-- A bay slot that holds a stranded tile of a region (R320). -/
def strandedIn (r : Region) (e : Option (Copy × Option Nat)) : Bool :=
  match e with
  | some (c, none) => r.hasTile c.tile
  | _ => false

/-- Stranded tiles of a region, device-wide (R493). -/
def State.strandedOf (s : State) (n : Nat) : Nat :=
  (s.quarters.map (fun q => (q.bay.filter (strandedIn (s.region n))).length)).foldl (· + ·) 0

/-- Two regions in use share an address. -/
def Region.meets (a b : Region) : Bool :=
  a.size != 0 && b.size != 0 &&
  decide (a.base.toNat < b.base.toNat + b.size.toNat ∧ b.base.toNat < a.base.toNat + a.size.toNat)

/-- A region overlaps another in use (R491, R492). -/
def State.regionOverlaps (s : State) (n : Nat) : Bool :=
  (List.range s.regions.length).any (fun m => m != n && (s.region n).meets (s.region m))

/-- A command completes with a status: 0 OK, 1 BADSTATE, 2 PORTDOWN, 3 OVERLAP. -/
def State.rgDone (s : State) (n : Nat) (st : BitVec 8) : State := s.modRegion n (fun r => { r with status := st })

/-- RGCMD ONLINE (R492). -/
def State.rgOnline (s : State) (n : Nat) : State :=
  let r := s.region n
  if r.state != .fenced then s.rgDone n 1
  else if !s.portUp r.port.toNat then s.rgDone n 2
  else if s.regionOverlaps n then s.rgDone n 3
  else (s.modRegion n (fun r => { r with state := .online })).rgDone n 0

/-- The tiles of a region that a quarter holds. -/
def Quarter.tilesOf (k : Quarter) (r : Region) : List Nat := (k.copies.filter (fun c => r.hasTile c.tile)).map (fun c => c.tile)

/-- Every copy of a region leaves every quarter, dirty bytes written back (R492); a copy that awaits its fill stays for `dropFills`. -/
def State.emptyRegion (s : State) (n : Nat) : State :=
  let r := s.region n
  let s1 := (List.range 4).foldl (fun s q =>
    ((s.quarter q).copies.filter (fun c => r.hasTile c.tile && !c.filling)).foldl (fun s c => s.leave q c.tile) s) s
  ((s1.wbq.filter (fun w => r.hasTile w.tile)).map (fun w => w.tile)).foldl State.flushWb s1

/-- The copies of a region that await their fill are removed, and what waited for it meets the region as it now is (R315). -/
def State.dropFills (s : State) (n : Nat) : State :=
  let r := s.region n
  (List.range 4).foldl (fun s q =>
    ((s.quarter q).copies.filter (fun c => r.hasTile c.tile && c.filling)).foldl (fun s c => s.removeCopy q c.tile) s) s

/-- RGCMD FENCE (R492): dirty tiles are written back under the old state; accesses that await a fill then record POOLREG (R315). -/
def State.rgFence (s : State) (n : Nat) : State :=
  match (s.region n).state with
  | .online | .degraded =>
    ((((s.emptyRegion n).modRegion n (fun r => { r with state := .fenced })).dropFills n).rgDone n 0).sweep
  | _ => s.rgDone n 1

/-- RGCMD REHOME (R492): stranded tiles are written through the port the region now has, then leave the bay. -/
def State.rgRehome (s : State) (n : Nat) : State :=
  let r := s.region n
  if r.state != .lost then s.rgDone n 1
  else if !s.portUp r.port.toNat then s.rgDone n 2
  else
    let s1 := s.modRegion n (fun r => { r with state := .online })
    let s2 := (List.range 4).foldl (fun s q =>
      ((s.quarter q).bay.filterMap (fun e => if strandedIn r e then e.map (fun x => x.1.tile) else none)).foldl
        (fun s t => (s.leave q t).flushWb t) s) s1
    s2.rgDone n 0

/-- RGCMD DISCARD (R492). -/
def State.rgDiscard (s : State) (n : Nat) : State :=
  let r := s.region n
  if r.state != .lost then s.rgDone n 1
  else
    let k := s.strandedOf n
    ({ s with quarters := s.quarters.map (fun (q : Quarter) =>
        { q with bay := q.bay.map (fun e => if strandedIn r e then none else e) }) }.modRegion n
      (fun r => { r with state := .fenced, lostDirty := satAdd r.lostDirty k })).rgDone n 0

/-- The command of a write of OP to RGCMD (R492), which runs as its cycle ends (log 28). -/
def State.rgCmd (s : State) (n op : Nat) : State :=
  match op with
  | 1 => s.rgOnline n
  | 2 => s.rgFence n
  | 3 => s.rgRehome n
  | 4 => s.rgDiscard n
  | _ => s

/-- ONLINE (R492). -/
def execOnline (region : Nat) (s : State) : Out := .next (s.rgOnline region)
/-- REGION_FENCE (R492). -/
def execRegionFence (region : Nat) (s : State) : Out := .next (s.rgFence region)
/-- REHOME (R492). -/
def execRehome (region : Nat) (s : State) : Out := .next (s.rgRehome region)
/-- DISCARD (R492). -/
def execDiscard (region : Nat) (s : State) : Out := .next (s.rgDiscard region)

/-- DEGRADED_SERVICE (R492). -/
def execDegradedService (region : Nat) (s : State) : Out :=
  .next (s.modRegion region (fun r => if r.state = .online then { r with state := .degraded } else r))
/-- SERVICE_RESTORED (R492). -/
def execServiceRestored (region : Nat) (s : State) : Out :=
  .next (s.modRegion region (fun r => if r.state = .degraded then { r with state := .online } else r))

/-! ## Loss (R320, R328, R492) -/

/-- A copy of a lost region in a quarter: clean ones go; a dirty one is stranded within the budget, or dropped and
counted. -/
def State.loseTile (n q : Nat) (s : State) (tile : Nat) : State :=
  let k := s.quarter q
  match k.copy? tile with
  | none => s
  | some c =>
    let bare : Copy := { c with owner := none, filling := false, motion := none, queue := [] }
    if c.dirty = 0 then s.modQuarter q (fun k => k.dropCopy tile)
    else
      let room := decide (k.stranded < min k.budget.toNat Config.baySlots)
      match k.slotOf tile, k.bay.findIdx? (fun e => e.isNone) with
      | some i, _ =>
        if room then s.modQuarter q (fun k => { k with bay := k.bay.set i (some (bare, none)) })
        else (s.modQuarter q (fun k => k.dropCopy tile)).modRegion n (fun r => { r with lostDirty := satAdd r.lostDirty 1 })
      | none, some i =>
        if room then s.modQuarter q (fun k => { (k.dropCopy tile) with bay := k.bay.set i (some (bare, none)) })
        else (s.modQuarter q (fun k => k.dropCopy tile)).modRegion n (fun r => { r with lostDirty := satAdd r.lostDirty 1 })
      | none, none =>
        (s.modQuarter q (fun k => k.dropCopy tile)).modRegion n (fun r => { r with lostDirty := satAdd r.lostDirty 1 })

/-- A copy's dirty bytes that a failed write-back carried, under those the copy holds dirty itself. -/
def Copy.unsent (c : Copy) (w : WriteBack) : Copy :=
  let m := w.mask &&& ~~~c.dirty
  { (c.take m w.data w.poison) with dirty := c.dirty ||| m }

/-- An empty copy for a write-back's tile. -/
def WriteBack.copy (w : WriteBack) : Copy :=
  { tile := w.tile, owner := none, keyslot := w.keyslot, data := 0, valid := 0, dirty := 0, poison := 0, errs := [], filling := false, motion := none,
    queue := [], leaf := tierLeaf w.tier }

/-- A write-back fails: its bytes are dirty in the quarter that sent it again, in the copy that stands there now or else in one at the end of the
chain (R492, log 24). -/
def State.wbFails (s : State) (w : WriteBack) : State :=
  s.modQuarter w.quarter (fun k =>
    if (k.copy? w.tile).isSome then k.modCopy w.tile (fun c => c.unsent w)
    else { k with chain := k.chain ++ [w.copy.unsent w] })

/-- The fill of a copy of a lost region never comes: what waited for it records POOLREG (R315, R492). -/
def State.loseFill (n q : Nat) (s : State) (tile : Nat) : State :=
  match (s.quarter q).copy? tile with
  | none => s
  | some c =>
    c.queue.foldl (fun s w => match s.op? w.1 with
      | some o => s.serveLost o w.2 0x45 (BitVec.ofNat 56 n)
      | none => s) (s.modQuarter q (fun k => k.modCopy tile (fun c => { c with filling := false, motion := none, queue := [] })))

/-- A region becomes LOST: its write-backs on their way fail, the youngest first, so that a later one's bytes prevail; then its copies go or are
stranded (R315, R320, R492, log 24). -/
def State.loseRegion (s : State) (n : Nat) : State :=
  let r := s.region n
  match r.state with
  | .online | .degraded =>
    let s1 := s.modRegion n (fun r => { r with state := .lost })
    let failed := s1.wbq.filter (fun w => r.hasTile w.tile)
    let s2 := failed.reverse.foldl State.wbFails { s1 with wbq := s1.wbq.filter (fun w => !r.hasTile w.tile) }
    (List.range 4).foldl (fun s q =>
      ((s.quarter q).tilesOf r).foldl (State.loseTile n q) (((s.quarter q).tilesOf r).foldl (State.loseFill n q) s)) s2
  | _ => s

/-- POOL_LINK_LOST (R492): the link of a port, or one expander behind it. -/
def execPoolLinkLost (port : Nat) (expander : Option Nat) (s : State) : Out :=
  .next (
    let hit (r : Region) : Bool := r.size != 0 && r.port.toNat == port &&
      (match expander with
      | some e => r.expander.toNat == e
      | none => true)
    let s1 := if expander.isNone then s.modPart port (fun x => { x with poolUp := false }) else s
    (((List.range s.regions.length).filter (fun n => hit (s.region n))).foldl State.loseRegion s1).sweep)

/-- POOL_LINK_UP (R492). -/
def execPoolLinkUp (port : Nat) (s : State) : Out := .next (s.modPart port (fun x => { x with poolUp := true }))

end Sys2Proof.Machine
end

