-- ==== Sys2Proof/Machine/EvHeat.lean ====
section
/-! DEFINITION. Heat, refresh, retention, scrubbing, features, readiness, and the core registers with behaviour of their
own (02 R50, R71, R75, R76, 21 R501 to R512). -/
namespace Sys2Proof.Machine

/-! ## Stored configuration (R505) -/

/-- RETCTL as it reads. -/
def CoreRegs.retctl (r : CoreRegs) : DWord := (r.retIdle.setWidth 64 <<< 8) ||| (if r.retEnable then 1 else 0)

/-- A core's configuration but THALW, as retention keeps it: BROLE, PIPE_RATIO, CUR_LIM, RETCTL, SPCTXSEL, PQSEL, RGSEL,
FRSEL. -/
def Core.config (c : Core) : List DWord :=
  [c.regs.brole, (c.clk.ratioNext.getD c.clk.ratio).setWidth 64, (c.clk.curLimNext.getD c.clk.curLim).setWidth 64,
   c.regs.retctl, c.regs.spCtxSel.setWidth 64, c.regs.pqSel.setWidth 64, c.regs.rgSel.setWidth 64, c.regs.frSel.setWidth 64]

/-- The THALW a stored copy holds: entry 0 of the list. -/
def Core.storedThalw (c : Core) : BitVec 16 := (c.regs.stored.getD 0 0xFFFF).setWidth 16

/-- The stored copy after a write of the core's configuration. -/
def Core.store (c : Core) : Core :=
  { c with regs := { c.regs with stored := (c.regs.stored.getD 0 0xFFFF) :: c.config } }

/-- The stored copy after a THSET. -/
def Core.storeThalw (c : Core) (v : BitVec 16) : Core :=
  { c with regs := { c.regs with stored := v.setWidth 64 :: c.config } }

/-- The configuration reloaded from the stored copy (R506). -/
def Core.reload (c : Core) : Core :=
  match c.regs.stored with
  | [_, brole, ratio, lim, ret, ctx, pq, rg, fr] =>
    { c with
      clk := { c.clk with ratio := ratio.setWidth 12, curLim := lim.setWidth 20, ratioNext := none, curLimNext := none },
      regs := { c.regs with
        brole := brole, retIdle := ret.extractLsb' 8 24, retEnable := ret.getLsbD 0, spCtxSel := ctx.setWidth 6,
        pqSel := pq.setWidth 2, rgSel := rg.setWidth 8, frSel := fr.setWidth 5 } }
  | _ => c

/-! ## Core registers -/

/-- A write to BROLE (R75): lines of teams switched out from the core are written back before the roles change (00 R14). -/
def State.broleWrite (s : State) (core : Nat) (v : DWord) : State :=
  if (s.residents core).isEmpty then (s.emptyBanks core).modCore core (fun c => ({ c with regs := { c.regs with brole := v } }).store)
  else s.modCore core (fun c => { c with regs := { c.regs with brrej := true } })

/-- A write to PIPE_RATIO (R50, R76): in force at the next phase 0. -/
def State.pipeRatioWrite (s : State) (core : Nat) (v : DWord) : State :=
  s.modCore core (fun c => ({ c with clk := { c.clk with ratioNext := some (v.setWidth 12) } }).store)

/-- A window of 1,400 ticks begins and has not yet been begun (R71). -/
def State.windowDue (s : State) : Bool := s.dev.windowAt / 1400 != s.tick.toNat / 1400

/-- A window that is due begins (R71, R503): every core counts anew, under the allowance last set. -/
def State.beginWindow (s : State) : State :=
  if s.windowDue then
    { s.modDev (fun d => { d with windowAt := s.tick.toNat }) with cores := s.cores.map (fun (c : Core) =>
        { c with clk := { c.clk with window := 0, thalw := c.clk.thalwNext.getD c.clk.thalw, thalwNext := none } }) }
  else s

/-- The allowance of a core in the present window, and what it has counted (R71). -/
def State.thalwNow (s : State) (core : Nat) : BitVec 16 :=
  let k := (s.core core).clk
  if s.windowDue then k.thalwNext.getD k.thalw else k.thalw
def State.windowNow (s : State) (core : Nat) : Nat := if s.windowDue then 0 else (s.core core).clk.window

/-- The allowance that firmware's policy gives a temperature (R504), in sixteenths of a degree. -/
def allowanceFor (temp : BitVec 12) : BitVec 16 :=
  if temp.toNat ≤ 85 * 16 then 65535 else if temp.toNat ≤ 95 * 16 then 6000 else if temp.toNat ≤ 100 * 16 then 3000 else 1400

/-- A write to THSET (R503, R504): the 16 cores of the region take it at the next window, a sleeping core at its exit. A write at a tick at
which a window begins falls in that window (22 R517). -/
def State.thset (s0 : State) (v : DWord) : State :=
  let s := s0.beginWindow
  let r := (v.extractLsb' 32 4).toNat
  let a := v.extractLsb' 0 16
  let s1 := s.modDev (fun d => { d with
    thRegion := BitVec.ofNat 4 r, thAllow := a,
    sensors := modAt d.sensors r (fun x => { x with owed := if a == allowanceFor x.temp then none else x.owed }) })
  { s1 with cores := s1.cores.mapIdx (fun i (c : Core) =>
      if i / 16 = r then
        (if c.regs.asleep then c else { c with clk := { c.clk with thalwNext := some a } }).storeThalw a
      else c) }

/-- Every region behind a pool port of a polder becomes FENCED (R510, log 53): as RGCMD FENCE does it, or DISCARD where it is LOST, its
STATUS aside. -/
def State.shutRegions (s : State) (p : Nat) : State :=
  ((List.range s.regions.length).filter (fun n => (s.region n).state != .fenced && s.polderOf (s.region n).port.toNat == p)).foldl (fun s n =>
    let st := (s.region n).status
    (if (s.region n).state == .lost then s.rgDiscard n else s.rgFence n).modRegion n (fun r => { r with status := st })) s

/-- A write to FEATONn of a polder (R510, R511). -/
def State.featonWrite (s : State) (p n : Nat) (v : DWord) : State :=
  let used := s.teams.any (fun t => !t.ended && (match t.core? with
      | some c => s.polderOf (quarterOf c) == p
      | none => false)) || s.ctxs.any (fun c => c.live && c.polder == p)
  if used then s.modPolder p (fun x => { x with featRej := true })
  else if n = 0 then
    (if v.getLsbD 15 then s else s.shutRegions p).modPolder p (fun x => { x with featOn := ((v &&& 0xFFFFF) ||| 1, x.featOn.2) })
  else s

/-- BROLE_WRITE (R75). -/
def execBroleWrite (core : Nat) (v : DWord) (s : State) : Out := .next (s.broleWrite core v)
/-- PIPE_RATIO_WRITE (R50). -/
def execPipeRatioWrite (core : Nat) (v : DWord) (s : State) : Out := .next (s.pipeRatioWrite core v)
/-- THSET (R503). -/
def execThset (v : DWord) (s : State) : Out := .next (s.thset v)
/-- FEATON_WRITE (R511). -/
def execFeatonWrite (polder n : Nat) (v : DWord) (s : State) : Out := .next (s.featonWrite polder n v)

/-! ## Sensors, refresh, windows, scrubbing -/

/-- Whether a sensor is to be sampled now (R501): a tick that is a multiple of 140,000 has come since its last sample. In recovery mode no
sensor is (R513). -/
def State.sampleDue (s : State) (region : Nat) : Bool :=
  match s.dev.sensors[region]? with
  | some x => !s.dev.recov && decide (x.sampled < s.tick.toNat / 140000)
  | none => false

/-- A sample that is due, taken (R501, R504). -/
def State.sample (s : State) (region : Nat) (temp : BitVec 12) : State :=
  if s.sampleDue region then
    let k := s.tick.toNat / 140000
    s.modDev (fun d => { d with sensors := modAt d.sensors region (fun _ =>
      { temp := temp, hot := decide (85 * 16 < temp.toNat), sampled := k, owed := some (140000 * k) }) })
  else s

/-- A sample that is due, of a temperature that nothing gives (log 88). -/
def State.takeSample (s : State) (region : Nat) : State :=
  if s.sampleDue region then
    let r := s.draw
    r.2.sample region (Config.temperature r.1)
  else s

/-- SENSOR_SAMPLE (R501). -/
def execSensorSample (region : Nat) (temp : BitVec 12) (s : State) : Out := .next (s.sample region temp)

/-- Whether firmware's policy must write a region's allowance before the cycle ends (R504): after it, more than 14,000 ticks would have passed since
the sample. -/
def State.policyDue (s : State) (region : Nat) : Bool :=
  match (s.dev.sensors[region]?).bind Sensor.owed with
  | some at_ => !s.dev.recov && decide (at_ + 14000 < s.tick.toNat + 1 + s.slow.headD 0)
  | none => false

/-- The write of THSET that the policy makes for a region's last sample (R504). -/
def State.policyValue (s : State) (region : Nat) : DWord :=
  BitVec.ofNat 64 (2 ^ 32 * region + (allowanceFor (((s.dev.sensors[region]?).map Sensor.temp).getD 0)).toNat)

/-- Ticks between two refreshes of a channel (R502): 3.9 µs, or 1.95 µs in a hot region. -/
def refreshInterval (hot : Bool) : Nat := if hot then 2730 else 5460

/-- Whether a sensor region is hot. -/
def State.hotRegion (s : State) (region : Nat) : Bool := ((s.dev.sensors[region]?).map Sensor.hot).getD false

/-- Whether a channel is to refresh now (R502). -/
def State.refreshDue (s : State) (channel : Nat) : Bool :=
  match s.dev.channels[channel]? with
  | some x => !s.dev.recov && decide (x.nextRefresh ≤ s.tick.toNat)
  | none => false

/-- REFRESH (R502): a refresh of a channel that is due, which takes a number of ticks, fewer than lie between two (log 78). -/
def execRefresh (channel length : Nat) (s : State) : Out :=
  .next (if s.refreshDue channel then
    s.modDev (fun d => { d with channels := modAt d.channels channel (fun x =>
      { refreshes := x.refreshes + 1, nextRefresh := x.nextRefresh + refreshInterval (s.hotRegion (channel / 16)),
        busyTo := s.tick.toNat + min length (refreshInterval (s.hotRegion (channel / 16)) - 1) }) })
  else s)

/-- Whether something must happen before the cycle may end: a window begins (R71), a sensor is sampled (R501), firmware writes an allowance
(R504), a channel refreshes (R502). -/
def State.overdue (s : State) : Bool :=
  s.windowDue || (List.range s.dev.sensors.length).any (fun r => s.sampleDue r || s.policyDue r) ||
  (!s.dev.recov && s.dev.channels.any (fun x => decide (x.nextRefresh ≤ s.tick.toNat)))

/-- THERMAL_WINDOW (R71, R503). -/
def execThermalWindow (s : State) : Out := .next s.beginWindow

/-- SCRUB (R508): of a unit of local memory. -/
def execScrub (unit : Nat) (s : State) : Out :=
  .next (
    match (List.range 4).find? (fun q => (s.rangeAt q (64 * unit)).isSome), lookupNat s.home.errors unit with
    | some q, some bad =>
      let home := s.homeOf q (64 * unit) 0
      let s1 := s.modHome (fun h => { h with errors := putNat h.errors unit none })
      if bad then s1.poisonAtHome home unit 0 else s1.countEcc home 0
    | _, _ => s)

/-! ## Retention (R505, R506) -/

/-- Whether a core may enter retention. -/
def State.mayRetire (s : State) (core : Nat) : Bool :=
  let c := s.core core
  c.regs.retEnable && s.feature (s.polderOf (quarterOf core)) 19 && (s.residents core).isEmpty && !c.regs.asleep &&
  decide (max 1 c.regs.retIdle.toNat ≤ c.regs.idle)

/-- RETENTION_ENTRY (R505): every dirty line is written back. -/
def execRetentionEntry (core : Nat) (s : State) : Out :=
  .next (if s.mayRetire core then
    (s.emptyBanks core).modCore core (fun c => { c with regs := { c.regs with asleep := true, retEntries := satAdd c.regs.retEntries 1 } })
  else s)

/-- READY_SET (R512): firmware sets bits of READY, laid out as in the register; bit 13 is set in every polder. With a link it sets the
device's number in the domain (19 R494, log 29). What waits at a home or for the fault queue's memory is tried again. -/
def execReadySet (bits : DWord) (s : State) : Out :=
  .next (if s.dev.recov then s else
    let s1 := s.modDev (fun d => { d with
      readyLink := d.readyLink ||| bits.extractLsb' 32 16, readyDram := d.readyDram ||| bits.extractLsb' 16 16,
      readyHost := d.readyHost || bits.getLsbD 12, readyPool := d.readyPool ||| bits.extractLsb' 8 4,
      readyMatrix := d.readyMatrix ||| bits.extractLsb' 4 4, readySpiral := d.readySpiral ||| bits.extractLsb' 0 4 })
    let s2 : State := { s1 with
      polders := s1.polders.map (fun (p : Polder) => { p with snReady := p.snReady || bits.getLsbD 13 }),
      links := s1.links.mapIdx (fun n (l : Link) => if bits.getLsbD (32 + n) then { l with dev := Config.deviceNumber } else l) }
    ((List.range 4).foldl State.engLoad ((List.range 4).foldl State.pumpFaults s2.retrySelf)).sweep)

end Sys2Proof.Machine
end

