-- ==== Sys2Proof/Machine/EvDebug.lean ====
section
/-! DEFINITION. The debug agent, the stop and the lane-cycle record's CLR (23 R519, R520, R523 to R525). -/
namespace Sys2Proof.Machine

/-- The group a core's DBGSEL names, if it is resident (R524, R528). -/
def State.dbgTarget (s : State) (core : Nat) : Option GRef :=
  let d := (s.core core).dbg
  match (s.residents d.selCore.toNat).find? (fun t => t.slot? == some d.selSlot.toNat) with
  | none => none
  | some t => if (t.group? d.selGroup.toNat).isSome then some ⟨t.id, d.selGroup.toNat⟩ else none

/-- A core's debug registers changed. -/
def State.modDbg (s : State) (core : Nat) (f : CoreDbg → CoreDbg) : State :=
  s.modCore core (fun c => { c with dbg := f c.dbg })

/-- Whether a team has halted. -/
def State.haltedTeam (s : State) (team : Nat) : Bool :=
  match s.team? team with
  | some t => t.fr.halted
  | none => false

/-- A group with no hint state (R95), stopped for an EXEC. -/
def Group.dropHints (g : Group) : Group := { g with slices := g.slices.map Slice.rewind, flt := { g.flt with stopped := true } }

/-- The trapped lanes of a slice that still have a disposition or will get one: from a lane of the handler group that lives (R388, R524, log 46). -/
def Team.trapsLeft (t : Team) (g k : Nat) (sl : Slice) : BitVec 4 :=
  let held (l : Nat) : Bool := match t.handler with
    | some h => (h.origins.mapIdx (fun j e => (j, e))).any (fun x =>
        x.2.group == g && x.2.lane == 4 * k + l && (h.slice (x.1 / 4)).live && (h.slice (x.1 / 4)).alive.getLsbD (x.1 % 4))
    | none => false
  (List.range 4).foldl (fun m l =>
    if sl.trapped.getLsbD l && (sl.disps.any (fun d => d.1 == l) || held l) then m ||| ((1#4) <<< l) else m) 0

/-- A live slice that issues again from its saved PC (R524); one some of whose trapped lanes still wait for their dispositions waits with them. -/
def Slice.resumes (left : BitVec 4) (sl : Slice) : Slice :=
  let r := sl.rewind
  if sl.wait == .onTrap && left != 0 then { r with trapped := left }
  else { r with wait := .running, trapped := 0, disps := [] }

/-- A group that issues on (R519, R524); a word it was parked at is translated again. The deferred faults it has recorded are never
delivered (13 R389). -/
def Group.resumes (left : Nat → Slice → BitVec 4) (g : Group) : Group :=
  ({ g with
    slices := g.slices.mapIdx (fun k (sl : Slice) => sl.resumes (left k sl)), flt := { g.flt with stopped := false, pending := [] },
    ctl := { g.ctl with bpSkip := some g.flt.stopPc, park := none, kept := [] } }).settle

/-- A team that goes on from its halt (R524). -/
def Team.resumes (t : Team) : Team :=
  { t with
    fr := { t.fr with halted := false }, groups := t.groups.mapIdx (fun n (g : Group) => g.resumes (t.trapsLeft n)),
    handler := (t.handler.filter Group.alive).map (fun g => g.resumes (t.trapsLeft 32)) }

/-- EXEC (R524): begins, or ends with NOTHALTED. Its words issue one by one at the steps that follow. -/
def State.dbgExec (s : State) (core level : Nat) : State :=
  match s.dbgTarget core with
  | some r =>
    if s.haltedTeam r.team then
      (s.modGroup r Group.dropHints).modDbg core (fun d => { d with busy := true, level := level, status := 0, fcode := 0, done := 0 })
    else s.modDbg core (fun d => { d with status := 1 })
  | none => s.modDbg core (fun d => { d with status := 1 })

/-- RESUME (R519, R524); a team all of whose groups ended during their skid ends. -/
def State.dbgResume (s : State) (core : Nat) : State :=
  match s.dbgTarget core with
  | some r =>
    if s.haltedTeam r.team then
      (((s.dropWaiters (fun w => match w with
        | .group t _ => t == r.team
        | _ => false)).modTeam r.team Team.resumes).endIfDone r.team).modDbg core (fun d => { d with status := 0 })
    else s.modDbg core (fun d => { d with status := 1 })
  | none => s.modDbg core (fun d => { d with status := 1 })

/-- HALT (R524): BREAK with operand 0x100 in the selected group. -/
def State.dbgHalt (s : State) (core : Nat) : State :=
  match s.dbgTarget core with
  | none => s
  | some r =>
    match s.group? r with
    | none => s
    | some g => (s.halt r 0x15 g.stopPcNow 0x100).modDbg core (fun d => { d with status := 0 })

/-- A write to DBGCMD at a level (R524, R526). -/
def State.dbgCmd (s : State) (core level : Nat) (v : DWord) : State :=
  if (s.core core).dbg.busy then s
  else
    let s1 := s.modDbg core (fun d => { d with count := v.extractLsb' 4 5 })
    match (v.extractLsb' 0 3).toNat with
    | 1 => s1.dbgExec core level
    | 2 => s1.dbgResume core
    | 3 => s1.dbgHalt core
    | _ => s1

/-- Words an EXEC stuffs (R526). -/
def CoreDbg.words (d : CoreDbg) : Nat := if d.count.toNat = 0 ∨ 16 < d.count.toNat then 16 else d.count.toNat

/-- Whether the counters of a group stand at 0 and none of its words holds it (R524). -/
def State.countersZero (s : State) (r : GRef) : Bool :=
  s.ldCount r == 0 && s.stCount r == 0 && s.btCount r == 0 && s.tlCount r == 0 && (s.groupOps r).isEmpty &&
  (match s.group? r with
  | some g => !g.ctl.emitting && g.ctl.fence.isNone
  | none => true)

/-- An EXEC all of whose words have completed, and whose counters are 0, ends. -/
def State.dbgSettle (s : State) (core : Nat) : State :=
  let d := (s.core core).dbg
  match s.dbgTarget core with
  | none => if d.busy then s.modDbg core (fun d => { d with busy := false, status := 1 }) else s
  | some r =>
    if d.busy && decide (d.words ≤ d.done.toNat) && s.countersZero r then s.modDbg core (fun d => { d with busy := false }) else s

/-- EXEC (R524): a write of DBGCMD with OP 1 by the agent at a core, at drv level. -/
def execExecWords (core : Nat) (v : DWord) (s : State) : Out :=
  .next (if (s.core core).dbg.busy then s.dbgSettle core
    else (s.modDbg core (fun d => { d with count := v.extractLsb' 4 5 })).dbgExec core 1)

/-- DBG_RESUME (R524). -/
def execDbgResume (core : Nat) (s : State) : Out :=
  .next (if (s.core core).dbg.busy then s else s.dbgResume core)

/-- HALT (R524). -/
def execHalt (core : Nat) (s : State) : Out := .next (if (s.core core).dbg.busy then s else s.dbgHalt core)

/-- A write of CLR to LCRCTL (R523): the counts, which read as they stood at the end of the cycle before, are cleared as the cycle ends, and
those of the cycle itself follow (DESIGN CHOICE, log 90). -/
def State.lcrClear (s : State) (core : Nat) : State := s.modDbg core (fun d => { d with lcrClr := true, lcrT0 := s.tick })

/-- CLR (R523). -/
def execClr (core : Nat) (s : State) : Out := .next (s.lcrClear core)

/-- A write to STOPTICK (R520): a tick that has come stops the device at the end of the next. -/
def State.stopWrite (s : State) (v : DWord) : State :=
  s.modDev (fun d => { d with stopTick := v, stopAt := if v.toNat ≤ s.tick.toNat then s.tick.toNat + 1 else v.toNat })

/-- The device stops at the end of this tick (R520). -/
def State.stopDue (s : State) : Bool := decide (s.dev.stopAt ≤ s.tick.toNat)

/-- STOP_TICK (R520). -/
def execStopTick (s : State) : Out := .next (if s.stopDue then { s with stopped := true } else s)

end Sys2Proof.Machine
end

