-- ==== Sys2Proof/Machine/SysRegs.lean ====
section
/-! DEFINITION. The system registers 0x000 to 0x7FF: who may reach each, what it reads and what a write does (08 R289,
R294 to R299, 02 R74 to R80, 09 R321 to R329, 13 R394 to R398, 19 R478 to R495, 21 R510 to R515, 23 R525 to R528). -/
namespace Sys2Proof.Machine

/-- A register access: the core it is made on, the group whose own registers it means, its level, the core whose DBGDATA
it means, and whether the debug agent stuffed the word (R289, R525, R528). -/
structure RegAcc where
  core : Nat
  ref : Option GRef
  level : Nat
  agent : Nat
  stuffed : Bool
  deriving DecidableEq, Repr

/-- The lowest level that may read and that may write a register; 3: none; no entry: the number is not defined. -/
def regLevels (n : Nat) : Option (Nat × Nat) :=
  if n ≤ 0x003 ∨ n = 0x009 ∨ n = 0x010 ∨ n = 0x011 ∨ (0x018 ≤ n ∧ n ≤ 0x01C) ∨ (0x020 ≤ n ∧ n ≤ 0x031) then some (0, 3)
  else if n = 0x008 ∨ n = 0x00C then some (0, 0)
  else if n = 0x100 ∨ n = 0x101 ∨ n = 0x103 ∨ n = 0x106 then some (0, 1)
  else if n = 0x102 ∨ n = 0x104 then some (0, 3)
  else if n = 0x105 then some (1, 2)
  else if n = 0x107 ∨ n = 0x108 then some (1, 3)
  else if n = 0x200 ∨ n = 0x205 then some (0, 3)
  else if n = 0x201 ∨ n = 0x202 ∨ n = 0x207 ∨ n = 0x208 then some (1, 1)
  else if n = 0x203 ∨ n = 0x204 ∨ n = 0x206 then some (1, 3)
  else if n = 0x300 ∨ n = 0x302 ∨ (0x330 ≤ n ∧ n ≤ 0x333) ∨ n = 0x335 then some (1, 1)
  else if n = 0x301 ∨ n = 0x303 ∨ (0x308 ≤ n ∧ n ≤ 0x317) then some (1, 2)
  else if n = 0x334 ∨ (0x340 ≤ n ∧ n ≤ 0x34F) then some (1, 3)
  else if 0x400 ≤ n ∧ n ≤ 0x402 then some (0, 3)
  else if n = 0x404 then some (2, 2)
  else if n = 0x408 then some (1, 2)
  else if n = 0x409 ∨ n = 0x40C ∨ (0x410 ≤ n ∧ n ≤ 0x41F) then some (1, 3)
  else if n = 0x500 then some (1, 1)
  else if (0x501 ≤ n ∧ n ≤ 0x503) ∨ n = 0x509 ∨ (0x520 ≤ n ∧ n ≤ 0x540) then some (1, 3)
  else if n = 0x508 ∨ n = 0x50A ∨ n = 0x50B then some (0, 0)
  else if n = 0x50C then some (0, 3)
  else if (0x600 ≤ n ∧ n ≤ 0x603) ∨ n = 0x610 ∨ n = 0x611 ∨ (0x620 ≤ n ∧ n ≤ 0x632) ∨ (0x640 ≤ n ∧ n ≤ 0x650) then some (1, 1)
  else if n = 0x608 then some (1, 2)
  else if n = 0x612 ∨ n = 0x613 ∨ n = 0x651 then some (1, 3)
  else if n = 0x700 ∨ n = 0x701 ∨ n = 0x708 then some (0, 3)
  else if n = 0x702 ∨ n = 0x703 then some (0, 1)
  else if n = 0x704 then some (1, 1)
  else if n = 0x709 then some (1, 3)
  else none

/-- A register reached through PQSEL. -/
def viaPqsel (n : Nat) : Bool := (0x301 ≤ n && n ≤ 0x303) || (0x308 ≤ n && n ≤ 0x317)
/-- A register reached through RGSEL. -/
def viaRgsel (n : Nat) : Bool := 0x331 ≤ n && n ≤ 0x335

/-- Whether an access reaches a register, or raises ILLOP (R21, R289, R478, R525). -/
def State.regAdmits (s : State) (a : RegAcc) (n : Nat) (write : Bool) : Bool :=
  match regLevels n with
  | none => false
  | some (r, w) =>
    let own (q : Nat) : Bool := s.polderOf q == s.polderOf (quarterOf a.core)
    let k := (s.core a.core).regs
    (decide ((if write then w else r) ≤ a.level) || (n == 0x632 && a.stuffed)) &&
    !(a.level == 1 && viaPqsel n && !own k.pqSel.toNat) &&
    !(a.level == 1 && viaRgsel n && !own (s.region k.rgSel.toNat).port.toNat)

/-- A register's value from its fields: value and lowest bit of each. -/
def fields (xs : List (Nat × Nat)) : DWord := BitVec.ofNat 64 (xs.foldl (fun a x => a + x.1 * 2 ^ x.2) 0)

/-! ## Reads -/

/-- GIDENT (R295, R383). -/
def gident (t : Team) (g : Group) : DWord :=
  let core := (t.core?).getD 0
  let role := match g.role with
    | .producer => 0
    | .matrix => 1
    | .vector => 2
    | .handler => 3
  fields [(t.vals.team.toNat, 32), (core, 16), (quarterOf core, 14), (role, 12), (t.rank, 9),
          (if g.role = .handler then 0 else g.num, 0)]

/-- Group and launch registers (R294 to R299). TIMERST.DEADLINE holds 62 bits: a deadline of 2^62 or more shows modulo 2^62, while the timer keeps it
whole (DESIGN CHOICE, log 87). -/
def groupReg (t : Team) (g : Group) (n : Nat) : DWord :=
  let v := t.vals
  match n with
  | 0x000 => gident t g
  | 0x001 => fields [(v.gridY.toNat, 32), (v.gridX.toNat, 0)]
  | 0x002 => v.gridZ.setWidth 64
  | 0x003 => fields [(t.shape.scratch, 32), (t.shape.cluster, 24), (t.shape.matrix, 16), (t.shape.producer, 8), (t.shape.groups, 0)]
  | 0x008 => gstatOf g.ctl
  | 0x009 => fields [(g.ctl.timer.armed.toNat, 63), (g.ctl.timer.wall.toNat, 62), (g.ctl.timer.deadline % 2 ^ 62, 0)]
  | 0x00C => g.ctl.lfsr.setWidth 64
  | 0x010 => v.kdata.setWidth 64
  | 0x011 => v.kconst.setWidth 64
  | 0x018 => fields [(v.pfxHit.toNat, 63), (v.pfxNode.toNat, 0)]
  | 0x019 => v.pfxPos
  | 0x01A => fields [(v.pfxDepth.toNat, 16), (v.pfxTree.toNat, 0)]
  | 0x01B => v.pfxIn.setWidth 64
  | 0x01C => v.pfxLen
  | 0x030 => v.recBase.setWidth 64
  | 0x031 => fields [(v.recNode.toNat, 16), (v.recCount.toNat, 0)]
  | 0x50A => g.flt.report.toNat
  | 0x50B => fields [(g.flt.count.toNat, 32), (g.flt.first.toNat, 8), (g.flt.codes.toNat, 0)]
  | 0x50C => g.flt.addr.setWidth 64
  | n => if 0x020 ≤ n ∧ n ≤ 0x02F then v.largs.getD (n - 0x020) 0 else 0

/-- A register held per group (R528). -/
def perGroup (n : Nat) : Bool := n ≤ 0x0FF || n == 0x50A || n == 0x50B || n == 0x50C

/-- The team FRSEL selects on a core (R394, R395). -/
def State.frTeam (s : State) (core : Nat) : Option Team :=
  let k := (s.core core).regs.frSel.toNat
  if k = 31 then none else (s.residents core).find? (fun t => t.slot? == some k)

/-- FRGRPn (R398). -/
def frGroup (g : Group) : DWord :=
  fields [(g.flt.valid.toNat, 63), (g.flt.state, 61), (g.flt.code, 40), (min g.flt.skid 255, 32), (g.flt.stopPc.toNat, 0)]

/-- Fault-record registers of a team (R395, R396, R398). -/
def faultReg (t : Team) (n : Nat) : DWord :=
  let f := t.fr
  match n with
  | 0x501 => fields [(t.vals.team.toNat, 32), (f.halted.toNat, 31), (f.defer.toNat, 30), (f.sib.toNat, 29),
      (f.pending.toNat, 16), (f.group.toNat, 8), (f.code, 0)]
  | 0x502 => f.pc.setWidth 64
  | 0x503 => f.oper.setWidth 64
  | 0x509 => fields [(f.handlers.toNat, 48), (f.killed.toNat, 32), (f.badDisp.toNat, 24), (f.lost.toNat, 16), (f.defExit.toNat, 0)]
  | 0x540 => match t.handler with
    | some g => frGroup g
    | none => 0
  | n => if 0x520 ≤ n ∧ n ≤ 0x53F then (match t.groups[n - 0x520]? with
      | some g => frGroup g
      | none => 0) else 0

/-- Core configuration registers (R75 to R80). Between a write of PIPE_RATIO, CUR_LIM or FBCFG and the cycle in which it takes effect
(R50, R73) the register reads as written (DESIGN CHOICE, log 66): the spec does not say what it reads then. -/
def State.coreReg (s : State) (core n : Nat) : DWord :=
  let k := (s.core core).clk
  let r := (s.core core).regs
  match n with
  | 0x100 => r.brole
  | 0x101 => (k.ratioNext.getD k.ratio).setWidth 64
  | 0x102 => BitVec.ofNat 64 ((k.history.foldl (· + ·) 0) % 2 ^ 20)
  | 0x103 => (k.curLimNext.getD k.curLim).setWidth 64
  | 0x104 => fields [(k.heldF.toNat, 8), ((s.quarter (quarterOf core)).level, 0)]
  | 0x105 => let q := s.quarter (quarterOf core); (q.rateNext.getD q.rate).setWidth 64
  | 0x106 => fields [(r.brrej.toNat, 16), ((s.residents core).length, 6),
      (((s.residents core).map (fun t => t.groups.length)).foldl (· + ·) 0, 0)]
  | 0x107 => fields [(r.holdTherm.toNat, 42), (r.holdFbd.toNat, 21), (r.holdCur.toNat, 0)]
  | 0x108 => fields [(r.wback.toNat, 40), (r.fills.toNat, 16), (r.eccFix.toNat, 0)]
  | _ => 0

/-- Spiral registers (R322 to R329); `x` is the issuing group's context. -/
def State.spiralReg (s : State) (core x n : Nat) : DWord :=
  let k := s.quarter (quarterOf core)
  let c := (s.core core).regs.spCtxSel.toNat
  let quota (x : Nat) : Nat := (k.quota x).tiles.toNat
  let pins (x : Nat) : Nat := (k.quota x).pins.toNat
  match n with
  | 0x200 => fields [(k.bypass.length, 32), (k.bayUsed, 16), (k.chain.length, 0)]
  | 0x201 => BitVec.ofNat 64 c
  | 0x202 => fields [(pins c, 16), (quota c, 0)]
  | 0x203 => fields [(k.pinnedBy c, 16), (k.owned c, 0)]
  | 0x204 => fields [((k.quota c).wback.toNat, 32), ((k.quota c).fills.toNat, 0)]
  | 0x205 => fields [(pins x, 48), (quota x, 32), (k.pinnedBy x, 16), (k.owned x, 0)]
  | 0x206 => fields [(k.held.toNat, 42), (k.merged.toNat, 21), (k.slots.toNat, 0)]
  | 0x207 => fields [(k.stranded, 16), (k.budget.toNat, 0)]
  | 0x208 => fields [(k.flush.isSome.toNat, 8), (k.flushUnpin.toNat, 7), (k.flushCtx.toNat, 0)]
  | _ => 0

/-- RGCFG.STATE (R491). -/
def RegionState.code : RegionState → Nat
  | .online => 0
  | .degraded => 1
  | .lost => 2
  | .fenced => 3

/-- A command of a region waits that a core of number k or below wrote: RGCMD.BUSY, and what ignores a write of OP (R492). -/
def State.rgBusy (s : State) (m k : Nat) : Bool :=
  s.cmds.any (fun x => x.2.1 == 0x333 && x.2.2.1 == m && x.2.2.2.extractLsb' 0 3 != 0 && decide (x.1 ≤ k))

/-- Partition and fabric registers (R478 to R495). DIKE reads as written before its PASS acts in the next cycle (R479; DESIGN CHOICE, log 66). -/
def State.partReg (s : State) (core n : Nat) : DWord :=
  let q := (s.core core).regs.pqSel.toNat
  let x := s.part q
  let p := s.polder (s.polderOf q)
  let m := (s.core core).regs.rgSel.toNat
  let r := s.region m
  match n with
  | 0x300 => BitVec.ofNat 64 q
  | 0x301 => fields [(x.rej.toNat, 15), (x.why.toNat, 12), (x.mask.toNat, 4), (s.polderOf q, 0)]
  | 0x302 => fields [(p.busyq.toNat, 16), (p.sluice, 8), (p.sluiceStatus.toNat, 4)]
  | 0x303 => fields [(x.drops.toNat, 32), ((x.passNext.getD x.pass ||| ((1#4) <<< q)).toNat, 0)]
  | 0x330 => BitVec.ofNat 64 m
  | 0x331 => fields [(r.base.toNat, 30)]
  | 0x332 => fields [(r.size.toNat, 32), (r.expander.toNat, 16), (r.port.toNat, 12), (r.state.code, 0)]
  | 0x333 => fields [((s.rgBusy m 256).toNat, 63), (r.status.toNat, 48)]
  | 0x334 => fields [(s.strandedOf m, 48), (r.lostDirty.toNat, 32), (r.replFix.toNat, 16), (r.poisoned.toNat, 0)]
  | 0x335 => if r.recValid then fields [(r.recTeams.toNat, 52), (r.recAddr.toNat, 6), (1, 0)] else 0
  | n =>
    if 0x308 ≤ n ∧ n ≤ 0x30F then x.irBase.getD (n - 0x308) 0
    else if 0x310 ≤ n ∧ n ≤ 0x317 then x.irCfg.getD (n - 0x310) 0
    else if 0x340 ≤ n ∧ n ≤ 0x34F then
      let l := s.link (n - 0x340)
      fields [(l.up.toNat, 63), (l.dev.toNat, 52), (l.replays.toNat, 32), (l.holds.toNat, 16), (l.retrains.toNat, 8)]
    else 0

/-- DTEMP of a sensor region. -/
def State.dtemp (s : State) (r : Nat) : DWord :=
  match s.dev.sensors[r]? with
  | some x => fields [(x.hot.toNat, 15), (x.temp.toNat, 0)]
  | none => 0

/-- Heat, reliability and bring-up registers (R510 to R515). -/
def State.heatReg (s : State) (core n : Nat) : DWord :=
  let r := (s.core core).regs
  let e := (s.quarter (quarterOf core)).ecc
  let ec (i : Nat) : Nat := (e.getD i 0).toNat
  let p := s.polder (s.polderOf (quarterOf core))
  let d := s.dev
  match n with
  | 0x400 => (s.thalwNow core).setWidth 64
  | 0x401 => s.dtemp (core / 16)
  | 0x402 => r.refStall.setWidth 64
  | 0x404 => fields [(d.thRegion.toNat, 32), (d.thAllow.toNat, 0)]
  | 0x408 => r.retctl
  | 0x409 => fields [(r.retEntries.toNat, 32), (r.retReloads.toNat, 16)]
  | 0x40C => fields [(ec 0, 48), (ec 1, 32), (ec 2, 16), (ec 3, 0)]
  | 0x700 => 0xFFFFF
  | 0x702 => p.featOn.1 ||| 1
  | 0x703 => p.featOn.2
  | 0x704 => p.featRej.toNat
  | 0x708 => fields [(d.readyLink.toNat, 32), (d.readyDram.toNat, 16), (p.snReady.toNat, 13), (d.readyHost.toNat, 12),
      (d.readyPool.toNat, 8), (d.readyMatrix.toNat, 4), (d.readySpiral.toNat, 0)]
  | 0x709 => fields [(d.svn.toNat, 16), (d.recov.toNat, 2), (d.slot.toNat, 0)]
  | n => if 0x410 ≤ n ∧ n ≤ 0x41F then s.dtemp (n - 0x410) else 0

/-- Debug registers (R526). -/
def State.debugReg (s : State) (core agent n : Nat) : DWord :=
  let d := (s.core core).dbg
  match n with
  | 0x608 => s.dev.stopTick
  | 0x610 => fields [(d.lcrEn.toNat, 63), (d.lcrCtx.toNat, 0)]
  | 0x611 => fields [(d.lcrBin.toNat, 4), (d.lcrClass.toNat, 0)]
  | 0x612 => ((d.counts.getD d.lcrBin.toNat []).getD d.lcrClass.toNat 0).setWidth 64
  | 0x613 => d.lcrT0
  | 0x630 => fields [(d.selCore.toNat, 16), (d.selSlot.toNat, 8), (d.selGroup.toNat, 0)]
  | 0x631 => fields [(d.busy.toNat, 63), (d.status.toNat, 48), (d.fcode.toNat, 40), (d.done.toNat, 32), (d.count.toNat, 4)]
  | 0x632 => (s.core agent).dbg.data
  | 0x650 => fields [(d.trcEn.toNat, 63), (d.trcAddr.toNat, 12), (d.trcLog.toNat, 0)]
  | 0x651 => d.trcPos.setWidth 64
  | n =>
    if 0x600 ≤ n ∧ n ≤ 0x603 then d.bp.getD (n - 0x600) 0
    else if 0x620 ≤ n ∧ n ≤ 0x62F then d.ranges.getD (n - 0x620) 0
    else if 0x640 ≤ n ∧ n ≤ 0x64F then (d.buf.getD (n - 0x640) 0).setWidth 64
    else 0

/-- The team and group an access means. -/
def State.accGroup (s : State) (a : RegAcc) : Option (Team × Group) :=
  match a.ref with
  | none => none
  | some r =>
    match s.team? r.team with
    | none => none
    | some t => (t.group? r.g).map (fun g => (t, g))

/-- The value an admitted read returns. -/
def State.regValue (s : State) (a : RegAcc) (n : Nat) : DWord :=
  if perGroup n then
    match s.accGroup a with
    | some (t, g) => groupReg t g n
    | none => 0
  else if n = 0x508 then
    match s.accGroup a with
    | some (t, _) => fields [(t.fr.tvValid.toNat, 63), (t.fr.tvOffset.toNat, 0)]
    | none => 0
  else if n ≤ 0x1FF then s.coreReg a.core n
  else if n ≤ 0x2FF then s.spiralReg a.core ((s.accGroup a).elim 64 (fun x => x.1.ctxNum)) n
  else if n ≤ 0x3FF then s.partReg a.core n
  else if n ≤ 0x4FF ∨ 0x700 ≤ n then s.heatReg a.core n
  else if n = 0x500 then (s.core a.core).regs.frSel.setWidth 64
  else if n ≤ 0x5FF then
    match s.frTeam a.core with
    | some t => faultReg t n
    | none => 0
  else s.debugReg a.core a.agent n

/-- What a read clears (R25): the RC fields of the register. -/
def State.regCleared (s : State) (a : RegAcc) (n : Nat) : State :=
  let onCore (f : CoreRegs → CoreRegs) : State := s.modCore a.core (fun c => { c with regs := f c.regs })
  let q := quarterOf a.core
  let m := (s.core a.core).regs.rgSel.toNat
  match n with
  | 0x104 => s.modCore a.core (fun c => { c with clk := { c.clk with heldF := false } })
  | 0x107 => onCore (fun r => { r with holdTherm := 0, holdFbd := 0, holdCur := 0 })
  | 0x108 => onCore (fun r => { r with wback := 0, fills := 0, eccFix := 0 })
  | 0x204 =>
    let x := (s.core a.core).regs.spCtxSel.toNat
    s.modQuarter q (fun k => { k with quotas := modAt k.quotas x (fun c => { c with wback := 0, fills := 0 }) })
  | 0x206 => s.modQuarter q (fun k => { k with held := 0, merged := 0, slots := 0 })
  | 0x303 => s.modPart (s.core a.core).regs.pqSel.toNat (fun x => { x with drops := 0 })
  | 0x334 => s.modRegion m (fun r => { r with lostDirty := 0, replFix := 0, poisoned := 0 })
  | 0x402 => onCore (fun r => { r with refStall := 0 })
  | 0x409 => onCore (fun r => { r with retEntries := 0, retReloads := 0 })
  | 0x40C => s.modQuarter q (fun k => { k with ecc := List.replicate 4 0 })
  | 0x509 =>
    match s.frTeam a.core with
    | some t => s.modTeam t.id (fun t => { t with fr := { t.fr with handlers := 0, killed := 0, badDisp := 0, lost := 0, defExit := 0 } })
    | none => s
  | n => if 0x340 ≤ n ∧ n ≤ 0x34F then s.modLink (n - 0x340) (fun l => { l with replays := 0, holds := 0, retrains := 0 }) else s

/-- A DTEMP that is read in the tick of a sample shows that sample, whatever else of the tick has had its turn (21 R501, 22 R516): one still due is
taken first. -/
def State.sampledFor (s : State) (core n : Nat) : State :=
  if n = 0x401 then s.takeSample (core / 16)
  else if 0x410 ≤ n ∧ n ≤ 0x41F then s.takeSample (n - 0x410)
  else s

/-- A read of a register: its value, and the state with its RC fields cleared; none where it raises ILLOP. -/
def State.regRead (s : State) (a : RegAcc) (n : Nat) : Option (State × DWord) :=
  if s.regAdmits a n false then
    let s1 := s.sampledFor a.core n
    some (s1.regCleared a n, s1.regValue a n)
  else none

/-! ## Writes -/

/-- A write to a register of the group (R296, R397). -/
def Group.writeReg (g : Group) (n : Nat) (v : DWord) : Group :=
  match n with
  | 0x008 => g.modCtl (fun k => { k with
      dz := k.dz && !v.getLsbD 0, tfired := k.tfired && !v.getLsbD 1, tlate := k.tlate && !v.getLsbD 2 })
  | 0x00C => g.modCtl (fun k => { k with lfsr := if v.extractLsb' 0 32 = 0 then 1 else v.extractLsb' 0 32 })
  | 0x50A => g.modFlt (fun f => { f with report := v.getLsbD 0 })
  | 0x50B => g.modFlt (fun f =>
      if v.getLsbD 63 then { f with codes := 0, count := 0, first := 0, addr := 0 }
      else { f with codes := f.codes &&& ~~~(v.extractLsb' 0 7) })
  | _ => g

/-- Which register a write shares with other cores, as (number, unit): of two cores that write it in one cycle the
lower-numbered wins (R78, R321, R478). -/
def State.shared (s : State) (core n : Nat) : Option (Nat × Nat) :=
  let q := quarterOf core
  let k := (s.core core).regs
  match n with
  | 0x105 | 0x202 | 0x207 | 0x208 => some (n, q)
  | 0x302 => some (n, s.polderOf k.pqSel.toNat)
  | 0x301 | 0x303 => some (n, k.pqSel.toNat)
  | 0x331 | 0x332 | 0x333 | 0x335 => some (n, k.rgSel.toNat)
  | 0x404 => some (n, 0)
  | 0x608 => some (n, 0)
  | 0x702 | 0x703 | 0x704 => some (n, s.polderOf q)
  | n => if 0x308 ≤ n ∧ n ≤ 0x317 then some (n, k.pqSel.toNat) else none

/-- A write to RGCFG (R491). -/
def Region.writeCfg (r : Region) (v : DWord) : Region :=
  let r1 := if r.state = .fenced then { r with size := v.extractLsb' 32 16 } else r
  if r.state = .fenced ∨ r.state = .lost then
    { r1 with expander := v.extractLsb' 16 8, port := v.extractLsb' 12 2 }
  else r1

/-- A write that a core of a higher number made in the same cycle is discarded (R321, R478): the effect of a write of one of these shared registers
waits for the end of its cycle, so a QTAIL write of the cycle applies before a SLUICE write (R483) and PSHAPE writes are judged in the order of their
cores (R484). -/
def State.putCmd (s : State) (core n unit : Nat) (v : DWord) : State :=
  { s with cmds := queueCmd (core, n, unit, v) (s.cmds.filter (fun x => !(x.2.1 == n && x.2.2.1 == unit && decide (core < x.1)))) }

/-- The effect of an SPQUOTA write of a quarter (R324); bits 63:58 carry the context that SPCTXSEL named. -/
def State.quotaWrite (s : State) (q : Nat) (v : DWord) : State :=
  s.modQuarter q (fun x => { x with quotas := modAt x.quotas (v.extractLsb' 58 6).toNat (fun c =>
    { c with pins := v.extractLsb' 16 11, tiles := v.extractLsb' 0 15 }) })

/-- The effect of an RGFREC write (R493). -/
def State.recWrite (s : State) (m : Nat) (v : DWord) : State :=
  if v.getLsbD 0 then s.modRegion m (fun r => { r with recValid := false, recAddr := 0, recTeams := 0, recSeen := [] }) else s

/-- A waiting write takes effect (R324, R329, R481, R483, R484, R492, R493). A SLUICE unit from 4 on is a polder whose function wrote. -/
def State.runCmd (s : State) (x : Nat × Nat × Nat × DWord) : State :=
  let unit := x.2.2.1
  let v := x.2.2.2
  match x.2.1 with
  | 0x202 => s.quotaWrite unit v
  | 0x208 => s.flushStart unit v
  | 0x301 => s.pshapeWrite unit v
  | 0x302 => s.sluiceOp (unit % 4) (v.extractLsb' 0 3).toNat
  | 0x333 => s.rgCmd unit (v.extractLsb' 0 3).toNat
  | 0x335 => s.recWrite unit v
  | n => if n < 0x310 then s.writeRange unit (n - 0x308) false v else s.writeRange unit (n - 0x310) true v

/-- As a cycle ends its flushes end, its waiting writes take effect, and a bias flip that waits for nothing more completes. -/
def State.runCmds (s : State) : State :=
  let s1 := (List.range 4).foldl (fun s q => s.flushEnd q) s
  let s2 := s.cmds.foldl State.runCmd { s1 with cmds := [] }
  (List.range 4).foldl (fun s p => s.biasGo p) s2

/-- The effect of an admitted write. -/
def State.regPut (s : State) (a : RegAcc) (n : Nat) (v : DWord) : State :=
  let q := quarterOf a.core
  let k := (s.core a.core).regs
  let onRegs (f : CoreRegs → CoreRegs) : State := s.modCore a.core (fun c => { c with regs := f c.regs })
  let kept (f : CoreRegs → CoreRegs) : State := s.modCore a.core (fun c => ({ c with regs := f c.regs }).store)
  let onDbg (f : CoreDbg → CoreDbg) : State := s.modDbg a.core f
  if perGroup n then
    match a.ref with
    | some r => s.modGroup r (fun g => g.writeReg n v)
    | none => s
  else
    match n with
    | 0x100 => s.broleWrite a.core v
    | 0x101 => s.pipeRatioWrite a.core v
    | 0x103 => s.modCore a.core (fun c => ({ c with clk := { c.clk with curLimNext := some (v.extractLsb' 0 20) } }).store)
    | 0x105 => s.modQuarter q (fun x => { x with rateNext := some (v.extractLsb' 0 4) })
    | 0x106 => onRegs (fun r => { r with brrej := r.brrej && !v.getLsbD 16 })
    | 0x201 => kept (fun r => { r with spCtxSel := v.extractLsb' 0 6 })
    | 0x202 => s.putCmd a.core n q (k.spCtxSel ++ v.extractLsb' 0 58)
    | 0x207 => s.modQuarter q (fun x => { x with budget := v.extractLsb' 0 11 })
    | 0x208 => if (s.quarter q).flush.isSome then s else s.putCmd a.core n q v
    | 0x300 => kept (fun r => { r with pqSel := v.extractLsb' 0 2 })
    | 0x301 => s.putCmd a.core n k.pqSel.toNat v
    | 0x302 => s.putCmd a.core n (s.polderOf k.pqSel.toNat) v
    | 0x303 => s.modPart k.pqSel.toNat (fun x => { x with passNext := some (v.extractLsb' 0 4 ||| ((1#4) <<< k.pqSel.toNat)) })
    | 0x330 => kept (fun r => { r with rgSel := v.extractLsb' 0 8 })
    | 0x331 => s.modRegion k.rgSel.toNat (fun r => if r.state = .fenced then { r with base := v.extractLsb' 30 22 } else r)
    | 0x332 => s.modRegion k.rgSel.toNat (fun r => r.writeCfg v)
    | 0x333 => if s.rgBusy k.rgSel.toNat a.core then s else s.putCmd a.core n k.rgSel.toNat v
    | 0x335 => s.putCmd a.core n k.rgSel.toNat v
    | 0x404 => s.thset v
    | 0x408 => kept (fun r => { r with retIdle := v.extractLsb' 8 24, retEnable := v.getLsbD 0 })
    | 0x500 => kept (fun r => { r with frSel := v.extractLsb' 0 5 })
    | 0x508 =>
      match a.ref with
      | some r => s.modTeam r.team (fun t => { t with fr := { t.fr with tvValid := v.getLsbD 63, tvOffset := v.extractLsb' 0 32 } })
      | none => s
    | 0x608 => s.stopWrite v
    | 0x610 =>
      let s1 := if v.getLsbD 62 then s.lcrClear a.core else s
      s1.modDbg a.core (fun d => { d with lcrEn := v.getLsbD 63, lcrCtx := v.extractLsb' 0 6 })
    | 0x611 => onDbg (fun d => { d with lcrBin := v.extractLsb' 4 5, lcrClass := v.extractLsb' 0 3 })
    | 0x630 => onDbg (fun d => { d with selCore := v.extractLsb' 16 8, selSlot := v.extractLsb' 8 5, selGroup := v.extractLsb' 0 6 })
    | 0x631 => s.dbgCmd a.core a.level v
    | 0x632 => s.modDbg a.agent (fun d => { d with data := v })
    | 0x650 => onDbg (fun d => { d with trcEn := v.getLsbD 63, trcAddr := v.extractLsb' 12 40, trcLog := v.extractLsb' 0 4 })
    | 0x702 => s.featonWrite (s.polderOf q) 0 v
    | 0x703 => s.featonWrite (s.polderOf q) 1 v
    | 0x704 => if v.getLsbD 0 then s.modPolder (s.polderOf q) (fun x => { x with featRej := false }) else s
    | n =>
      if 0x308 ≤ n ∧ n ≤ 0x317 then s.putCmd a.core n k.pqSel.toNat v
      else if 0x600 ≤ n ∧ n ≤ 0x603 then onDbg (fun d => { d with bp := d.bp.set (n - 0x600) (v &&& 0x8000003FFFFFFFFF) })
      else if 0x620 ≤ n ∧ n ≤ 0x62F then onDbg (fun d => { d with ranges := d.ranges.set (n - 0x620) (v &&& 0xBFFFFFFF3FFFFFFF) })
      else if 0x640 ≤ n ∧ n ≤ 0x64F then onDbg (fun d => { d with buf := d.buf.set (n - 0x640) (v.extractLsb' 0 32) })
      else s

/-- A write of a register by a word: none where it raises ILLOP. -/
def State.regWrite (s : State) (a : RegAcc) (n : Nat) (v : DWord) : Option State :=
  if s.regAdmits a n true then
    match s.shared a.core n with
    | none => some (s.regPut a n v)
    | some (num, unit) =>
      if s.regLog.any (fun w => w.1 == num && w.2.1 == unit && decide (w.2.2 < a.core)) then some s
      else some ({ s with regLog := (num, unit, a.core) :: s.regLog }.regPut a n v)
  else none

end Sys2Proof.Machine
end

