-- ==== Sys2Proof/Machine/SysWords.lean ====
section
/-! DEFINITION. Major SYS (08 R289 to R293): system registers, the tick, timers, HALTX and SHOOT. -/
namespace Sys2Proof.Machine

/-- The register access of a word (R289, R525, R528). -/
def Cx.acc (c : Cx) : RegAcc :=
  { core := c.core, ref := some c.ref, level := c.level, agent := (c.stuffed.map Stuffed.agent).getD c.core, stuffed := c.stuffed.isSome }

/-- RDSYS (R289). -/
def execRdsys (d : BitVec 5) (n : BitVec 11) (s : State) : Out :=
  word (.rdsys d n) s (fun c s =>
    match s.regRead c.acc n.toNat with
    | none => illop c s
    | some (s1, v) => retire c (.rdsys d n) (s1.modGroup c.ref (fun g => g.setS d.toNat v)))

/-- WRSYS (R289): the word leaves its group before the write acts. -/
def execWrsys (a : BitVec 5) (n : BitVec 11) (s : State) : Out :=
  word (.wrsys a n) s (fun c s =>
    match (retire c (.wrsys a n) s).regWrite c.acc n.toNat (c.grp.s a.toNat) with
    | none => illop c s
    | some s1 => s1)

/-- TICK (R290). -/
def execTick (d : BitVec 5) (s : State) : Out :=
  word (.tick d) s (fun c s => retire c (.tick d) (s.modGroup c.ref (fun g => g.setS d.toNat s.tick)))

/-- CYC (R290). -/
def execCyc (d : BitVec 5) (s : State) : Out := aluWord (.cyc d) s (fun c g => g.setS d.toNat c.grp.ctl.cyc)

/-- The timer a TIMER word arms (R291). -/
def armed (wall : Bool) (now v : Nat) : Timer :=
  if v = 0 then { armed := false, wall := false, deadline := 0, late := false }
  else { armed := true, wall := wall, deadline := now + v, late := false }

/-- TIMER.res (R291). -/
def execTimerRes (a : BitVec 5) (s : State) : Out :=
  aluWord (.timerRes a) s (fun c g => g.modCtl (fun k => { k with timer := armed false c.grp.ctl.cyc.toNat (c.grp.s a.toNat).toNat }))

/-- TIMER.wall (R291). -/
def execTimerWall (a : BitVec 5) (s : State) : Out :=
  aluWord (.timerWall a) s (fun c g => g.modCtl (fun k => { k with timer := armed true 0 (c.grp.s a.toNat).toNat }))

/-- HALTX (R293, R376). -/
def execHaltx (code : BitVec 12) (s : State) : Out :=
  word (.haltx code) s (fun c s => raiseOp c s 0x1D (code.setWidth 56))

/-- Accesses in flight in a polder through translations a shoot-down removes (R293). -/
def State.usesShot (s : State) (p : Nat) (asid : BitVec 16) (addr size : Nat) : Bool :=
  s.ops.any (fun o =>
    (match o.ctx, (s.team? o.team).bind Team.core? with
    | some n, some c => (s.ctx n).asid == asid && s.polderOf (quarterOf c) == p
    | _, _ => false) &&
    (laneNums (o.sel &&& ~~~o.served)).any (fun l => shootCovers addr size (o.va l) 0))

/-- SHOOT (R293): the translations go at once, and the group waits for the accesses in flight that used them. -/
def execShoot (a : BitVec 5) (s : State) : Out :=
  word (.shoot a) s (fun c s =>
    let v := c.grp.s a.toNat
    let asid := v.extractLsb' 0 16
    let addr := (v.extractLsb' 16 40).toNat * 65536
    let size := (v.extractLsb' 62 2).toNat
    let p := c.polder s
    let s1 := s.shootDown p asid addr size
    if s1.usesShot p asid addr size then stayWaiting c s1 else retire c (.shoot a) s1)

end Sys2Proof.Machine
end

