-- ==== Sys2Proof/Machine/HintWords.lean ====
section
/-! DEFINITION. Hint words (02 R47, R48, 03 R90 to R96) and words that are not instructions (03 R89, R92, R94, R115). -/
namespace Sys2Proof.Machine

/-- The accounts of a hint word: no pipe, no charge, but its group's issue of the cycle (R48, R67, R414). -/
def noteHint (c : Cx) (s : State) : State :=
  let yielding := c.grp.ctl.yielding
  let w : Issued :=
    { team := c.ref.team, group := c.ref.g, pipe := 6, charge := 0, heavy := false, counted := !yielding, hint := true,
      pc := c.pc, slices := c.slices, active := c.act, sel := 0, lines := [] }
  let s1 := (noteDone c s).modCore c.core (fun x => { x with clk := { x.clk with issued := x.clk.issued ++ [w] } })
  if yielding then s1 else s1.modTeam c.ref.team (fun t => { t with lastCounted := s.cycle })

/-- A hint word of a kind: its payload waits in its slices for the next word (R47). The landing word of a transfer, after
a hint word, raises ILLOP at its own address (R93), as does a payload that R90 does not allocate. The operand of an ILLOP that a bundle
raises under R92 is the value of the word it serves, or of the hint itself where R90 does not allocate it, which the hint raises when it
issues (DESIGN CHOICE, log 64): R376 says 'the word's value' and names no word of the bundle. -/
def hintWord (kind : Nat) (payload : BitVec 22) (allocated : Bool) (s : State) : Out :=
  match cxOf s with
  | none => .fault .noIssuer
  | some c =>
    if c.landed || !allocated then .next (illop c s)
    else
      .next ((noteHint c s).modGroup c.ref (fun g =>
        ({ (g.modSlices c.slices (fun _ sl =>
            if c.stuffed.isSome then { sl with hints := sl.hints ++ [(kind, payload)] }
            else { sl with pc := sl.pc + 4, hints := sl.hints ++ [(kind, payload)], bundle := some c.bundle, landed := false })) with
          started := true }.modCtl (fun k =>
            if c.stuffed.isSome then k
            else { k with ptr := (((sliceNums c.slices).getLast?).getD 7 + 1) % 8, bpSkip := k.skipAfter c.bundle, words := k.words + 1 })).settle))

/-- HIMM (R36, R90). -/
def execHimm (p : BitVec 22) (s : State) : Out := hintWord 0 p true s
/-- HOFF (R90). -/
def execHoff (p : BitVec 22) (s : State) : Out := hintWord 1 p true s
/-- HSCHED (R54, R90). -/
def execHsched (m : BitVec 2) (n : BitVec 4) (y : BitVec 1) (s : State) : Out :=
  hintWord 2 ((m ++ n ++ y).setWidth 22) (m != 3) s
/-- HMOD (R90, R98). -/
def execHmod (i f t : BitVec 1) (m : BitVec 3) (s : State) : Out :=
  hintWord 3 ((i ++ f ++ t ++ m).setWidth 22) (m.toNat ≤ 4) s
/-- HREG (R90). -/
def execHreg (r : BitVec 6) (s : State) : Out := hintWord 4 (r.setWidth 22) true s
/-- HSCOPE (R90, R97). -/
def execHscope (o : BitVec 2) (k : BitVec 4) (s : State) : Out := hintWord 5 ((o ++ k).setWidth 22) (k.toNat < 10) s
/-- HAREG (R90, R96). -/
def execHareg (a o : BitVec 2) (s : State) : Out := hintWord 6 ((a ++ o).setWidth 22) true s
/-- HMARK (R90, R96). -/
def execHmark (m : BitVec 16) (s : State) : Out := hintWord 7 (m.setWidth 22) true s

/-- NOT_AN_INSTRUCTION (R89, R92, R94, R115): a word that decodes to nothing, with its value, or an address past the code
section. -/
def execNotAnInstruction (w : Option Word) (s : State) : Out :=
  match cxOf s with
  | none => .fault .noIssuer
  | some c => .next (raiseOp c s 0x10 ((w.getD 0).setWidth 56))

end Sys2Proof.Machine
end

