-- ==== Sys2Proof/Machine/Switch.lean ====
section
/-! DEFINITION. Switching teams out and in (06 R233 to R235, 07 R242, R244, 11 R357, 13 R379, R388, 16 R441 to R443). What the
spec gives no place in an image stays in State (log 11). -/
namespace Sys2Proof.Machine

/-! ## Out -/

/-- Whether a matrix group is saved on the restart path (R233). -/
def Group.restarts (g : Group) : Bool :=
  match g.restart with
  | some r => g.role == .matrix && !r.scaled
  | none => false

/-- Words of the matrix unit that the restart path drops (R233). -/
def droppedWord (i : Instr) : Bool :=
  match i with
  | .mmq .. | .mms .. | .accz .. | .accld .. => true
  | _ => false

/-- A group at its restart label (R235): applied at the switch, as nothing looks at it before the restore. -/
def Group.atRestart (g : Group) : Group :=
  match g.restart with
  | none => g
  | some r =>
    Group.settle { g with
      slices := g.slices.mapIdx (fun k (sl : Slice) =>
        if sl.live then
          { sl with pc := r.label, tag := 0, active := sl.alive &&& r.lanes.extractLsb' (4 * k) 4, stack := [], wait := .running,
                    landed := true, partners := [], trapped := 0, disps := [] }
        else sl),
      acc := g.acc.map (fun x => x.map (fun _ => (0 : Word))),
      ctl := { g.ctl with joins := g.ctl.joins.drop (g.ctl.joins.length - r.depth), ptr := 0 } }

/-- A slice at its resume point (R95, R442 step 1): its wait is abandoned and begins again with the waiting word, at an armed REGANG label
with the label. A slice on a lane trap goes on waiting (13 R388). -/
def Slice.rest (sl : Slice) : Slice :=
  if sl.wait = .onTrap then { sl with hints := [], bundle := .none }
  else { sl with pc := sl.resume, hints := [], bundle := .none, wait := .running }

/-- What the switch makes of a group. -/
def Group.leave (g : Group) : Group :=
  let g1 := ({ g with slices := g.slices.map Slice.rest } : Group).settle
  let g2 := if g.restarts then g1.atRestart else g1
  { g2 with
    started := false, latch := none,
    ctl := { g2.ctl with
      park := none, kept := [], emitting := false, stallUntil := 0, yieldUntil := none, bpSkip := none } }

/-- The groups of a team on the restart path, by number. -/
def Team.restartGroups (t : Team) : List Nat := (t.groups.filter Group.restarts).map (fun g => g.num)

/-- The switch of a team begins (R442 steps 1 and 2): nothing of it issues, parks are abandoned, and the words the restart
path drops are dropped. -/
def State.startLeaving (s : State) (team : Nat) : State :=
  match s.team? team with
  | none => s
  | some t =>
    if t.leaving then s
    else
      let drop := t.restartGroups
      let gone (e : MxEntry) : Bool := e.team == team && drop.contains e.group && droppedWord e.instr
      let hit := s.cores.any (fun c => c.mx.any (fun e => gone e && e.held.isSome))
      let s1 := { s with cores := s.cores.map (fun (c : Core) => { c with mx := c.mx.filter (fun e => !gone e) }) }
      let s2 := s1.dropWaiters (fun w => match w with
        | .group tm _ => tm == team
        | .matrix _ tm => tm == team && hit
        | _ => false)
      let unpark (g : Group) : Group := g.modCtl (fun k => match k.park with
        | some p => if p.unit then k else { k with park := none }
        | none => k)
      s2.modTeam team (fun t => { t with leaving := true, groups := t.groups.map unpark, handler := t.handler.map unpark })

/-- The words of a team in the matrix unit. -/
def State.mxTeam (s : State) (team : Nat) : List MxEntry := s.cores.flatMap (fun c => c.mx.filter (fun e => e.team == team))

/-- Whether the words a team has issued, its accepted jobs and its barrier events have completed; words behind one that
waits for a page (R527) are saved with it. -/
def State.drained (s : State) (t : Team) : Bool :=
  s.ops.all (fun o => o.team != t.id) && t.jobs.all (fun j => j.state != .running) && t.barEvents.isEmpty &&
  (match s.mxTeam t.id with
  | [] => true
  | e :: _ => e.held.isSome && e.region?.isSome)

/-- A wait in EMIT is abandoned (R442 step 1): its slices stand at the EMIT again. -/
def Group.unsend (g : Group) (e : Emission) : Group :=
  g.modSlices e.slices (fun _ sl => { sl with pc := e.pc, hints := [], bundle := none, landed := false, wait := .running })

/-- What tells one saved image from another: the address space and the address (R441). -/
def State.imageKey (s : State) (t : Team) : Option (Nat × Nat) := t.shape.ctx.map (fun x => ((s.ctx x).asid.toNat, t.imageBase))

/-- A team's image as the switch has left it, for a launch that resumes its teams from their saved images (15 R406, log 81). -/
def State.noteImage (s : State) (team : Nat) : State :=
  match s.team? team with
  | none => s
  | some t => match s.imageKey t with
    | some k => { s with saved := (k, t) :: s.saved.filter (fun e => e.1 != k) }
    | none => s

/-- A drained team leaves its core (R442 steps 3 to 5). -/
def State.switchOut (s : State) (team : Nat) : State :=
  match s.team? team with
  | none => s
  | some t =>
    match t.core? with
    | none => s
    | some core =>
      let q := quarterOf core
      let saved := (s.mxTeam team).map (fun e => { e with held := none, got := (0, 0, none) })
      let s1 := { s.fenceAt q 4 with
        cores := (s.fenceAt q 4).cores.map (fun (c : Core) => { c with mx := c.mx.filter (fun e => e.team != team) }),
        emits := s.emits.filter (fun e => e.team != team) }
      let s2 := (s1.dropWaiters (fun w => match w with
        | .group tm _ => tm == team
        | .matrix _ tm => tm == team
        | _ => false))
      let s3 := (s.emits.filter (fun e => e.team == team)).foldl (fun (s : State) e => s.modGroup ⟨team, e.group⟩ (fun g => g.unsend e)) s2
      ((s3.saveTeam core t (fun g => !t.restartGroups.contains g)).modTeam team (fun t => { t with
        place := .out s.cycle, leaving := false, readySince := none, skipped := 0, reserved := false, mxSaved := saved,
        obs := t.obs.map (fun (r : ObRec) => { r with scCache := [] }),
        groups := t.groups.map Group.leave, handler := t.handler.map Group.leave })).noteImage team

/-- The teams of a team's cluster, itself among them (R243). -/
def State.clusterOf (s : State) (t : Team) : List Team := s.teams.filter (fun u => u.id == t.id || sameCluster t u)

/-- Teams that have begun to leave go once all are drained (R244). -/
def State.leaveTogether (s : State) (ts : List Nat) : Option State :=
  if ts.all (fun id => match s.team? id with
      | some t => (match t.core? with
        | some core => s.drained t && s.imageMapped core t
        | none => true)
      | none => true) then some (ts.foldl State.switchOut s)
  else none

/-! ## In -/

/-- A group restored (R261, R291, R443). -/
def Group.restore (tick : DWord) (g : Group) : Group :=
  { g with
    bases := g.bases.map (fun (b : BaseReg) => { b with limit := 0, more := [] }),
    ctl := { g.ctl with timer := { g.ctl.timer with
      late := g.ctl.timer.armed && g.ctl.timer.wall && decide (g.ctl.timer.deadline ≤ tick.toNat) } } }

/-- A group none of whose lines stand in a bank. -/
def Group.noLines (g : Group) : Group := { g with resident := g.resident.map (fun _ => false), dirty := g.dirty.map (fun _ => false) }

/-- A team placed on a core in a slot (R234, R242, R442, R443): its lines that still stand in the banks of the core it left are used as they
stand where it returns there, and are written back first where it goes to another. Its bound ranges are bound again whether or not the core has
granules free for them (DESIGN CHOICE, log 91). -/
def State.switchIn (s : State) (team core slot : Nat) : State :=
  match s.team? team with
  | none => s
  | some t =>
    let back := match t.place with
      | .out _ => true
      | _ => false
    let moved := t.linesAt != some core
    let s0 := if moved then (s.dropLines (t.linesAt.getD core) t).modTeam team (fun t => { t with groups := t.groups.map Group.noLines, handler := t.handler.map Group.noLines })
      else s
    let s1 := s0.modCore core (fun c => { c with mx := c.mx ++ t.mxSaved })
    (if back then s1.loadTeam core t (fun g => !t.restartGroups.contains g) else s1).modTeam team (fun t => { t with
      place := .resident core slot, linesAt := some core, placedAt := s.cycle, lastCounted := s.cycle, skipped := 0, reserved := false, mxSaved := [],
      groups := if back then t.groups.map (Group.restore s.tick) else t.groups,
      handler := if back then t.handler.map (Group.restore s.tick) else t.handler })

end Sys2Proof.Machine
end

