-- ==== Sys2Proof/Machine/EvLinks.lean ====
section
/-! DEFINITION. The Breson links and the requests of peers (11 R355, 16 R436, R437, R445, 19 R494, R495). -/
namespace Sys2Proof.Machine

/-! ## Links (R495) -/

/-- FLIT_RECEIVE: a good flit in order is acknowledged; any other is asked for again. -/
def execFlitReceive (link seq : Nat) (good : Bool) (s : State) : Out :=
  .next (s.modLink link (fun l =>
    if l.up && good && l.rxSeq == BitVec.ofNat 12 seq then { l with rxSeq := l.rxSeq + 1, tries := 0 } else l))

/-- REPLAY: a flit not acknowledged is sent again, eight times at most. -/
def execReplay (link : Nat) (s : State) : Out :=
  .next (s.modLink link (fun l => if l.up && decide (l.tries < 8) then { l with replays := satAdd l.replays 1, tries := l.tries + 1 } else l))

/-- LINK_RETRAIN: after eight replays of a flit without success the link is down until it is trained again, and its traffic goes elsewhere (R494). -/
def execLinkRetrain (link : Nat) (s : State) : Out :=
  .next (s.modLink link (fun l => if l.up && decide (8 ≤ l.tries) then { l with up := false, retrains := satAdd l.retrains 1, tries := 0 } else l))

/-- LINK_TRAINED (R495, R510). -/
def execLinkTrained (link : Nat) (s : State) : Out :=
  .next (if s.feature (s.polderOf (link / 4)) 16 then s.modLink link (fun l => { l with up := true, held := false, tries := 0 }) else s)

/-- HOLD. -/
def execHold (link : Nat) (s : State) : Out :=
  .next (s.modLink link (fun l => if l.up then { l with held := true, holds := satAdd l.holds 1 } else l))

/-- GO. -/
def execGo (link : Nat) (s : State) : Out := .next (s.modLink link (fun l => { l with held := false }))

/-! ## Requests of peers (R436) -/

/-- PEER_REQUEST (R436): over a link that is up. -/
def execPeerRequest (link kind asid va n value : Nat) (s : State) : Out :=
  .next (if s.linkUp link then (s.peerAsk link kind asid va n value).sweep else s)

end Sys2Proof.Machine
end

