-- ==== Sys2Proof/Machine/MatrixWords.lean ====
section
/-! DEFINITION. The matrix unit: majors MMQ, MMS, OBUF, SCL and MAUX (06 R201 to R232, R527). A word enters the core's
queue at issue, with its register operands, and has its effect when the unit completes it. -/
namespace Sys2Proof.Machine

/-! ## Issue (R203, R204) -/

/-- Whether a matrix-major word is held at issue: the queue is full, or tl at its maximum (R53, R203). -/
def mxHeld (c : Cx) (s : State) : Bool := 16 ≤ (s.core c.core).mx.length || 31 ≤ s.tlCount c.ref

/-- What a word captures at its issue. -/
def Cx.mxEntry (c : Cx) (i : Instr) (a b : Nat) : MxEntry :=
  { id := 0, team := c.ref.team, group := c.ref.g, instr := i, pc := c.bundle, hints := c.hs, sel := c.sel (guardOf i),
    sa := c.grp.s a, sb := c.grp.s b, rows := [], metas := [], stuffed := c.stuffed, held := none,
    seq := c.grp.ctl.words + 1, got := (0, 0, none) }

/-- A word enters the queue, numbered, and its sub-gang goes on. -/
def mxEnter (c : Cx) (i : Instr) (s : State) (e : MxEntry) : State :=
  let r := s.fresh
  retire c i (r.2.modCore c.core (fun k => { k with mx := k.mx ++ [{ e with id := r.1 }] }))

/-- A word of majors OBUF, SCL or MAUX with scalar operands. -/
def mxWord (i : Instr) (a b : Nat) (s : State) : Out :=
  word i s (fun c s => if mxHeld c s then s else mxEnter c i s (c.mxEntry i a b))

/-- One that accesses memory: an access of the group (R215, R231). -/
def mxMemWord (i : Instr) (a b : Nat) (s : State) : Out :=
  word i s (fun c s =>
    let e := c.mxEntry i a b
    let g := (e.region?).getD (0, 0)
    if mxHeld c s || accessHeld s c false false 0 || opsBehind c s g.1 g.2 then s else mxEnter c i s e)

/-- The latch that a word would find or take (R228), as the registers hold it: A in va to va + 7, its scales in va + 8 where they are
registers, metadata in eight registers from m. -/
def Group.latchOf (g : Group) (va fmt : Nat) (m : Option Nat) (sel : Lanes) : Latch :=
  let named := g.latchNames va none
  { lines := g.latchNames va m, fmt := fmt, sel := sel, rows := (List.range 9).map (fun k => match named[k]? with
      | some n => g.line n
      | none => zeroLine), metas := ((g.latchNames va m).drop named.length).map g.line }

/-- What a word takes its A from (R228): the latch where the group's last matrix words left one for it, else the registers. -/
def Group.operandsOf (g : Group) (va fmt : Nat) (m : Option Nat) (sel : Lanes) : Latch :=
  (g.latchFor va fmt m sel).getD (g.latchOf va fmt m sel)

/-- Whether a word takes its scales through the cache, the words of its team in the queue standing ahead of it: an access (R330). -/
def Cx.readsScales (c : Cx) (s : State) (e : MxEntry) : Bool :=
  (c.team.cacheRecord? ((s.core c.core).mx.filter (fun x => x.team == c.ref.team)) e).isSome

/-- MMQ and MMS at issue: A, its scales and its metadata are read (R226 to R228); with reuse the latch holds them afterwards, else it is
released. -/
def mmWord (i : Instr) (va fmt : Nat) (reuse : Bool) (sparse : Bool) (s : State) : Out :=
  word i s (fun c s =>
    if mxHeld c s || (c.readsScales s (c.mxEntry i 0 0) && accessHeld s c false false 0) then s
    else
      let e := c.mxEntry i 0 0
      let x := c.grp.operandsOf va fmt (if sparse then some (hregOf c.hs) else none) e.sel
      (mxEnter c i s { e with rows := x.rows, metas := x.metas }).modGroup c.ref (fun g => { g with latch := if reuse then some x else none }))

/-- MMQ (R226). -/
def execMmq (c : BitVec 4) (a : BitVec 6) (o : BitVec 3) (f : BitVec 4) (r : BitVec 1) (k : BitVec 5) (p : BitVec 3)
    (s : State) : Out := mmWord (.mmq c a o f r k p) a.toNat f.toNat (r == 1) false s
/-- MMS (R227). -/
def execMms (c : BitVec 4) (a : BitVec 6) (o : BitVec 3) (f : BitVec 4) (r : BitVec 1) (k : BitVec 5) (p : BitVec 3)
    (s : State) : Out := mmWord (.mms c a o f r k p) a.toNat f.toNat (r == 1) true s
/-- OBRES (R212). -/
def execObres (a : BitVec 5) (o : BitVec 3) (s : State) : Out := mxWord (.obres a o) a.toNat 0 s
/-- OBREL (R213). -/
def execObrel (o : BitVec 3) (s : State) : Out := mxWord (.obrel o) 0 0 s
/-- OBLD (R214). -/
def execObld (a b : BitVec 5) (o : BitVec 3) (s : State) : Out := mxMemWord (.obld a b o) a.toNat b.toNat s
/-- SCFIFO (R220). -/
def execScfifo (a : BitVec 5) (o : BitVec 3) (s : State) : Out := mxWord (.scfifo a o) a.toNat 0 s
/-- SCPUSH (R220). -/
def execScpush (a b : BitVec 5) (s : State) : Out := mxWord (.scpush a b) a.toNat b.toNat s
/-- SCCACHE (R222). -/
def execSccache (a b : BitVec 5) (s : State) : Out := mxWord (.sccache a b) a.toNat b.toNat s
/-- ACCZ (R231). -/
def execAccz (c : BitVec 4) (s : State) : Out := mxWord (.accz c) 0 0 s
/-- ACCLD (R231). -/
def execAccld (a : BitVec 5) (c : BitVec 4) (s : State) : Out := mxMemWord (.accld a c) a.toNat 0 s
/-- ACCST (R231). -/
def execAccst (a : BitVec 5) (c : BitVec 4) (s : State) : Out := mxMemWord (.accst a c) a.toNat 0 s

/-- The live lanes of a group (R232): every lane its slices' masks hold. -/
def Group.liveLanes (g : Group) : Lanes := g.activeLanes g.liveSlices

/-- ACCRST (R232): complete at issue. -/
def execAccrst (i : BitVec 5) (s : State) : Out :=
  word (.accrst i) s (fun c s =>
    if mxHeld c s then s
    else if !c.wholeGroup || (sliceNums c.grp.liveSlices).any (fun k => (c.grp.slice k).stack != []) then illop c s
    else
      match c.team.shape.restarts[i.toNat]? with
      | none => illop c s
      | some label =>
        retire c (.accrst i) (s.modGroup c.ref (fun g => { g with
          restart := some { label := label, depth := g.ctl.joins.length, lanes := g.liveLanes, scaled := false } })))

/-! ## Arithmetic (R201, R202, R208, R211, R217) -/

/-- The value of a code of an element format. -/
def elemValue (fmt code : Nat) : Exact := if fmt = 9 then lgDecode code else (fmtOfCode fmt).decode code

/-- The code of element k of lane l's A row (R202). -/
def rowElem (rows : List Line) (fmt l k : Nat) : Nat :=
  let w := elemBits fmt
  let word (j : Nat) : Nat := ((rows.getD j zeroLine).at l).toNat
  if w = 64 then word (2 * k) + 2 ^ 32 * word (2 * k + 1) else word (k * w / 32) / 2 ^ (k * w % 32) % 2 ^ w

/-- The code of B element (k, n) of a unit (R211, R127). -/
def bElem (range : List Word) (base fmt kd k n : Nat) : Nat :=
  let j := n * kd + k
  if fmt = 8 then wordsByte range (base + j / 2) / 2 ^ (4 * (j % 2)) % 16
  else if fmt = 6 ∨ fmt = 7 then
    wordsByte range (base + j / 2) / 2 ^ (4 * (j % 2)) % 16 * 4 +
      wordsByte range (base + 4 * kd + j / 4) / 2 ^ (2 * (j % 4)) % 4
  else wordsNat range (base + j * (elemBits fmt / 8)) (elemBits fmt / 8)

/-- The product of an A and a B code with their scales (R126, R135, R217). -/
def product (fmt : Nat) (a : Nat) (sa : Exact) (b : Nat) (sb : Exact) : Exact :=
  if fmt = 9 then lgMul a b
  else if scaledFmt fmt then Exact.mul (scaled (elemValue fmt a) sa) (scaled (elemValue fmt b) sb)
  else Exact.mul (elemValue fmt a) (elemValue fmt b)

/-- The index of stored value j of run t of a lane, from its metadata registers (R227, R128). -/
def metaIndex (metas : List Line) (n l t j : Nat) : Nat :=
  let bit := 4 * n * t + 4 * j
  ((metas.getD (bit / 32) zeroLine).at l).toNat / 2 ^ (bit % 32) % 16

/-- The stored values of a lane's row as pairs of element index and dense position (R226, R227). The row of zeros of a lane that is not
selected stands at the positions of that lane's own metadata, which R227 does not check (DESIGN CHOICE, log 72). -/
def rowTerms (d : DWord) (metas : List Line) (l : Nat) : List (Nat × Nat) :=
  let n := descSparse d
  if n = 0 then (List.range (descK d)).map (fun k => (k, k))
  else (List.range (descK d / 16)).flatMap (fun t => (List.range n).map (fun j => (t * n + j, 16 * t + metaIndex metas n l t j)))

/-- Whether a lane's metadata breaks R128. -/
def metaBad (d : DWord) (metas : List Line) (l : Nat) : Bool :=
  let n := descSparse d
  (List.range (descK d / 16)).any (fun t => (List.range (n - 1)).any (fun j =>
    decide (metaIndex metas n l t (j + 1) ≤ metaIndex metas n l t j)))

/-- The A scale of an element of a selected lane (R217): byte j of register va + 8. -/
def aScale (d : DWord) (rows : List Line) (l pos : Nat) : Exact :=
  if descAscale d then
    let j := pos / descBlen d
    scaleNum (descSkind d) (((rows.getD 8 zeroLine).at l).toNat / 2 ^ (8 * j) % 256)
  else .fin false 1 0

/-- Word (r, c) of a 32-bit tile of quarter q, and the low word of an FP64 element (R208). -/
def accIndex (q r c : Nat) : Nat := 64 * q + 8 * r + c
def accIndex64 (q r c : Nat) : Nat := 64 * q + 2 * (8 * (r % 4) + c)

/-- A slot of a group. -/
def Group.slot (g : Group) (n : Nat) : List Word := g.acc.getD n []

/-- One tile row element of a 32-bit format updated (R135, R136). -/
def tileElem (fmt : Nat) (old : Word) (ab : List (Nat × Exact × Nat × Exact)) : Word :=
  if fmt = 10 then dotI8 old (ab.map (fun x => (BitVec.ofNat 8 x.1, BitVec.ofNat 8 x.2.2.1)))
  else BitVec.ofNat 32 (dotF32 old.toNat (ab.map (fun x => product fmt x.1 x.2.1 x.2.2.1 x.2.2.2)))

/-- The effect of MMQ and MMS on a group's slots (R226, R227): `scale j` is the B scale of code index j. -/
def Group.multiply (g : Group) (e : MxEntry) (ac : Nat) (d : DWord) (range : List Word) (blk : Nat) (scale : Nat → Exact) :
    Group :=
  let fmt := descFmt d
  let kd := descK d
  let base := blk * descUnit d
  let lanes := (List.range 32).filter (fun l => e.sel.extractLsb' (l / 8 * 8) 8 != 0)
  let terms (l n : Nat) : List (Nat × Exact × Nat × Exact) := (rowTerms d e.metas l).map (fun x =>
    (if e.sel.getLsbD l then rowElem e.rows fmt l x.1 else 0,
     if e.sel.getLsbD l then aScale d e.rows l x.2 else .fin false 1 0,
     bElem range base fmt kd x.2 n,
     scale (n * (kd / descBlen d) + x.2 / descBlen d)))
  if fmt = 0 then
    { g with acc := (lanes.flatMap (fun l => (List.range 8).map (fun n => (l, n)))).foldl (fun acc x =>
        let q := x.1 / 8
        let r := x.1 % 8
        let i := accIndex64 q r x.2
        let slot := acc.getD (ac + r / 4) []
        let v := dotF64 ((slot.getD i 0).toNat + 2 ^ 32 * (slot.getD (i + 1) 0).toNat)
          ((terms x.1 x.2).map (fun t => (t.1, t.2.2.1)))
        modAt acc (ac + r / 4) (fun s => (s.set i (BitVec.ofNat 32 v)).set (i + 1) (BitVec.ofNat 32 (v / 2 ^ 32)))) g.acc }
  else
    { g with acc := modAt g.acc ac (fun slot =>
        (lanes.flatMap (fun l => (List.range 8).map (fun n => (l, n)))).foldl (fun s x =>
          let i := accIndex (x.1 / 8) (x.1 % 8) x.2
          s.set i (tileElem fmt (slot.getD i 0) (terms x.1 x.2))) slot) }

/-! ## The unit at work -/

/-- The group of a queued word. -/
def MxEntry.ref (e : MxEntry) : GRef := ⟨e.team, e.group⟩

/-- A word leaves the queue complete; a group it held parked issues again (R527). -/
def State.mxDone (s : State) (core : Nat) (e : MxEntry) : State :=
  (s.modCore core (fun k => { k with mx := k.mx.erase e })).modGroup e.ref (fun g =>
    g.modCtl (fun k => match k.park with
      | some p => if p.unit && p.pc == e.pc then { k with park := none } else k
      | none => k))

/-- A word leaves the queue with a team-halt condition and no effect (R94, R206, R389). -/
def State.mxRaise (s : State) (core : Nat) (e : MxEntry) (code oper : Nat) : State :=
  let s1 := s.mxDone core e
  match e.stuffed with
  | some x => s1.endExec x 3 code true
  | none => s1.halt e.ref code e.pc (BitVec.ofNat 56 oper) false (s.skidSince e.ref e.seq)

/-- A word of the unit waits on a page (R224, R527): the fault is queued, and for a whole access its group parks. -/
def State.mxWaits (s : State) (t : Team) (core : Nat) (e : MxEntry) (kind va : Nat) (parks : Bool) : State :=
  match (if parks then e.stuffed else none) with
  | some x => (s.mxDone core e).endExec x 4 0 true
  | none =>
    let s1 := (s.modCore core (fun k => { k with mx := k.mx.map (fun x => if x == e then { x with held := some va, got := (0, 0, none) } else x) })).modGroup
      e.ref (fun g => g.modCtl (fun k => if parks && k.park.isNone then
        { k with park := some { mask := 0, pc := e.pc, addrs := [(va / 65536, va)], unit := true } } else k))
    s1.faultFor t core (core, if e.group = 32 then 128 else e.group) va kind (.matrix core t.id)

/-- The level of a word's accesses: whether it is app. -/
def MxEntry.app (e : MxEntry) (t : Team) : Bool := (e.stuffed.map Stuffed.level).getD t.priv == 0

/-- The operand-buffer granules of a core that nothing holds (R207, R212, R239); none where the ranges of teams switched in there hold more than the
core has (log 91). -/
def State.oGranules (s : State) (core : Nat) : Nat :=
  32 * roleBanks (s.core core).regs.brole 3 - ((s.residents core).map (fun t => 16 * t.shape.matrix)).foldl (· + ·) 0
def State.oFree (s : State) (core : Nat) : Nat :=
  s.oGranules core - ((s.residents core).map (fun t =>
    ((t.obs.filter (fun r => r.bound)).map (fun r => descSize r.desc)).foldl (· + ·) 0)).foldl (· + ·) 0

/-- OBRES in the unit (R212): none while it waits. The contents of the new range are free values (log 9). -/
def State.mxObres (s : State) (t : Team) (core : Nat) (e : MxEntry) (n : Nat) : Option State :=
  if (t.obRec n).bound || !descOk e.sa || s.oGranules core < descSize e.sa then some (s.mxRaise core e 0x17 n)
  else if s.oFree core < descSize e.sa then none
  else
    let r := s.draw
    some ((r.2.modTeam t.id (fun t => t.modRec n (fun _ =>
      { ObRec.unbound with
        bound := true, desc := e.sa,
        range := (List.range (256 * descSize e.sa)).map (fun i => Config.rawWord (r.1 * 2 ^ 20 + i)),
        units := List.replicate (descUnits e.sa) { tag := none, scales := none } }))).mxDone core e)

/-- OBREL in the unit (R213, R221). A copy job still landing into the record does not hold it (DESIGN CHOICE, log 69): the job goes on writing
whatever record N then is. -/
def State.mxObrel (s : State) (t : Team) (core : Nat) (e : MxEntry) (n : Nat) : Option State :=
  let r := t.obRec n
  if !r.bound then some (s.mxRaise core e 0x17 n)
  else if descSsrc r.desc = 1 ∧ (r.popped ≠ r.expected ∨ t.fifo.any (fun x => x.1 == n)) then some (s.mxRaise core e 0x12 n)
  else some ((s.modTeam t.id (fun t => t.modRec n (fun _ => ObRec.unbound))).mxDone core e)

/-- OBLD in the unit (R214, R527). -/
def State.mxObld (s : State) (t : Team) (core : Nat) (e : MxEntry) (n : Nat) : Option State :=
  let r := t.obRec n
  let unit := descUnit r.desc
  let count := (e.sb.extractLsb' 32 16).toNat
  let off := (e.sb.extractLsb' 0 24).toNat
  let src := e.sa.toNat
  if !r.bound || e.sb.extractLsb' 24 8 != 0 || e.sb.extractLsb' 48 16 != 0 || off % unit != 0 || count = 0 || 1536 < count ||
      1024 * descSize r.desc < off + count * unit || src % 256 != 0 then some (s.mxRaise core e 0x17 n)
  else
    match s.readOn core t.shape.ctx (e.app t) src (count * unit) e.got with
    | (_, .part _) => none
    | (s1, .wait k va) => some (s1.mxWaits t core e k va true)
    | (s1, .deny va) => some (s1.mxRaise core e 0x18 va)
    | (s1, .all v met) =>
      some (((match met with
        | some (code, oper) => s1.noteBad core t.shape.ctx (e.app t) e.ref code oper
        | none => s1).modTeam t.id (fun t =>
        t.modRec n (fun r => (List.range count).foldl (fun r i => r.tagUnit (off / unit + i) (src + i * unit))
          { r with range := setWordsNat r.range off (count * unit) v }))).mxDone core e)

/-- SCFIFO in the unit (R220). -/
def State.mxScfifo (s : State) (t : Team) (core : Nat) (e : MxEntry) (n : Nat) : Option State :=
  let r := t.obRec n
  if 2 ^ 32 ≤ e.sa.toNat || !r.bound || descSsrc r.desc != 1 || r.popped != 0 then some (s.mxRaise core e 0x17 n)
  else some ((s.modTeam t.id (fun t => t.modRec n (fun r => { r with expected := e.sa.toNat }))).mxDone core e)

/-- SCPUSH in the unit (R220): none while the FIFO has no room. -/
def State.mxScpush (s : State) (t : Team) (core : Nat) (e : MxEntry) : Option State :=
  let c := (e.sb.extractLsb' 0 4).toNat
  let n := (e.sb.extractLsb' 8 3).toNat
  if c = 0 || 8 < c || e.sb.extractLsb' 4 4 != 0 || e.sb.extractLsb' 11 53 != 0 then some (s.mxRaise core e 0x17 n)
  else if 256 < t.fifo.length + c then none
  else
    let new : List (Nat × Byte) := (List.range c).map (fun i => (n, e.sa.extractLsb' (8 * i) 8))
    some ((s.modTeam t.id (fun t => { t with fifo := t.fifo ++ new })).mxDone core e)

/-- SCCACHE in the unit (R222). -/
def State.mxSccache (s : State) (t : Team) (core : Nat) (e : MxEntry) : Option State :=
  let n := (e.sb.extractLsb' 0 3).toNat
  let r := t.obRec n
  if e.sb.extractLsb' 3 5 != 0 || e.sb.extractLsb' 13 51 != 0 || !r.bound || descSsrc r.desc != 2 then
    some (s.mxRaise core e 0x17 n)
  else some ((s.modTeam t.id (fun t => t.modRec n (fun r =>
      { r with scBase := e.sa, scShift := (e.sb.extractLsb' 8 5).toNat, scCache := [] }))).mxDone core e)

/-- ACCLD in the unit (R231, R527). -/
def State.mxAccld (s : State) (t : Team) (core : Nat) (e : MxEntry) (ac : Nat) : Option State :=
  let va := e.sa.toNat / 1024 * 1024
  let put (s : State) (v : Nat) : State := (s.modGroup e.ref (fun g => { g with
    acc := modAt g.acc ac (fun slot => setWordsNat slot 0 1024 v) })).mxDone core e
  match s.vRead core t.shape.ctx (e.app t) .touching va 1024 with
  | (_, .hold) => none
  | (s1, .wait k a) => some (s1.mxWaits t core e k a true)
  | (s1, .deny a) => some (s1.mxRaise core e 0x18 a)
  | (s1, .bad code oper v) => some (put (s1.noteBad core t.shape.ctx (e.app t) e.ref code oper) v)
  | (s1, .ok v) => some (put s1 v)

/-- ACCST in the unit (R231, R527). -/
def State.mxAccst (s : State) (t : Team) (core : Nat) (e : MxEntry) (ac : Nat) : Option State :=
  let va := e.sa.toNat / 1024 * 1024
  let v := match s.group? e.ref with
    | some g => wordsNat (g.slot ac) 0 1024
    | none => 0
  match s.vWrite core t.shape.ctx (e.app t) .touching va 1024 v with
  | (_, .hold) => none
  | (s1, .wait k a) => some (s1.mxWaits t core e k a true)
  | (s1, .deny a) => some (s1.mxRaise core e 0x18 a)
  | (s1, .bad code oper _) => some ((s1.noteBad core t.shape.ctx (e.app t) e.ref code oper).mxDone core e)
  | (s1, .ok _) => some (s1.mxDone core e)

/-- ACCZ in the unit (R231). -/
def State.mxAccz (s : State) (core : Nat) (e : MxEntry) (ac : Nat) : Option State :=
  some ((s.modGroup e.ref (fun g => { g with acc := modAt g.acc ac (fun _ => List.replicate 256 0) })).mxDone core e)

/-- What taking a unit's scales comes to. -/
inductive Scales where
  | codes (s : State) (cs : List Byte)
  | waits (s : State) (kind va : Nat)
  | stay
  | desync
  | untagged
  | failed (s : State) (va : Nat)

/-- Whether a store of a word's group, issued before it, has still to be performed at an address, an engine's among them (R336). -/
def State.storeBehind (s : State) (t : Team) (core : Nat) (e : MxEntry) (a : Nat) : Bool :=
  let mine := (s.groupOps e.ref).filter (fun o => decide (o.id < e.id) && (o.sel &&& ~~~o.served) != 0)
  if mine.isEmpty then false
  else
    let span := s.spanOf core t.shape.ctx (e.app t) [(a, 1)]
    mine.any (fun o =>
      (o.kind.stores && (laneNums (o.sel &&& ~~~o.served)).any (fun l => span.meets (o.spanAt l))) ||
      (match o.engineRegion? with
      | some g => g.2.2 && span.meets (s.spanOf core o.ctx (e.app t) [(g.1, g.2.1)])
      | none => false))

/-- Codes read through the scale cache (R223, R224): what it has read stays as it was read until dropped (log 21). An address formed at or above
2^56 is a scale read that fails (DESIGN CHOICE, log 71). -/
def State.cacheReads (s : State) (t : Team) (core : Nat) (e : MxEntry) (n : Nat) : List Nat → List (Nat × Byte) → Scales
  | [], got => .codes s (got.map Prod.snd)
  | a :: rest, got =>
    let cached := match s.team? t.id with
      | some u => lookupNat (u.obRec n).scCache a
      | none => none
    match cached with
    | some b => State.cacheReads s t core e n rest (got ++ [(a, b)])
    | none =>
      if 2 ^ 56 ≤ a then .failed s a
      else if s.storeBehind t core e a then .stay
      else
        match s.vRead core t.shape.ctx (e.app t) .bypassing a 1 with
        | (_, .hold) => .stay
        | (s1, .wait k va) => .waits s1 k va
        | (s1, .deny va) => .failed s1 va
        | (s1, .bad ..) => .failed (s1.countReader core t.shape.ctx (e.app t) t.id a) a
        | (s1, .ok v) =>
          let b : Byte := BitVec.ofNat 8 v
          State.cacheReads (s1.modTeam t.id (fun t => t.modRec n (fun r => { r with scCache := (a, b) :: r.scCache }))) t core e n
            rest (got ++ [(a, b)])

/-- Scales taken from the FIFO by a first read (R218, R219, R221). -/
def State.fifoScales (s : State) (t : Team) (n blk : Nat) : Scales :=
  let r := t.obRec n
  match (r.units.getD blk { tag := none, scales := none }).scales with
  | some cs => .codes s cs
  | none =>
    let need := descCodes r.desc
    let mine := (t.fifo.filter (fun x => x.1 == n)).take need
    if r.expected < r.popped + need then .desync
    else if mine.length < need then .stay
    else
      let cs := mine.map Prod.snd
      let rest := (t.fifo.foldl (fun (acc : Nat × List (Nat × Byte)) x =>
        if x.1 == n && decide (acc.1 < need) then (acc.1 + 1, acc.2) else (acc.1, acc.2 ++ [x])) (0, [])).2
      .codes (s.modTeam t.id (fun t =>
        let u := t.modRec n (fun r => { r with
          popped := r.popped + need, units := modAt r.units blk (fun u => { u with scales := some cs }) })
        { u with fifo := rest })) cs

/-- The scales of a unit for a word (R217, R218, R223). -/
def State.unitScales (s : State) (t : Team) (core : Nat) (e : MxEntry) (n blk : Nat) : Scales :=
  let r := t.obRec n
  match descSsrc r.desc with
  | 0 => .codes s []
  | 1 => s.fifoScales t n blk
  | _ =>
    match (r.units.getD blk { tag := none, scales := none }).tag with
    | none => .untagged
    | some tag => s.cacheReads t core e n (scaleAddrs r tag.toNat) []

/-- The first selected lane of a taking-part quarter with bad metadata (R227). -/
def MxEntry.badMeta (e : MxEntry) (d : DWord) : Option Nat := (laneNums e.sel).find? (metaBad d e.metas)

/-- MMQ and MMS in the unit (R216 to R227): none while they wait. Bad metadata is found before the state of the unit's scales, so that SPMETA
comes before SDESYNC and before OBSTATE of an untagged unit (DESIGN CHOICE, log 70). -/
def State.mxMultiply (s : State) (t : Team) (core : Nat) (e : MxEntry) (ac va n fmt k : Nat) (sparse : Bool) : Option State :=
  let r := t.obRec n
  let blk := ((hintOf e.hints 0).getD 0).toNat * 32 + k
  if !r.bound || descFmt r.desc != fmt || (descSparse r.desc != 0) != sparse || 1024 * descSize r.desc < (blk + 1) * descUnit r.desc ||
      (descAscale r.desc && decide (48 < va)) then some (s.mxRaise core e 0x17 n)
  else
    match if sparse then e.badMeta r.desc else none with
    | some l => some (s.mxRaise core e 0x13 l)
    | none =>
      if e.sel = 0 then some (s.mxDone core e)
      else
        match s.unitScales t core e n blk with
        | .stay => none
        | .desync => some (s.mxRaise core e 0x12 n)
        | .untagged => some (s.mxRaise core e 0x17 n)
        | .waits s1 kind va => some (s1.mxWaits t core e kind va false)
        | .failed s1 va => some ((s1.deferFault e.ref 0x43 (BitVec.ofNat 56 va)).mxDone core e)
        | .codes s1 cs =>
          let scale (i : Nat) : Exact := if descSsrc r.desc = 0 then .fin false 1 0
            else scaleNum (descSkind r.desc) (cs.getD i 0).toNat
          let fifo := descSsrc r.desc == 1 && (r.units.getD blk { tag := none, scales := none }).scales.isNone
          some ((s1.modGroup e.ref (fun g =>
            let g1 := g.multiply e ac r.desc r.range blk scale
            { g1 with restart := g1.restart.map (fun x => { x with scaled := x.scaled || fifo }) })).mxDone core e)

/-- A word of the queue tried: none where it waits. -/
def State.mxTry (s : State) (core : Nat) (e : MxEntry) : Option State :=
  match s.team? e.team with
  | none => some (s.mxDone core e)
  | some t =>
    if s.waitsFault (.matrix core t.id) then none
    else
      match e.instr with
      | .mmq c a o f _ k _ => s.mxMultiply t core e c.toNat a.toNat o.toNat f.toNat k.toNat false
      | .mms c a o f _ k _ => s.mxMultiply t core e c.toNat a.toNat o.toNat f.toNat k.toNat true
      | .obres _ o => s.mxObres t core e o.toNat
      | .obrel o => s.mxObrel t core e o.toNat
      | .obld _ _ o => s.mxObld t core e o.toNat
      | .scfifo _ o => s.mxScfifo t core e o.toNat
      | .scpush .. => s.mxScpush t core e
      | .sccache .. => s.mxSccache t core e
      | .accz c => s.mxAccz core e c.toNat
      | .accld _ c => s.mxAccld t core e c.toNat
      | .accst _ c => s.mxAccst t core e c.toNat
      | _ => some (s.mxDone core e)

/-- What a waiting word of the unit has done on its way: the touch of a spiral access that is held makes tiles leave and counts (R304, R327), and an OBLD
reads the part of its block whose tiles the front admits in the cycle (R311). -/
def State.mxTouched (s : State) (core : Nat) (e : MxEntry) : State :=
  match s.team? e.team with
  | none => s
  | some t =>
    if s.waitsFault (.matrix core t.id) then s
    else
      match e.instr with
      | .obld _ _ o =>
        (match s.readOn core t.shape.ctx (e.app t) e.sa.toNat ((e.sb.extractLsb' 32 16).toNat * descUnit (t.obRec o.toNat).desc) e.got with
        | (s1, .part got) => s1.modCore core (fun k => { k with mx := k.mx.map (fun x => if x.id == e.id then { x with got := got } else x) })
        | _ => s)
      | .accld .. => s.vTouch core t.shape.ctx (e.app t) 1 (e.sa.toNat / 1024 * 1024) 1024
      | .accst .. => s.vTouch core t.shape.ctx (e.app t) 2 (e.sa.toNat / 1024 * 1024) 1024
      | _ => s

/-- The words the unit may perform: the oldest of each team (R204). -/
def Core.mxHeads (k : Core) : List MxEntry :=
  (k.mx.foldl (fun (acc : List Nat × List MxEntry) e =>
    if acc.1.contains e.team then acc else (acc.1 ++ [e.team], acc.2 ++ [e])) ([], [])).2

/-- MATRIX_WORD_COMPLETE (R204): the oldest word that does not wait. Of several teams whose next word can complete, the one whose word entered the
unit first goes (DESIGN CHOICE, log 68): R204 leaves words of different teams unordered, and the event names the core alone. -/
def execMatrixWordComplete (core : Nat) (s : State) : Out :=
  .next (match (s.core core).mxHeads.findSome? (fun e => s.mxTry core e) with
    | some s1 => s1.sweep
    | none => (s.core core).mxHeads.foldl (fun s e => s.mxTouched core e) s)

end Sys2Proof.Machine
end

