-- ==== Sys2Proof/Machine/EvLaunch.lean ====
section
/-! DEFINITION. Launch queues, packets, tokens, the prefix lookup and the completion of launches (15 R399 to R408, R418, 17 R453,
R455). -/
namespace Sys2Proof.Machine

/-! ## Packets (R404) -/

/-- A bit field of a number. -/
def natBit (v n : Nat) : Bool := v / 2 ^ n % 2 == 1

/-- Groups of the three roles of a packet: producer, matrix, vector. -/
def pktRoles (v : Nat) : Nat × Nat × Nat :=
  (natBytes v 5 1, natBytes v 4 1, natBytes v 3 1 - natBytes v 5 1 - natBytes v 4 1)

/-- A budget field against its role's count (R404). -/
def budgetOk (a count : Nat) : Bool := if count = 0 then a == 0 else decide (a % 8 = 0 ∧ 8 ≤ a ∧ a ≤ 512)

/-- A virtual section base. -/
def baseOk (a : Nat) : Bool := decide (a % 65536 = 0 ∧ a < 2 ^ 56)

/-- The fields that packets and graph entries share (R404, R418). -/
def sharedOk (v : Nat) : Bool :=
  let r := pktRoles v
  natBytes v 2 1 / 16 == 0 && decide (1 ≤ natBytes v 3 1 ∧ natBytes v 3 1 ≤ 32) && natBytes v 4 1 ≤ 16 && natBytes v 5 1 ≤ 1 &&
  natBytes v 20 2 ≤ 384 && natBytes v 22 2 == 0 && budgetOk (natBytes v 24 2) r.1 && budgetOk (natBytes v 26 2) r.2.1 &&
  budgetOk (natBytes v 28 2) (if natBytes v 3 1 = r.1 + r.2.1 then 0 else 1) && natBytes v 30 2 == 0 && baseOk (natBytes v 32 8) && baseOk (natBytes v 40 8) &&
  baseOk (natBytes v 48 8) && baseOk (natBytes v 56 8) && natBytes v 118 10 == 0

/-- Check 2 of R405: every field meets R404. -/
def packetOk (v : Nat) : Bool :=
  let f := natBytes v 1 1
  let grid := natBytes v 8 4 * natBytes v 12 4 * natBytes v 16 4
  sharedOk v && decide (f < 64) && [1, 2, 4, 8].contains (natBytes v 6 1) && (natBit f 2 || natBytes v 7 1 == 0) &&
  decide (1 ≤ grid ∧ grid < 2 ^ 32) && decide (natBytes v 64 8 % 32 = 0 ∧ natBytes v 64 8 < 2 ^ 56) &&
  decide (natBytes v 72 2 < 4096) && natBytes v 74 2 == 0 && decide (natBytes v 80 2 < 4096) && natBytes v 82 2 == 0 &&
  (if natBit f 5 then decide (1 ≤ natBytes v 84 4 ∧ natBytes v 84 4 ≤ 65536) else natBytes v 84 4 == 0) &&
  (if natBit f 2 then decide (natBytes v 88 8 < 2 ^ 56) else natBytes v 88 16 == 0) &&
  (if natBit f 5 then decide (natBytes v 104 8 % 128 = 0 ∧ natBytes v 104 8 < 2 ^ 56) else natBytes v 104 8 == 0)

/-- R236: the role counts sum to the group count. -/
def rolesOk (v : Nat) : Bool := decide (natBytes v 5 1 + natBytes v 4 1 ≤ natBytes v 3 1)

/-- R55: A + E is at least 64 for every role present. -/
def linesOk (v : Nat) : Bool :=
  let r := pktRoles v
  let ok (count a e : Nat) : Bool := count == 0 || decide (64 ≤ a + e)
  ok r.1 (natBytes v 24 2) (natBytes v 112 2) && ok r.2.1 (natBytes v 26 2) (natBytes v 114 2) &&
  ok r.2.2 (natBytes v 28 2) (natBytes v 116 2)

/-- R240: some core of the polder could hold one team when empty. -/
def State.coreCould (s : State) (p scratch matrix : Nat) : Bool :=
  (List.range 256).any (fun c =>
    s.polderOf (quarterOf c) == p &&
    (let b := (s.core c).regs.brole
     decide (1 ≤ roleBanks b 1 ∧ scratch ≤ 32 * roleBanks b 2 ∧ scratch ≤ 384 ∧ 16 * matrix ≤ 32 * roleBanks b 3)))

/-- The shape of a packet's or entry's teams. -/
def shapeOf (v level qctx asid : Nat) : Shape :=
  { groups := natBytes v 3 1, matrix := natBytes v 4 1, producer := natBytes v 5 1, cluster := natBytes v 6 1, scratch := natBytes v 20 2,
    budget := (natBytes v 24 2, natBytes v 26 2, natBytes v 28 2), spill := (natBytes v 112 2, natBytes v 114 2, natBytes v 116 2),
    code := BitVec.ofNat 56 (natBytes v 32 8), codeLen := 4 * Config.kernelWords asid (natBytes v 32 8),
    restarts := Config.restartTable asid (natBytes v 32 8), image := BitVec.ofNat 56 (natBytes v 56 8), level := level,
    ctx := some qctx, qclass := natBytes v 2 1 % 16 }

/-- Whether an entry of a graph table meets R418. -/
def State.entryOk (s : State) (p v : Nat) : Bool :=
  let f := natBytes v 1 1
  sharedOk v && natBytes v 0 1 == 1 && (f == 0 || f == 2) && natBytes v 6 1 == 1 && natBytes v 7 1 == 0 &&
  decide (1 ≤ natBytes v 8 4 ∧ natBytes v 8 4 ≤ 1024) && natBytes v 16 4 == 1 && natBytes v 64 48 == 0 && rolesOk v && linesOk v &&
  s.coreCould p (natBytes v 20 2) (natBytes v 4 1)

/-- Node n of a graph from its entry (R418). -/
def nodeOf (n v level qctx asid : Nat) : Node :=
  { num := n, thresh := natBytes v 8 4, timeout := natBytes v 12 4, shape := shapeOf v level qctx asid,
    kdata := BitVec.ofNat 56 (natBytes v 40 8), kconst := BitVec.ofNat 56 (natBytes v 48 8), queue := [], created := 0,
    slotsUsed := [], relaunch := natBit (natBytes v 1 1) 1 }

/-- Values a launch gives its teams (R295 to R299); the team's index and records come with the team, a lookup's result before
the first placement. -/
def valsOf (v : Nat) : LaunchVals :=
  let pfx := natBit (natBytes v 1 1) 2
  { team := 0, gridX := BitVec.ofNat 32 (natBytes v 8 4), gridY := BitVec.ofNat 32 (natBytes v 12 4),
    gridZ := BitVec.ofNat 32 (natBytes v 16 4), kdata := BitVec.ofNat 56 (natBytes v 40 8),
    kconst := BitVec.ofNat 56 (natBytes v 48 8), pfxHit := false, pfxNode := 0, pfxPos := 0, pfxDepth := 0,
    pfxTree := if pfx then BitVec.ofNat 8 (natBytes v 7 1) else 0, pfxIn := if pfx then BitVec.ofNat 56 (natBytes v 88 8) else 0,
    pfxLen := if pfx then BitVec.ofNat 64 (natBytes v 96 8) else 0,
    largs := (List.range 16).map (fun i => BitVec.ofNat 64 (natBytes v (128 + 8 * i) 8)), recBase := 0, recNode := 0, recCount := 0 }

/-! ## Queues and tokens -/

/-- Queue q of a polder. -/
def State.queue (s : State) (p q : Nat) : Queue := (s.polder p).queues.getD q Queue.reset
def State.modQueue (s : State) (p q : Nat) (f : Queue → Queue) : State := s.modPolder p (fun x => { x with queues := modAt x.queues q f })

/-- Entries of a queue's ring (R400). -/
def Queue.size (q : Queue) : Nat := 2 ^ max 4 q.logSize.toNat

/-- Whether a context is being torn down (16 R444). -/
def State.tearing (s : State) (p x : Nat) : Bool :=
  let d := s.polder p
  d.cmdBusy && d.cmdOp.toNat == 6 && d.cmdCtx.toNat == x

/-- The address of the packet at a queue's head (R401). -/
def Queue.headAddr (k : Queue) : Nat := k.base.toNat * 256 + 256 * (k.head.toNat % k.size)

/-- Whether a queue offers a packet: enabled, not empty, the sluice OPEN (R401, R483), its context live in the polder (R424) and not being
torn down (R423), and the packet's memory ready (21 R512). -/
def State.offers (s : State) (p q : Nat) : Bool :=
  let k := s.queue p q
  let c := s.ctx k.ctx.toNat
  s.present p && k.enable && k.head != k.tail && (s.polder p).sluice == 0 && c.live && c.polder == p && !s.tearing p k.ctx.toNat &&
  s.devReady p (k.headAddr)

/-- The packet at a queue's head (R401). -/
def State.packetAt (s : State) (p q : Nat) : State × Nat :=
  s.devRead p (s.queue p q).headAddr 256

/-- Whether a tail lies behind an entry of a queue. -/
def behindTail (tail entry : BitVec 32) : Bool := decide (1 ≤ (tail - entry).toNat ∧ (tail - entry).toNat < 2 ^ 31)

/-- The cycle of the QTAIL write that submitted the packet at the head (R401). -/
def Queue.submitted (q : Queue) : Nat := ((q.subs.find? (fun x => behindTail x.1 q.head)).map Prod.snd).getD 0

/-- HEAD passes an entry; the writes that submitted nothing behind it are forgotten. -/
def Queue.advance (q : Queue) : Queue := { q with head := q.head + 1, subs := q.subs.filter (fun x => behindTail x.1 (q.head + 1)) }

/-- QTAIL_WRITE (R401). -/
def execQtailWrite (polder queue : Nat) (v : DWord) (s : State) : Out :=
  .next (if s.present polder then
    s.modQueue polder queue (fun q => { q with tail := v.extractLsb' 0 32, subs := q.subs ++ [(v.extractLsb' 0 32, s.cycle)] })
  else s)

/-- QCFG_WRITE (R400). -/
def execQcfgWrite (polder queue : Nat) (v : DWord) (s : State) : Out :=
  .next (if s.present polder then s.modQueue polder queue (fun q =>
    if q.enable then (if v.getLsbD 31 then q else { q with enable := false })
    else { q with enable := v.getLsbD 31, logSize := v.extractLsb' 24 4, ctx := v.extractLsb' 8 6, prio := v.extractLsb' 0 3 })
  else s)

/-- A token's count. -/
def State.token (s : State) (p n : Nat) : BitVec 32 := ((s.polder p).tokens.find? (fun t => t.1 == n)).elim 0 Prod.snd

/-- A token's count changed. -/
def State.setToken (s : State) (p n : Nat) (v : BitVec 32) : State :=
  s.modPolder p (fun x => { x with tokens := (n, v) :: x.tokens.filter (fun t => t.1 != n) })

/-- A signal of a token, noted for the cycle (R403). -/
def State.signal (s : State) (p n : Nat) : State :=
  let s1 := s.setToken p n (s.token p n + 1)
  { s1 with regLog := (0x8000 + 8 * n, 256 + p, 0) :: s1.regLog }

/-- TOKEN_WRITE (R403): before the signals of its cycle. -/
def execTokenWrite (polder token : Nat) (v : DWord) (s : State) : Out :=
  .next (
    let n := (s.regLog.filter (fun x => x == (0x8000 + 8 * token, 256 + polder, 0))).length
    if token < 4096 && s.present polder then s.setToken polder token (v.extractLsb' 0 32 + BitVec.ofNat 32 n) else s)

/-! ## Reading packets -/

/-- The launch last read from a queue, refused ones apart. -/
def State.lastLaunch (s : State) (p q : Nat) : Option Nat :=
  ((s.launches.filter (fun l => l.polder == p && l.queue == q && l.refused.isNone)).getLast?).map (fun l => l.id)

/-- A launch from a packet, put behind those of its queue; HEAD passes the entry. -/
def State.addLaunch (s : State) (p q v kind total : Nat) (sh : Shape) (nodes : List Node) (refused : Option (Nat × Nat)) : State :=
  let r := s.fresh
  let f := natBytes v 1 1
  let l : Launch :=
    { id := r.1, polder := p, queue := q, kind := kind, flags := BitVec.ofNat 8 f, shape := sh, vals := valsOf v, total := total,
      made := 0, report := BitVec.ofNat 56 (natBytes v 64 8 / 32 * 32), waitTok := natBytes v 72 2 % 4096,
      waitVal := BitVec.ofNat 32 (natBytes v 76 4), sigTok := natBytes v 80 2 % 4096,
      state := if refused.isSome then .complete else .waiting, looked := !natBit f 2 || kind == 2, nodes := nodes, hold := none,
      ended := 0, defers := 0, discarded := 0, haltCode := none, order := (s.queue p q).submitted, skips := 0, torn := false, refused := refused,
      prev := s.lastLaunch p q, denied := [] }
  let s1 := ({ r.2 with launches := r.2.launches ++ [l] }).modQueue p q Queue.advance
  if refused.isSome && natBit f 4 then s1.signal p l.sigTok else s1

/-- What reading a graph table comes to: its entries, a refusal at a node, or a page waited for. -/
inductive Graph where
  | entries (s : State) (vs : List Nat)
  | bad (s : State) (node : Nat)
  | waits (s : State) (va : Nat)
  | hold

/-- Entries n onwards of a graph table read and checked in order (R405, R418). -/
def State.readGraph (p core qctx table : Nat) : Nat → Nat → List Nat → State → Graph
  | 0, _, acc, s => .entries s acc.reverse
  | k + 1, n, acc, s =>
    match s.vRead core (some qctx) false .bypassing (table + 128 * n) 128 with
    | (_, .hold) => .hold
    | (s1, .wait _ va) => .waits s1 va
    | (s1, .ok v) => if s1.entryOk p v then State.readGraph p core qctx table k (n + 1) (v :: acc) s1 else .bad s1 n
    | (s1, _) => .bad s1 n

/-- A fault of the launch unit: CORE 0xFF, no group (R434, R455). -/
def State.unitFault (s : State) (p x kind va qclass team : Nat) (w : Waiter) : State :=
  s.addFault p x (va / 65536) kind (faultBytes va (s.ctx x).asid.toNat x kind qclass p 0xFF 0 team s.tick.toNat) w

/-- The packet of TYPE 1 or not allocated at a queue's head, read and checked (R405): none where it waits. A page of its graph
table that the driver denied fails check 7. -/
def State.takeLaunch (s : State) (p q : Nat) (denied : Bool) : Option State :=
  let k := s.queue p q
  let x := k.ctx.toNat
  let asid := (s.ctx x).asid.toNat
  let r := s.packetAt p q
  let v := r.2
  let sh := shapeOf v k.prio.toNat x asid
  let no (s : State) (check node : Nat) : State := s.addLaunch p q v 1 0 sh [] (some (check, node))
  let total := natBytes v 8 4 * natBytes v 12 4 * natBytes v 16 4
  let flags := natBytes v 1 1
  let t := s.tree p (natBytes v 7 1)
  if natBytes v 0 1 ≠ 1 then some (no r.1 1 0)
  else if !packetOk v then some (no r.1 2 0)
  else if !rolesOk v || total % natBytes v 6 1 != 0 then some (no r.1 3 0)
  else if !linesOk v then some (no r.1 4 0)
  else if !r.1.coreCould p (natBytes v 20 2) (natBytes v 4 1) then some (no r.1 5 0)
  else if natBit flags 2 && s.engUnread p then none
  else if natBit flags 2 && !(s.engOn p && t.on) then some (no r.1 6 0)
  else if !natBit flags 5 then some (r.1.addLaunch p q v 1 total sh [] none)
  else
    match State.readGraph p (64 * p) x (natBytes v 104 8) (natBytes v 84 4) 0 [] r.1 with
    | .hold => none
    | .waits s1 va =>
      if denied then some (no s1 7 ((va - natBytes v 104 8) / 128))
      else if s.waitsFault (.packet p q) then none
      else some (s1.unitFault p x 1 va sh.qclass 0 (.packet p q))
    | .bad s1 n => some (no s1 7 n)
    | .entries s1 vs =>
      some (s1.addLaunch p q v 1 total sh (vs.mapIdx (fun n e => nodeOf n e k.prio.toNat x asid)) none)

/-- TYPE of the packet at a queue's head. -/
def State.packetType (s : State) (p q : Nat) : Nat := natBytes (s.packetAt p q).2 0 1

/-- NO_OPERATION (R404). -/
def execNoOperation (polder queue : Nat) (s : State) : Out :=
  .next (if s.offers polder queue && s.packetType polder queue == 0 then
    (s.packetAt polder queue).1.modQueue polder queue Queue.advance
  else s)

/-- KERNEL_LAUNCH (R405). -/
def execKernelLaunch (polder queue : Nat) (s : State) : Out :=
  .next (if s.offers polder queue && s.packetType polder queue != 0 && s.packetType polder queue != 2 then
    (s.takeLaunch polder queue false).getD s
  else s)

/-- SIGNAL_ONLY (R404, R408): it starts, signals and reports as a launch without teams. -/
def execSignalOnly (polder queue : Nat) (s : State) : Out :=
  .next (if s.offers polder queue && s.packetType polder queue == 2 then
    let r := s.packetAt polder queue
    let k := s.queue polder queue
    r.1.addLaunch polder queue r.2 2 0 (shapeOf 0 k.prio.toNat k.ctx.toNat (s.ctx k.ctx.toNat).asid.toNat) [] none
  else s)

/-! ## Starting (R402, R403) -/

/-- A flag of a launch. -/
def Launch.flag (l : Launch) (n : Nat) : Bool := l.flags.getLsbD n

/-- Whether every team of a launch's grid has been placed at least once. -/
def State.allPlaced (s : State) (l : Launch) : Bool :=
  l.made == l.total && s.teams.all (fun t => !(t.launch == some l.id && t.node.isNone && t.place == .fresh))

/-- Whether a launch may place teams (R402, R403); one that has started goes on. -/
def State.mayStart (s : State) (l : Launch) : Bool :=
  !l.torn && (l.state == .running ||
    (l.state == .waiting &&
     (match l.prev.bind s.launch? with
      | none => true
      | some b => if l.flag 0 then b.state == .complete else b.state == .complete || (b.state == .running && s.allPlaced b)) &&
     (!l.flag 3 || decide ((s.token l.polder l.waitTok - l.waitVal).toNat < 2 ^ 31))))

/-! ## The prefix lookup (R455) -/

/-- What a lookup comes to: the node reached and segments matched, or a page waited for. -/
inductive Lookup where
  | found (s : State) (node matched : Nat)
  | waits (va : Nat)
  | hold

/-- The walk of R455. -/
def State.lookup (p ti : Nat) (t : Tree) (core : Nat) (l : Launch) : Nat → Nat → Key → State → Lookup
  | 0, node, k, s => .found s node k.d
  | f + 1, node, k, s =>
    if l.vals.pfxLen.toNat < (k.d + 1) * t.g then .found s node k.d
    else
      let va := l.vals.pfxIn.toNat + k.d * t.segBytes
      match s.vRead core l.shape.ctx false .bypassing va t.segBytes with
      | (_, .hold) => .hold
      | (_, .wait _ a) => if l.denied.contains (a / 65536) then .found s node k.d else .waits a
      | (s1, .ok seg) =>
        let k1 := t.segment k seg
        (match s1.childMatch p ti t node k1 seg with
        | (s2, none) => .found s2 node k.d
        | (s2, some m) => State.lookup p ti t core l f m k1 (s2.modNode p m (fun n => { n with lastUse := s.tick.toNat })))
      | (s1, _) => .found s1 node k.d

/-- PREFIX_LOOKUP (R453, R455). -/
def execPrefixLookup (launch : Nat) (s : State) : Out :=
  .next (match s.launch? launch with
    | none => s
    | some l =>
      let p := l.polder
      let ti := l.vals.pfxTree.toNat
      let t := s.tree p ti
      let x := l.shape.ctx.getD 0
      if l.looked || !s.mayStart l || s.waitsFault (.lookup launch) || !s.engOn p then s
      else
        match State.lookup p ti t (64 * p) l (t.ncount + 1) 0 t.start (s.engStart p) with
        | .hold => s
        | .waits va => s.unitFault p x 1 va l.shape.qclass 0 (.lookup launch)
        | .found s0 node matched =>
          let hit := node != 0
          match (if hit then s0.holdNode p node else s0).engEnd p none with
          | none => s
          | some s1 => s1.modLaunch launch (fun l => { l with
            looked := true, state := .running, hold := if hit then some node else none,
            vals := { l.vals with
              pfxHit := hit, pfxNode := BitVec.ofNat 22 node,
              pfxPos := if hit then BitVec.ofNat 64 (matched * t.g) else 0, pfxDepth := if hit then BitVec.ofNat 24 matched else 0 } }))

/-! ## Completion (R407, R408) -/

/-- The report of a launch, not yet written: status and detail. -/
def reportBytes (l : Launch) (status detail : Nat) (tick : DWord) : Nat :=
  let sat (n : Nat) : Nat := min n (2 ^ 32 - 1)
  status + 2 ^ 32 * detail + 2 ^ 64 * tick.toNat + 2 ^ 128 * sat l.ended + 2 ^ 160 * sat l.defers + 2 ^ 192 * sat l.discarded

/-- What a launch's report says of its end (R407). -/
def Launch.status (l : Launch) (halted : Bool) : Nat × Nat :=
  match l.refused with
  | some (check, node) => (2, check + 2 ^ 16 * node)
  | none => if l.torn then (4, 0) else if halted then (3, l.haltCode.getD 0) else (1, 0)

/-- A launch gone from the polder with its teams, its hold released (R453). -/
def State.dropLaunch (s : State) (l : Launch) : State :=
  let s1 := match l.hold with
    | some n => s.unholdNode l.polder n
    | none => s
  { s1 with
    launches := s1.launches.filter (fun x => x.id != l.id), teams := s1.teams.filter (fun t => t.launch != some l.id) }

/-- The report written as a release at .system (R356, R407), and the launch gone; a missing page is waited for, and one that
the driver denied, or that refuses the write, leaves no report. -/
def State.writeReport (s : State) (l : Launch) (halted : Bool) : State :=
  let st := l.status halted
  let s0 := (s.polderQuarters l.polder).foldl (fun s q => s.release q 9 (s.polderQuarters q)) s
  match s0.vWrite (64 * l.polder) l.shape.ctx false .bypassing l.report.toNat 32 (reportBytes l st.1 st.2 s.tick) with
  | (_, .hold) => s
  | (s1, .wait k va) =>
    if l.torn || l.denied.contains (va / 65536) then s1.dropLaunch l
    else if s.waitsFault (.lookup l.id) then s
    else s1.unitFault l.polder (l.shape.ctx.getD 0) k va l.shape.qclass 0 (.lookup l.id)
  | (s1, _) => s1.dropLaunch l

/-- Records of a launch's graph pending, or on their way (R408). -/
def State.recordsPending (s : State) (l : Launch) : Bool :=
  l.nodes.any (fun n => !n.queue.isEmpty) ||
  s.emits.any (fun e => match s.team? e.team with
    | some t => t.launch == some l.id
    | none => false)

/-- Whether a launch completes now; `halted` where the driver discards the halted teams that are left (log 23). -/
def State.completes (s : State) (l : Launch) (halted : Bool) : Bool :=
  let left := s.teams.filter (fun t => t.launch == some l.id && !t.ended)
  if l.kind = 2 then !halted && s.mayStart l
  else
    l.state == .running && l.made == l.total &&
    (if halted then !left.isEmpty && left.all (fun t => t.fr.halted) else left.isEmpty && !s.recordsPending l)

/-- Halted teams discarded: their holds and uncommitted positions go, and what they left in flight (R452, R462). -/
def State.discardTeams (s : State) (l : Launch) : State :=
  let mine (id : Nat) : Bool := s.teams.any (fun t => t.id == id && t.launch == some l.id && !t.ended)
  let s1 := { s with
    ops := s.ops.filter (fun o => !mine o.team), emits := s.emits.filter (fun e => !mine e.team),
    cores := s.cores.map (fun (c : Core) => { c with mx := c.mx.filter (fun e => !mine e.team) }) }
  let s2 := s1.dropWaiters (fun w => match w with
    | .group t _ | .job t _ | .matrix _ t => mine t
    | _ => false)
  (s.teams.filter (fun t => mine t.id)).foldl (fun s t => s.endEngines l.polder t.id) s2

/-- LAUNCH_COMPLETE (R407, R408): a launch whose teams have all ended signals its token and reports; where only halted teams are
left, it is the driver's discard of them, and nothing is signalled. -/
def execLaunchComplete (launch : Nat) (s : State) : Out :=
  .next (match s.launch? launch with
    | none => s
    | some l =>
      if l.torn then s
      else if l.state == .complete then s.writeReport l (l.haltCode.isSome && s.teams.any (fun t => t.launch == some l.id && !t.ended))
      else
        let halted := !s.completes l false && s.completes l true
        if !s.completes l false && !halted then s
        else
          let s1 := if halted then s.discardTeams l else s
          let s2 := (if l.flag 4 && !halted then s1.signal l.polder l.sigTok else s1).modLaunch launch (fun l => { l with state := .complete })
          s2.writeReport l halted)

end Sys2Proof.Machine
end

