-- ==== Sys2Proof/Machine/EvPlace.lean ====
section
/-! DEFINITION. The distributor, forward progress, node teams and service kernels (07 R239 to R244, 15 R409 to R421, 16 R441, 20
R497). -/
namespace Sys2Proof.Machine

/-! ## Teams (R236, R241, R295) -/

/-- A fault record with nothing recorded (R395, R396). -/
def FaultRec.fresh : FaultRec :=
  { halted := false, haltedAt := 0, defer := false, sib := false, pending := 0, group := 0, code := 0, pc := 0, oper := 0, tvValid := false,
    tvOffset := 0, handlers := 0, killed := 0, badDisp := 0, lost := 0, defExit := 0 }

/-- A team never started, with every lane at a PC (R43, R130, R241). -/
def Team.make (id : Nat) (launch node : Option Nat) (slot : Nat) (h : Shape) (v : LaunchVals) (priv rank : Nat) (pc : Word)
    (records : List NodeRec) : Team :=
  { id := id, launch := launch, node := node, imageSlot := slot, shape := h, vals := v, priv := priv, rank := rank, place := .fresh, linesAt := none,
    placedAt := 0, lastCounted := 0, skipped := 0, reserved := false,
    groups := h.roles.mapIdx (fun g r => Group.fresh g r (h.aOf r) (h.eOf r) (BitVec.allOnes 32) pc (seedOf v.team.toNat g)),
    handler := none, scratch := List.replicate (256 * h.scratch) 0, bars := List.replicate 16 (Barrier.first h.groups), barEvents := [],
    obs := List.replicate 8 ObRec.unbound, fifo := [], jobs := [], lastBatch := 0, batches := [], holds := [], mxSaved := [],
    traps := [], readySince := none, fr := FaultRec.fresh, records := records, leaving := false, ended := false }

/-- Where new teams start: at the kernel's entry, or with RELAUNCH set at its first restart label (R406). -/
def startPc (relaunch : Bool) (h : Shape) : Word := if relaunch then h.restarts.headD 0 else 0

/-- Whether teams of a launch may be placed: it has started, its lookup is done, and its context is not pre-empted (R402, R403,
R406, R409, R426). -/
def State.mayPlace (s : State) (l : Launch) : Bool :=
  s.mayStart l && l.looked && (match l.shape.ctx with
    | some x => !(s.ctx x).preempted
    | none => false)

/-- A new team as the saved image of an earlier one has it (R406, R441, R443): it goes on as a team switched out does, its lines in the image. -/
def Team.resume (t u : Team) (cycle : Nat) : Team :=
  let bare (g : Group) : Group := { g with resident := g.resident.map (fun _ => false), dirty := g.dirty.map (fun _ => false) }
  { u with
    id := t.id, launch := t.launch, node := t.node, imageSlot := t.imageSlot, shape := t.shape, vals := t.vals, priv := t.priv, rank := t.rank,
    place := .out cycle, linesAt := none, placedAt := 0, lastCounted := 0, skipped := t.skipped, reserved := false, holds := [],
    mxSaved := u.mxSaved.map (fun (e : MxEntry) => { e with team := t.id }), groups := u.groups.map bare, handler := u.handler.map bare,
    records := t.records, leaving := false, ended := false }

/-- A new team of a launch, where a saved image stands at its image's address: the recovery service may have the launch resume, which discards the
uncommitted positions of the team that left it (17 R462); with RELAUNCH = 0 the team then resumes from the image, with RELAUNCH = 1 it starts anew
(R406). Nothing in a packet tells such a launch, so it is a free value (log 81). -/
def State.recover (s : State) (p : Nat) (relaunch : Bool) (t : Team) : State × Team :=
  match (s.imageKey t).bind (fun k => s.saved.find? (fun e => e.1 == k)) with
  | none => (s, t)
  | some e =>
    let d := s.draw
    if Config.resumesSaved d.1 && e.2.shape.roles == t.shape.roles && e.2.shape.imageBytes == t.shape.imageBytes then
      (d.2.discardOf p e.2.id, if relaunch then t else t.resume e.2 s.cycle)
    else (d.2, t)

/-- The next cluster of a launch that may place teams and has none in the waiting set (R409). A launch's teams enter State in their
order, which is the order of their turn; those still to come have one shape with it, and have been skipped whenever it was (R411). -/
def State.makeTeams (s : State) (l : Launch) : State :=
  if l.kind ≠ 1 || l.made == l.total || !s.mayPlace l || s.teams.any (fun t => t.launch == some l.id && t.node.isNone && t.place == .fresh)
  then s
  else
    (List.range l.shape.cluster).foldl (fun s i =>
      let r := s.fresh
      let t := Team.make r.1 (some l.id) none (l.made + i) l.shape { l.vals with team := BitVec.ofNat 32 (l.made + i) } 0 i (startPc (l.flag 1) l.shape) []
      let u := r.2.recover l.polder (l.flag 1) { t with skipped := l.skips }
      ({ u.1 with teams := u.1.teams ++ [u.2] }).modLaunch l.id (fun l => { l with made := l.made + 1 })) s

/-- Every launch of a polder supplies its next teams. -/
def State.supply (s : State) (p : Nat) : State := (s.launches.filter (fun l => l.polder == p)).foldl State.makeTeams s

/-! ## Candidates (R409) -/

/-- The lexicographic order. -/
def lexLt : List Nat → List Nat → Bool
  | a :: as, b :: bs => decide (a < b) || (a == b && lexLt as bs)
  | _, _ => false

/-- A waiting team's place in the order of R409. -/
def State.rankKey (s : State) (t : Team) : List Nat :=
  let l := (t.launch.bind s.launch?).map (fun l => (l.order, l.id))
  match t.place with
  | .out c => [7 - t.shape.level, 0, c, t.id]
  | _ => [7 - t.shape.level, 1, (l.map Prod.fst).getD 0, (l.map Prod.snd).getD 0, if t.node.isSome then 1 else 0, if t.node.isSome then t.id else t.vals.team.toNat]

/-- The waiting set of a polder (R409). -/
def State.waitingTeams (s : State) (p : Nat) : List Team :=
  s.teams.filter (fun t =>
    t.core?.isNone && !t.ended &&
    (match t.launch.bind s.launch? with
    | some l => l.polder == p && s.mayPlace l
    | none => false))

/-- A list of teams by rank. -/
def State.insertRank (s : State) (t : Team) : List Team → List Team
  | [] => [t]
  | u :: us => if lexLt (s.rankKey t) (s.rankKey u) then t :: u :: us else u :: State.insertRank s t us

/-- The candidates in order, each a cluster under its lowest-ranked team. -/
def State.candidates (s : State) (p : Nat) : List Team :=
  let ts := (s.waitingTeams p).foldl (fun acc t => s.insertRank t acc) []
  (ts.foldl (fun (acc : List Team) t => if acc.any (fun u => sameCluster t u) then acc else t :: acc) []).reverse

/-! ## Where a candidate fits (R239, R243, R410, R411) -/

/-- Groups resident on a core. -/
def State.groupsOn (s : State) (c : Nat) : Nat := ((s.residents c).map (fun t => t.shape.groups)).foldl (· + ·) 0

/-- The conditions of R239 for a team on a core, beside the residents and a further team. -/
def State.fitsBeside (s : State) (c : Nat) (x : Option Shape) (h : Shape) : Bool :=
  let b := (s.core c).regs.brole
  let used := ((s.residents c).map (fun t => t.shape.scratch)).foldl (· + ·) 0
  let more (f : Shape → Nat) : Nat := (x.map f).getD 0
  decide (s.groupsOn c + more Shape.groups + h.groups ≤ 32 ∧ (s.residents c).length + more (fun _ => 1) ≤ 30 ∧ 1 ≤ roleBanks b 1 ∧
    used + more Shape.scratch + h.scratch ≤ 32 * roleBanks b 2 ∧ 16 * (more Shape.matrix + h.matrix) ≤ s.oFree c)

/-- The conditions of R239 for a team on a core. -/
def State.fits (s : State) (c : Nat) (h : Shape) : Bool := s.fitsBeside c none h

/-- The cores of a block for a cluster. -/
def blockOf (c k : Nat) : List Nat := (List.range k).map (fun i => c / k * k + i)

/-- Whether a team with a handler group, or one of its cluster, finds the handler slot of its core free (13 R382, log 46). -/
def State.handlerFits (s : State) (c : Nat) (t : Team) : Bool :=
  (s.clusterOf t).all (fun u => u.handler.isNone ||
    (s.residents (c / t.shape.cluster * t.shape.cluster + u.rank)).all (fun v => v.handler.isNone))

/-- The machine as it would be without some teams. -/
def State.without (s : State) (ids : List Nat) : State := { s with teams := s.teams.filter (fun t => !ids.contains t.id) }

/-- Whether a team leaves a core what a swap frees there for another (R416). -/
def State.sparesSwap (s : State) (c : Nat) (t : Team) : Bool :=
  match (s.core c).clk.swapFor.bind s.team? with
  | none => true
  | some x =>
    x.id == t.id || sameCluster x t ||
    (s.without (((s.residents c).filter (fun v => v.leaving)).map (fun v => v.id))).fitsBeside c (some x.shape) t.shape

/-- Whether a team, with its cluster, may be placed on the block of a core. -/
def State.fitsTeam (s : State) (c : Nat) (t : Team) : Bool :=
  (blockOf c t.shape.cluster).all (fun k => s.fits k t.shape && s.sparesSwap k t) && s.handlerFits c t

/-- Whether a team fits anywhere in its polder now (R410). -/
def State.fitsSome (s : State) (p : Nat) (t : Team) : Bool :=
  (List.range 256).any (fun c => s.polderOf (quarterOf c) == p && c % t.shape.cluster == 0 && s.fitsTeam c t)

/-- Whether a team could fit in a quarter once resources are freed (R411). -/
def State.couldFit (s : State) (q : Nat) (h : Shape) : Bool :=
  (List.range 64).any (fun i => (blockOf (64 * q + i) h.cluster).all (fun c =>
    let b := (s.core c).regs.brole
    decide (1 ≤ roleBanks b 1 ∧ h.scratch ≤ 32 * roleBanks b 2 ∧ 16 * h.matrix ≤ 32 * roleBanks b 3)))

/-- Whether a reserved candidate ranked before a team keeps it out of a quarter (R411). -/
def State.keptOut (s : State) (p q : Nat) (t : Team) : Bool :=
  (s.candidates p).any (fun r =>
    r.reserved && r.id != t.id && !sameCluster r t && lexLt (s.rankKey r) (s.rankKey t) && s.couldFit q r.shape)

/-- The core a candidate's block begins at (R410). -/
def State.choose (s : State) (p : Nat) (t : Team) : Option Nat :=
  let qs := (List.range 4).filter (fun q => s.polderOf q == p && !s.keptOut p q t)
  let cs := (List.range 256).filter (fun c => qs.contains (quarterOf c) && c % t.shape.cluster == 0 && s.fitsTeam c t)
  if t.shape.cluster = 1 then
    cs.foldl (fun best c => match best with
      | none => some c
      | some b => if s.groupsOn c < s.groupsOn b then some c else best) none
  else cs.head?

/-- Whether the distributor has chosen a core, or the block it lies in, for a placement (R410, 21 R506). -/
def State.chosen (s : State) (core : Nat) : Bool :=
  let p := s.polderOf (quarterOf core)
  (s.candidates p).any (fun t => match s.choose p t with
    | some c => (blockOf c t.shape.cluster).contains core
    | none => false)

/-- RETENTION_EXIT (02 R49, R50, 21 R506): of a core that the distributor has chosen. -/
def execRetentionExit (core : Nat) (parityOk : Bool) (s : State) : Out :=
  .next (if (s.core core).regs.asleep && s.chosen core then
    s.modCore core (fun c =>
      let c1 := if parityOk then c
        else { c.reload with regs := { c.reload.regs with retReloads := satAdd c.regs.retReloads 1 } }
      { c1 with
        clk := { c1.clk.start with thalw := c1.storedThalw, thalwNext := none },
        regs := { c1.regs with asleep := false, idle := 0 } })
  else s)

/-! ## Placing (R410, R421, R434, R441) -/

/-- The lowest free team slot of a core. -/
def State.freeSlot (s : State) (c : Nat) : Nat :=
  ((List.range 31).find? (fun k => !(s.residents c).any (fun t => t.slot? == some k))).getD 0

/-- The records of a node team copied to the record slots of its image, and their slots of the store or of
the overflow area, where they are read from memory, freed (R421). -/
def State.copyRecords (s : State) (core : Nat) (t : Team) : Option State :=
  if t.records = [] then some s
  else
    let p := s.teamPolder t
    let s0 := t.records.foldl (fun (acc : State × List Nat) (r : NodeRec) => match r.overflow with
      | some n => let x := acc.1.devRead p (s.ovfAddr p n) 64; (x.1, acc.2 ++ [x.2])
      | none => (acc.1, acc.2 ++ [r.bytes.toNat])) (s, [])
    let v := (s0.2.mapIdx (fun i (b : Nat) => b * 2 ^ (512 * i))).foldl (· + ·) 0
    if !((t.records.filterMap (fun r => r.overflow)).all (fun n => s.devReady p (s.ovfAddr p n))) then none
    else
      match s0.1.vWrite core t.shape.ctx false .bypassing (t.imageBase + 65536) (64 * t.records.length) v with
      | (_, .hold) => none
      | (_, .wait ..) => none
      | (s1, _) => some (s1.modTeam t.id (fun t => { t with records := [] }))

/-- Whether every record a team has received stood in the store through the cycle before this one: a tear-down of that cycle or of this one would
have found it there (R423, log 92). -/
def State.recordsStood (s : State) (t : Team) : Bool := t.records.all (fun r => decide (r.tick + s.tickStep < s.tick.toNat))

/-- A candidate placed on the block that begins at a core: none where it is not, a state where it is or where its image waits for
a page. Its first issue observes what R356 names. -/
def State.placeAt (s : State) (p c : Nat) (t : Team) : Option State :=
  let members := s.clusterOf t
  if members.any (fun u => s.waitsFault (.place u.id) || (s.core (c + u.rank)).regs.asleep) || !s.recordsStood t then none
  else
    let check := members.foldl (fun (acc : State × Option (Team × Nat × Nat)) u =>
      match acc.2 with
      | some _ => acc
      | none =>
        let r := State.imageMissing (c + u.rank) u (List.range (u.shape.imageBytes / 65536)) acc.1
        (r.1, r.2.map (fun va => (u, va)))) (s, none)
    match check.2 with
    | some (_, _, 0) => none
    | some (u, va, kind) =>
      some (check.1.addFault p (u.shape.ctx.getD 0) (va / 65536) kind
        (faultBytes va (s.ctx (u.shape.ctx.getD 0)).asid.toNat (u.shape.ctx.getD 0) kind u.shape.qclass (quarterOf c) 0xFF 0
          u.vals.team.toNat s.tick.toNat) (.place u.id))
    | none =>
      match check.1.copyRecords c t with
      | none => none
      | some s1 =>
        let s2 := members.foldl (fun s u => s.switchIn u.id (c + u.rank) (s.freeSlot (c + u.rank))) s1
        let s3 := s2.acquire (quarterOf c) 9 (s2.polderQuarters (quarterOf c))
        some (match t.launch with
          | some l => s3.modLaunch l (fun x => if x.state = .waiting then { x with state := .running } else x)
          | none => s3)

/-- Whether the distributor has placed a candidate in a quarter in this cycle (R411). -/
def State.placedNow (s : State) (q : Nat) : Bool :=
  s.teams.any (fun t => t.launch.isSome && t.placedAt == s.cycle && (match t.core? with
    | some c => quarterOf c == q
    | none => false))

/-- What the distributor does in a quarter. -/
def State.distribute (s : State) (p q : Nat) : Option State :=
  let s1 := s.supply p
  if s1.placedNow q then none
  else
    (s1.candidates p).findSome? (fun t =>
      match s1.choose p t with
      | some c => if quarterOf c = q then s1.placeAt p c t else none
      | none => none)

/-- PLACE_TEAM (R410, R411). -/
def execPlaceTeam (polder q : Nat) (s : State) : Out :=
  .next (if s.polderOf q == polder then (s.distribute polder q).getD s else s)

/-- The candidates skipped in a cycle, counted for R411. -/
def State.countSkips (s0 : State) (p : Nat) : State :=
  let s := s0.supply p
  let late := (s.candidates p).filter (fun t => !s.fitsSome p t)
  let skipped := late.flatMap (fun t => (s.clusterOf t).map (fun u => u.id))
  if skipped = [] then s
  else { s with
    teams := s.teams.map (fun (t : Team) => if skipped.contains t.id then { t with skipped := t.skipped + 1 } else t),
    launches := s.launches.map (fun (l : Launch) =>
      if late.any (fun t => t.launch == some l.id && t.node.isNone && t.place == .fresh) then { l with skips := l.skips + 1 } else l) }

/-- CANDIDATE_RESERVED (R411): at most one in a quarter. -/
def execCandidateReserved (team : Nat) (s : State) : Out :=
  .next (match s.team? team with
    | none => s
    | some t =>
      let p := s.teamPolder t
      let cs := s.candidates p
      let clash (q : Nat) : Bool := s.couldFit q t.shape && cs.any (fun r => r.reserved && r.id != team && s.couldFit q r.shape)
      if cs.any (fun c => c.id == team) && decide (65536 ≤ t.skipped) && !t.reserved && !(s.polderQuarters p).any clash then
        s.modTeam team (fun t => { t with reserved := true })
      else s)

/-! ## Forward progress (R416) -/

/-- Teams of a cluster that may be victims: resident, none of them halted, not a service kernel's. -/
def State.mayLeave (s : State) (t : Team) : Bool := t.launch.isSome && (s.clusterOf t).all (fun u => !u.fr.halted)

/-- The cycle of a cluster's most recent counted word. -/
def State.lastOf (s : State) (t : Team) : Nat := ((s.clusterOf t).map (fun u => u.lastCounted)).foldl max 0

/-- The victim on a core: the oldest, the lowest slot breaking ties. -/
def State.victim (s : State) (c : Nat) : Option Team :=
  ((s.residents c).filter (fun t => s.mayLeave t)).foldl (fun (best : Option Team) t => match best with
    | none => some t
    | some b =>
      let a := s.lastOf t
      let z := s.lastOf b
      if a < z ∨ (a = z ∧ (t.slot?.getD 0) < (b.slot?.getD 0)) then some t else best) none

/-- Whether some waiting team waits for a core: it fits nowhere, and would fit there once a team or cluster had left (R416). -/
def State.waitsFor (s : State) (p c : Nat) : Bool :=
  (s.candidates p).any (fun x =>
    !s.fitsSome p x &&
    (s.residents c).any (fun v => s.mayLeave v && (s.without ((s.clusterOf v).map (fun u => u.id))).fitsTeam c x))

/-- The team that comes in once teams have left a core. -/
def State.incoming (s : State) (p c : Nat) (gone : List Nat) : Option Team :=
  let fit := (s.candidates p).filter (fun x =>
    !gone.contains x.id && (s.without gone).fitsTeam c x && !s.keptOut p (quarterOf c) x)
  let outs := fit.filter (fun x => x.place != .fresh)
  let first := outs.foldl (fun (best : Option Team) x => match best, x.place with
    | some b, .out n => (match b.place with
      | .out m => if n < m then some x else best
      | _ => best)
    | none, _ => some x
    | b, _ => b) none
  match first with
  | some x => some x
  | none => fit.head?

/-- The victim of a swap in progress on a core. -/
def State.swapping (s : State) (c : Nat) : Option Team :=
  (s.residents c).find? (fun t => t.leaving && !t.fr.halted && (match t.launch.bind s.launch? with
    | some l => !l.torn && (match l.shape.ctx with
      | some x => !(s.ctx x).preempted
      | none => false)
    | none => false))

/-- What a swap frees on the block of a core is for a team, or for none. -/
def State.reserveFor (s : State) (c : Nat) (k : Nat) (x : Option Nat) : State :=
  (blockOf c k).foldl (fun s i => s.modCore i (fun k => { k with clk := { k.clk with swapFor := x } })) s

/-- A swap goes on: its incoming team takes the freed resources as soon as they are free, at most one team in a quarter and cycle (R411);
where it waits for a page of its image they stay reserved, and where it waits no longer the swap is over. -/
def State.swapIn (s : State) (p c x : Nat) : State :=
  match s.team? x with
  | none => s.reserveFor c 1 none
  | some t =>
    let k := t.shape.cluster
    if !(s.candidates p).any (fun u => u.id == x) then s.reserveFor c k none
    else if s.placedNow (quarterOf c) || !s.fitsTeam c t then s
    else
      match s.placeAt p (c / k * k) t with
      | none => s
      | some s1 => if ((s1.team? x).bind Team.core?).isSome then s1.reserveFor c k none else s1

/-- FORWARD_PROGRESS_SWAP (R416): the switch-out begins; once the victim's words and jobs have completed it leaves, and the incoming
candidate, for which the resources are reserved, takes its place. -/
def execForwardProgressSwap (core : Nat) (s : State) : Out :=
  .next (
    let p := s.polderOf (quarterOf core)
    match s.swapping core, (s.core core).clk.swapFor with
    | some v, x =>
      (match s.leaveTogether ((s.clusterOf v).map (fun u => u.id)) with
      | none => s
      | some s1 => match x with
        | some n => (s1.supply p).swapIn p core n
        | none => s1.supply p)
    | none, some n => (s.supply p).swapIn p core n
    | none, none =>
      let s1 := s.supply p
      if (s.core core).clk.progress < 4096 || !s1.waitsFor p core then s
      else
        match s1.victim core with
        | none => s
        | some v =>
          let ids := (s1.clusterOf v).map (fun u => u.id)
          match s1.incoming p core ids with
          | none => s
          | some x => ((ids.foldl State.startLeaving s1).reserveFor core x.shape.cluster (some x.id)).modCore core (fun k =>
              { k with clk := { k.clk with progress := 0, swapped := true } }))

/-! ## Node teams (R420, R421, R441) -/

/-- A team of a node with its oldest records. -/
def State.makeNodeTeam (s : State) (l : Launch) (n : Node) (count : Nat) : State :=
  match (List.range 256).find? (fun k => !n.slotsUsed.contains k) with
  | none => s
  | some k =>
    let r := s.fresh
    let recs := n.queue.take (min 1024 count)
    let base := n.shape.image.toNat + k * n.shape.imageBytes + 65536
    let v : LaunchVals := { l.vals with
      team := BitVec.ofNat 32 n.created, gridX := 0, gridY := 0, gridZ := 0, kdata := n.kdata, kconst := n.kconst,
      recBase := BitVec.ofNat 56 base, recNode := BitVec.ofNat 16 n.num, recCount := BitVec.ofNat 11 recs.length }
    let t := Team.make r.1 (some l.id) (some n.num) k n.shape v 0 0 (startPc n.relaunch n.shape) recs
    ({ r.2 with teams := r.2.teams ++ [t] }).modLaunch l.id (fun l => { l with nodes := l.nodes.map (fun (d : Node) =>
      if d.num == n.num then
        { d with queue := d.queue.drop recs.length, created := d.created + 1, slotsUsed := k :: d.slotsUsed }
      else d) })

/-- Whether a launch is idle (R420). -/
def State.idle (s : State) (l : Launch) : Bool :=
  l.made == l.total && !s.teams.any (fun t => t.launch == some l.id && !t.ended) &&
  !s.emits.any (fun e => match s.team? e.team with
    | some t => t.launch == some l.id
    | none => false)

/-- Whether teams may be created for a launch's nodes (R423, R483). -/
def State.nodesRun (s : State) (l : Launch) : Bool := !l.torn && l.state == .running && (s.polder l.polder).sluice == 0

/-- Records a node's new team would receive: THRESH, or fewer of an idle launch. -/
def State.nodeDue (s : State) (l : Launch) (n : Node) : Nat :=
  if !s.nodesRun l || 256 ≤ n.slotsUsed.length then 0
  else if n.thresh ≤ n.queue.length then n.thresh
  else if s.idle l then n.queue.length
  else 0

/-- Whether a node's oldest record has stood for TIMEOUT. -/
def State.nodeLate (s : State) (l : Launch) (n : Node) : Bool :=
  s.nodesRun l && decide (n.slotsUsed.length < 256) && n.timeout != 0 && (match n.queue.head? with
    | some r => decide (r.tick + 1024 * n.timeout ≤ s.tick.toNat)
    | none => false)

/-- Something done for a node of a launch. -/
def State.withNode (s : State) (launch node : Nat) (f : Launch → Node → State) : State :=
  match s.launch? launch with
  | none => s
  | some l => match l.nodes.find? (fun n => n.num == node) with
    | none => s
    | some n => f l n

/-- NODE_TEAM_CREATE (R420). -/
def execNodeTeamCreate (launch node : Nat) (s : State) : Out :=
  .next (s.withNode launch node (fun l n => if s.nodeDue l n = 0 then s else s.makeNodeTeam l n (s.nodeDue l n)))

/-- NODE_TIMEOUT (R420). -/
def execNodeTimeout (launch node : Nat) (s : State) : Out :=
  .next (s.withNode launch node (fun l n => if s.nodeLate l n then s.makeNodeTeam l n n.queue.length else s))

/-! ## Service kernels (R497) -/

/-- The shape of a service kernel's team: E is the least that R55 allows, its level 0 (log 26). -/
def serviceShape (code len producer matrix vector budget scratch : Nat) : Shape :=
  let a (n : Nat) : Nat := if n = 0 then 0 else budget
  let e (n : Nat) : Nat := if n = 0 then 0 else 64 - budget
  { groups := producer + matrix + vector, matrix := matrix, producer := producer, cluster := 1, scratch := scratch,
    budget := (a producer, a matrix, a vector), spill := (e producer, e matrix, e vector), code := BitVec.ofNat 56 code,
    codeLen := len, restarts := [], image := 0, level := 0, ctx := none, qclass := 0 }

/-- The values a service kernel's team finds: its section bases, and nothing of a launch. -/
def serviceVals (kdata kconst : Nat) : LaunchVals :=
  { team := 0, gridX := 1, gridY := 1, gridZ := 1, kdata := BitVec.ofNat 56 kdata, kconst := BitVec.ofNat 56 kconst, pfxHit := false,
    pfxNode := 0, pfxPos := 0, pfxDepth := 0, pfxTree := 0, pfxIn := 0, pfxLen := 0, largs := List.replicate 16 0, recBase := 0,
    recNode := 0, recCount := 0 }

/-- A service kernel placed on a core in a free slot. -/
def State.placeService (s : State) (core : Nat) (h : Shape) (v : LaunchVals) : State :=
  let r := s.fresh
  let t := Team.make r.1 none none 0 h v 2 0 0 []
  ({ r.2 with teams := r.2.teams ++ [t] }).switchIn r.1 core (s.freeSlot core)

/-- What R497 asks of a service kernel: sections at 64 KiB-aligned physical addresses, its team one that R236, R239 and R404
admit. -/
def State.admitsService (s : State) (core : Nat) (h : Shape) (v : LaunchVals) : Bool :=
  decide (core < 256) && decide (h.code.toNat % 65536 = 0 ∧ v.kdata.toNat % 65536 = 0 ∧ v.kconst.toNat % 65536 = 0) &&
  decide (1 ≤ h.groups ∧ h.producer ≤ 1 ∧ h.matrix ≤ 16 ∧ h.scratch ≤ 384) &&
  h.roles.all (fun r => decide (h.aOf r % 8 = 0 ∧ 8 ≤ h.aOf r ∧ h.aOf r ≤ 512)) && !(s.core core).regs.asleep && s.fits core h

/-- SERVICE_KERNEL (R497). -/
def execServiceKernel (core code len kdata kconst producer matrix vector budget scratch : Nat) (s : State) : Out :=
  .next (
    let h := serviceShape code len producer matrix vector budget scratch
    let v := serviceVals kdata kconst
    if s.admitsService core h v then s.placeService core h v else s)

end Sys2Proof.Machine
end

