-- ==== Sys2Proof/Machine/SeqWords.lean ====
section
/-! DEFINITION. Major SEQ and the engines' steps (17 R451, R460 to R475). A word that raises ld enters its engine at issue
with its operands; ENGINE_STEP performs it. -/
namespace Sys2Proof.Machine

/-! ## Issue (R465, R467) -/

/-- An engine operation of a word; an acquire (order 1) holds the group's later accesses until its step (11 R341). Its addresses lie where no lane's address does: the engine's own accesses are ordered by
`MemOp.engineRegion?`. -/
def Cx.seqOp (c : Cx) (i : Instr) (id : Nat) (scalar : Bool) (sel : Lanes) (dst a b order : Nat) (data data2 : Nat → Nat) : MemOp :=
  { id := id, team := c.ref.team, group := c.ref.g, kind := .engine scalar, width := if scalar then 64 else 32, sel := sel,
    slices := c.slices, locs := [], vas := List.replicate 32 (2 ^ 60), data := laneList.map (fun l => BitVec.ofNat 256 (data l)),
    data2 := laneList.map (fun l => BitVec.ofNat 64 (data2 l)), dst := dst, vals := List.replicate 32 0, served := 0,
    written := 0, parts := [], scope := 4, order := order, bypass := true, byLd := true, ctx := c.team.shape.ctx, instr := i, pc := c.bundle,
    sa := c.grp.s a, sb := c.grp.s b, stuffed := c.stuffed, page := none }

/-- A word enters its engine. -/
def seqEnter (c : Cx) (i : Instr) (s : State) (mk : Nat → MemOp) : State :=
  let r := s.fresh
  retire c i { r.2 with ops := r.2.ops ++ [mk r.1] }

/-- A tree word of order 1 (an acquire) or 2 (a release), held as an access of its group is, and where it releases until every earlier access is
performed. -/
def treeWord (i : Instr) (d a b order : Nat) (s : State) : Out :=
  word i s (fun c s =>
    if accessHeld s c true false order then s
    else seqEnter c i s (fun id => c.seqOp i id true 1 d a b (order % 2) (fun _ => 0) (fun _ => 0)))

/-- SNPUT (R468). -/
def execSnput (d a b : BitVec 6) (s : State) : Out := treeWord (.snput d a b) (d.toNat % 32) (a.toNat % 32) (b.toNat % 32) 2 s
/-- SNFIND (R469). -/
def execSnfind (d a b : BitVec 6) (s : State) : Out := treeWord (.snfind d a b) (d.toNat % 32) (a.toNat % 32) (b.toNat % 32) 1 s
/-- SNGET (R470): the old value of sD names the destination. -/
def execSnget (d a : BitVec 6) (s : State) : Out := treeWord (.snget d a) (d.toNat % 32) (a.toNat % 32) (d.toNat % 32) 1 s

/-- KVMAP (R472). -/
def execKvmap (d a b : BitVec 6) (p : BitVec 3) (s : State) : Out :=
  word (.kvmap d a b p) s (fun c s =>
    let sel := c.sel p.toNat
    if accessHeld s c true false 0 then s
    else if sel = 0 then retire c (.kvmap d a b p) s
    else seqEnter c (.kvmap d a b p) s (fun id => c.seqOp (.kvmap d a b p) id false sel (c.grp.ctl.base + d.toNat) 0 0 1
      (fun l => (c.grp.v64 a.toNat l).toNat) (fun l => (c.grp.v b.toNat l).toNat)))

/-- KVAPP (R473). -/
def execKvapp (d a b : BitVec 6) (p : BitVec 3) (s : State) : Out :=
  word (.kvapp d a b p) s (fun c s =>
    let sel := c.sel p.toNat
    if accessHeld s c true false 0 then s
    else if sel = 0 then retire c (.kvapp d a b p) s
    else seqEnter c (.kvapp d a b p) s (fun id => c.seqOp (.kvapp d a b p) id false sel (c.grp.ctl.base + d.toNat) 0 0 0
      (fun l => c.grp.vN a.toNat l 8) (fun l => (c.grp.v b.toNat l).toNat)))

/-- KVCOMMIT (R474): a release of every earlier access of the group, its appends included. -/
def execKvcommit (a b : BitVec 6) (s : State) : Out :=
  word (.kvcommit a b) s (fun c s =>
    if accessHeld s c true false 2 then s
    else seqEnter c (.kvcommit a b) s (fun id => c.seqOp (.kvcommit a b) id true 1 (b.toNat % 32) (a.toNat % 32) (b.toNat % 32) 0
      (fun _ => 0) (fun _ => 0)))

/-- SNREL sA (R452, R471): the group waits until the engine has done it. -/
def execSnrel (a : BitVec 6) (s : State) : Out :=
  word (.snrel a) s (fun c s =>
    let p := c.polder s
    if !s.engOn p then retire c (.snrel a) s
    else
      let ref := (c.grp.s (a.toNat % 32)).toNat
      let n := ref % 2 ^ 22
      if ref / 2 ^ 30 = 0 ∧ c.team.holds.contains n then
        retire c (.snrel a) ((s.unholdNode p n).modTeam c.ref.team (fun t => { t with holds := t.holds.erase n }))
      else retire c (.snrel a) (s.modEng p (fun e => { e with badRel := satAdd e.badRel 1 })))

/-- KVFREE of a sequence of a store (R475). -/
def State.freeSeq (s : State) (p k n : Nat) : State :=
  match (s.store p k).seq? n with
  | none => s
  | some q =>
    let pages := q.heads.flatMap (fun h => h.entries.map (fun e => e.2.1))
    pages.foldl (fun s pg => s.dropPage p k pg) (s.modStore p k (fun t => { t with seqs := t.seqs.filter (fun x => x.num != n) }))

/-- KVFREE sA (R475): the group waits until the engine has done it. -/
def execKvfree (a : BitVec 6) (s : State) : Out :=
  word (.kvfree a) s (fun c s =>
    let p := c.polder s
    let h := (c.grp.s (a.toNat % 32)).toNat
    if s.engOn p && (s.store p (h / 2 ^ 28)).on then retire c (.kvfree a) (s.freeSeq p (h / 2 ^ 28) (h % 2 ^ 28))
    else retire c (.kvfree a) s)

/-! ## Results and failures of a step (R466, R467) -/

/-- A result for every selected lane. -/
def State.engDone (s : State) (o : MemOp) (v : Nat) : State := s.serveVals o.id o.sel ((laneNums o.sel).map (fun l => (l, v)))

/-- A tree result (R466). -/
def treeResult (status depth node : Nat) : Nat := status * 2 ^ 60 + depth * 2 ^ 32 + node

/-- A node reference. -/
def nodeRef (ti n : Nat) : Nat := n + 2 ^ 22 * ti

/-- A word halts its team, or ends EXEC with FAULT, and leaves its engine. -/
def State.engHalt (s : State) (o : MemOp) (code va : Nat) : State :=
  let s1 := { s with ops := s.ops.filter (fun x => x.id != o.id) }
  match o.stuffed with
  | some x => s1.endExec x 3 code true
  | none => s1.halt o.ref code o.pc (BitVec.ofNat 56 va)

/-- Whether an operation's accesses are at app level. -/
def MemOp.appIn (o : MemOp) (t : Team) : Bool := (o.stuffed.map Stuffed.level).getD t.priv == 0

/-- What an access of a tree word that did not go through makes of the word (R467); one that is held waits, the tiles that made room for it having
left (09 R304). -/
def State.engFail (s : State) (t : Team) (core : Nat) (o : MemOp) : Direct → Option State
  | .wait k va => some ((s.modOp o.id (fun o => { o with page := some va })).faultFor t core
      (core, if o.group = 32 then 128 else o.group) va k (.op o.id))
  | .deny va => some (s.engHalt o 0x18 va)
  | .bad code oper _ => some ((s.noteBad core o.ctx (o.appIn t) o.ref code oper).engDone o (treeResult 5 0 0))
  | _ => some s

/-- n bytes read by a tree word. -/
def State.engVRead (s : State) (t : Team) (core : Nat) (o : MemOp) (va n : Nat) : State × Direct :=
  s.vRead core o.ctx (o.appIn t) .bypassing va n

/-! ## The tree words -/

/-- A payload of a PAGES tree (R464). The header holds POS in 8 bytes, FIRST and COUNT in 4 each (log 22). -/
def Store.payload (t : Store) (q : Seq) (p0 : Nat) : Nat × Nat :=
  let first := p0 / 16
  let count := (q.committed + 15) / 16 - first
  let words := (List.range t.layers).flatMap (fun layer => (List.range t.heads).flatMap (fun hd =>
    (List.range count).map (fun i => let e := (q.head layer hd).entry (first + i); e.1 + 2 ^ 24 * e.2)))
  (16 + 4 * words.length,
   q.committed + 2 ^ 64 * first + 2 ^ 96 * count + 2 ^ 128 * words.foldr (fun w acc => w + 2 ^ 32 * acc) 0)

/-- The words of a node's page lists: POS, and (layer, head, page index, page, LIMIT). -/
def State.pageLists (s : State) (p : Nat) (t : Tree) (n : NodeVal) : State × Nat × List (Nat × Nat × Nat × Nat × Nat) :=
  let st := s.store p t.store
  let r := s.engRead p (s.slotKey p t.keyslot) n.payload n.psize
  let v := r.2
  let first := natBytes v 8 4
  let count := min (natBytes v 12 4) (n.psize / 4)
  (r.1, natBytes v 0 8, (List.range (st.layers * st.heads * count)).map (fun k =>
    let w := natBytes v (16 + 4 * k) 4
    (k / count / st.heads, k / count % st.heads, first + k % count, w % 2 ^ 24, w / 2 ^ 24 % 32)))

/-- A node evicted (R454). -/
def State.evictNode (s : State) (p : Nat) (t : Tree) (id : Nat) : State :=
  let r := s.node p id
  let n := r.2
  let ls := if n.pages then r.1.pageLists p t n else (r.1, 0, [])
  let lists := ls.2.2
  let s1 := ls.1.setNode p id { n with live := false }
  let s2 := if n.parent = 0 then s1 else s1.modNode p n.parent (fun x => { x with children := x.children - 1 })
  (lists.foldl (fun s e => s.dropPage p t.store e.2.2.2.1) s2).modEng p (fun e => { e with evict := satAdd e.evict 1 })

/-- The node id an SNPUT uses (R454, R468): the lowest free one, else that of the evictable node least lately used. -/
def State.nodeFor (s : State) (p : Nat) (t : Tree) (parent : Nat) : State × Option Nat :=
  match findNode (fun id s => let r := s.node p id; (r.1, !r.2.live)) t.ids s with
  | (s1, some id) => (s1, some id)
  | (s1, none) =>
    let best := t.ids.foldl (fun (acc : State × Option (Nat × Nat)) id =>
      let r := acc.1.node p id
      if r.2.holders = 0 ∧ r.2.children = 0 ∧ id ≠ parent then
        (match acc.2 with
        | some (v, _) => if r.2.lastUse < v then (r.1, some (r.2.lastUse, id)) else (r.1, acc.2)
        | none => (r.1, some (r.2.lastUse, id)))
      else (r.1, acc.2)) (s1, (none : Option (Nat × Nat)))
    match best.2 with
    | some (_, id) => (best.1.evictNode p t id, some id)
    | none => (best.1, none)

/-- A team takes a hold. -/
def State.teamHold (s : State) (p team n : Nat) : State :=
  (s.holdNode p n).modTeam team (fun t => { t with holds := t.holds ++ [n] })

/-- The step of an SNPUT whose reads are done (R468). -/
def State.snputStep (s0 : State) (p ti : Nat) (t : Tree) (team parent seg psize pay : Nat) (shares : List Nat) : State × Nat :=
  let r := if parent = 0 then (s0, nodeVal 0) else s0.node p parent
  let s := r.1
  let n := r.2
  if parent ≠ 0 ∧ (!n.live || n.tree != ti) then (s, treeResult 3 0 0)
  else
    let k0 := if parent = 0 then t.start else ⟨n.hash, BitVec.ofNat 32 n.crc ^^^ 0xFFFFFFFF, n.depth⟩
    let k := t.segment k0 seg
    match s.childMatch p ti t parent k seg with
    | (s, some m) =>
      (((s.modNode p m (fun x => { x with lastUse := s.tick.toNat })).teamHold p team m).modEng p (fun e =>
        { e with dedup := satAdd e.dedup 1 }), treeResult 1 k.d (nodeRef ti m))
    | (s, none) =>
      match s.nodeFor p t parent with
      | (s1, none) => (s1, treeResult 4 0 0)
      | (s1, some id) =>
        let key := s1.slotKey p t.keyslot
        let s2 := if t.full then s1.engWrite p key (t.slotPa id) t.segBytes seg else s1
        let s3 := if psize = 0 then s2 else s2.engWrite p key (t.slotPa id + t.payOff) psize pay
        let s4 := s3.setNode p id
          { parent := parent, tree := ti, depth := k.d, hash := k.h, crc := (k.c ^^^ 0xFFFFFFFF).toNat,
            payload := t.slotPa id + t.payOff, psize := psize, holders := 0, children := 0, lastUse := s.tick.toNat, live := true,
            pages := t.pages }
        let s5 := if parent = 0 then s4 else s4.modNode p parent (fun x => { x with children := x.children + 1 })
        ((shares.foldl (fun s pg => s.sharePage p t.store pg) s5).teamHold p team id, treeResult 0 k.d (nodeRef ti id))

/-- SNPUT in the engine (R467, R468): none while it waits. -/
def State.doSnput (s : State) (p core : Nat) (tm : Team) (o : MemOp) : Option State :=
  let ref := o.sb.toNat
  let ti := ref / 2 ^ 22 % 256
  let t := s.tree p ti
  if !s.engOn p then some (s.engDone o (treeResult 2 0 0))
  else if ref / 2 ^ 30 ≠ 0 then some (s.engDone o (treeResult 5 0 0))
  else if !t.on then some (s.engDone o (treeResult 2 0 0))
  else if o.sa.toNat % 64 ≠ 0 then some (s.engHalt o 0x18 o.sa.toNat)
  else
    match s.engVRead tm core o o.sa.toNat 64 with
    | (s0, .ok d) =>
      let seg := natBytes d 0 8
      let pay := natBytes d 8 8
      let psize := natBytes d 16 4
      let parent := ref % 2 ^ 22
      let pnode := if t.pages ∧ parent ≠ 0 then s0.node p parent else (s0, nodeVal 0)
      let lists := if t.pages ∧ parent ≠ 0 ∧ pnode.2.live ∧ pnode.2.tree = ti then pnode.1.pageLists p t pnode.2 else (pnode.1, 0, [])
      let s1 := lists.1
      let p0 := lists.2.1
      let q := (s1.store p t.store).seq? (pay % 2 ^ 28)
      let made := match q with
        | some q => (s1.store p t.store).payload q p0
        | none => (0, 0)
      let size := if t.pages then made.1 else psize
      if natBytes d 20 44 ≠ 0 ∨ 2 ^ 56 < seg + t.segBytes ∨ (!t.pages ∧ 2 ^ 56 < pay + psize) ∨ (t.pages ∧ psize ≠ 0) ∨
          (t.pages ∧ (pay / 2 ^ 28 % 16 ≠ t.store ∨ q.isNone ∨ (s1.store p t.store).on = false)) then
        some (s1.engDone o (treeResult 5 0 0))
      else if min t.space (2 ^ 20) < size then some (s1.engDone o (treeResult 7 0 0))
      else if 32 ≤ tm.holds.length then some (s1.engDone o (treeResult 8 0 0))
      else
        match s1.engVRead tm core o seg t.segBytes with
        | (s2, .ok sv) =>
          (match (if t.pages then (s2, Direct.ok made.2) else s2.engVRead tm core o pay psize) with
          | (s3, .ok pv) =>
            let s4 := s3.release (quarterOf core) 4 (s3.polderQuarters (quarterOf core))
            let shares := if t.pages then (List.range ((made.1 - 16) / 4)).map (fun i => natBytes pv (16 + 4 * i) 4 % 2 ^ 24) else []
            let r := s4.snputStep p ti t tm.id parent sv size pv shares
            some (r.1.engDone o r.2)
          | (s3, x) => s3.engFail tm core o x)
        | (s2, x) => s2.engFail tm core o x
    | (s1, x) => s1.engFail tm core o x

/-- SNFIND in the engine (R455, R467, R469). -/
def State.doSnfind (s : State) (p core : Nat) (tm : Team) (o : MemOp) : Option State :=
  let ti := o.sb.toNat % 256
  let len := (o.sb.extractLsb' 16 48).toNat
  let t := s.tree p ti
  if !s.engOn p then some (s.engDone o (treeResult 2 0 0))
  else if o.sb.extractLsb' 8 8 ≠ 0 then some (s.engDone o (treeResult 5 0 0))
  else if !t.on then some (s.engDone o (treeResult 2 0 0))
  else
    match s.engVRead tm core o o.sa.toNat (len * t.w) with
    | (s1, .ok v) =>
      let s2 := s1.acquire (quarterOf core) 4 (s1.polderQuarters (quarterOf core))
      let segs := (List.range (len / t.g)).map (fun i => natBytes v (i * t.segBytes) t.segBytes)
      (match State.walkTree p ti t segs 0 t.start s2 with
      | (_, 0, _) => some (s2.engDone o (treeResult 9 0 0))
      | (s3, node, depth) =>
        if 32 ≤ tm.holds.length then some (s2.engDone o (treeResult 8 0 0))
        else some ((s3.teamHold p tm.id node).engDone o (treeResult 1 depth (nodeRef ti node))))
    | (s1, x) => s1.engFail tm core o x

/-- The lists a PAGES node and its ancestors give (R464): for each place the deepest wins. -/
def State.installLists (p : Nat) (t : Tree) : Nat → Nat → State → State × List (Nat × Nat × Nat × Nat × Nat)
  | 0, _, s => (s, [])
  | f + 1, id, s =>
    if id = 0 then (s, [])
    else
      let n := s.node p id
      let mine := n.1.pageLists p t n.2
      let up := State.installLists p t f n.2.parent mine.1
      (up.1, mine.2.2 ++ up.2.filter (fun e => !mine.2.2.any (fun m => m.2.2.1 == e.2.2.1)))

/-- A sequence installed from a PAGES node (R464, R470). -/
def State.install (s0 : State) (p : Nat) (t : Tree) (id seq : Nat) : State :=
  let n := s0.node p id
  let head := n.1.pageLists p t n.2
  let pos := head.2.1
  let all := State.installLists p t (t.ncount + 1) id head.1
  let s := all.1
  let st := s.store p t.store
  let ls := all.2.filter (fun e => e.2.2.2.1 != 0)
  let heads := (List.range st.layers).flatMap (fun layer => (List.range st.heads).map (fun hd =>
    ({ layer := layer, head := hd, next := pos,
       entries := (ls.filter (fun e => e.1 == layer && e.2.1 == hd)).map (fun e => (e.2.2.1, e.2.2.2.1, e.2.2.2.2)) } : HeadRec)))
  let q : Seq := { num := seq, committed := pos, writer := none, heads := heads }
  ls.foldl (fun s e => s.sharePage p t.store e.2.2.2.1)
    (s.modStore p t.store (fun st => { st with seqs := q :: st.seqs.filter (fun x => x.num != seq) }))

/-- Whether a sequence may take an install (R464). -/
def Store.installable (st : Store) (seq : Nat) : Bool :=
  st.on && decide (seq < st.maxSeq) && (match st.seq? seq with
    | none => true
    | some q => q.committed == 0 && q.heads.all (fun h => h.next == 0))

/-- SNGET in the engine (R467, R470). -/
def State.doSnget (s : State) (p core : Nat) (tm : Team) (o : MemOp) : Option State :=
  let ref := o.sa.toNat
  let ti := ref / 2 ^ 22 % 256
  let id := ref % 2 ^ 22
  let t := s.tree p ti
  if !s.engOn p then some (s.engDone o (treeResult 2 0 0))
  else if ref / 2 ^ 30 ≠ 0 then some (s.engDone o (treeResult 5 0 0))
  else if !t.on then some (s.engDone o (treeResult 2 0 0))
  else if !t.pages ∧ o.sb.toNat % 64 ≠ 0 then some (s.engHalt o 0x18 o.sb.toNat)
  else
    let found := if id = 0 then (s, nodeVal 0) else s.node p id
    let n := found.2
    let s0 := found.1.acquire (quarterOf core) 4 (found.1.polderQuarters (quarterOf core))
    if id = 0 ∨ !n.live ∨ n.tree ≠ ti then some (s0.engDone o (treeResult 6 0 0)) else
    let used (s : State) : State := s.modNode p id (fun x => { x with lastUse := s.tick.toNat })
    if t.pages then
      let h := o.sb.toNat % 2 ^ 32
      if h / 2 ^ 28 ≠ t.store ∨ !(s.store p t.store).installable (h % 2 ^ 28) then some (s0.engDone o (treeResult 5 0 0))
      else some ((used (s0.install p t id (h % 2 ^ 28))).engDone o (treeResult 1 n.depth 0))
    else
      let pay := s0.engRead p (s0.slotKey p t.keyslot) n.payload (min n.psize (2 ^ 20))
      match pay.1.vWrite core o.ctx (o.appIn tm) .bypassing o.sb.toNat (min n.psize (2 ^ 20)) pay.2 with
      | (s1, .ok _) => some ((used s1).engDone o (treeResult 1 n.depth (n.psize % 2 ^ 21)))
      | (s1, .bad code oper _) =>
        some ((used (s1.noteBad core o.ctx (o.appIn tm) o.ref code oper)).engDone o (treeResult 1 n.depth (n.psize % 2 ^ 21)))
      | (s1, x) => s1.engFail tm core o x

/-! ## The sequence store -/

/-- Layer and head of a word that must name one (R472, R473). -/
def layerHead (st : Store) (w : Nat) : Option (Nat × Nat) :=
  if w / 65536 = 0 ∧ w / 256 < st.layers ∧ w % 256 < st.heads then some (w / 256, w % 256) else none

/-- The status of a position, and its page where it is OK (R459). -/
def State.kvStatus (s : State) (p handle lh pos : Nat) : Nat × Nat :=
  let st := s.store p (handle / 2 ^ 28 % 16)
  match s.engOn p && st.on, layerHead st lh, st.seq? (handle % 2 ^ 28) with
  | true, some (layer, hd), some q =>
    if st.maxSeq ≤ handle % 2 ^ 28 then (1, 0)
    else
      let h := q.head layer hd
      let e := h.entry (pos / 16)
      if h.next ≤ pos ∨ st.maxPos ≤ pos then (4, 0)
      else if q.committed ≤ pos then (2, 0)
      else if e.2 ≤ pos % 16 then (3, 0)
      else (0, e.1)
  | _, _, _ => (1, 0)

/-- KVMAP in the engine (R472). -/
def State.doKvmap (s : State) (p core : Nat) (o : MemOp) : State :=
  let scope (h : Nat) : Nat := if (s.store p (h / 2 ^ 28 % 16)).pool then 8 else 4
  let s1 := (laneNums o.sel).foldl (fun s l => s.acquire (quarterOf core) (scope (o.arg l % 2 ^ 32)) (s.polderQuarters (quarterOf core))) s
  s1.serveVals o.id o.sel ((laneNums o.sel).map (fun l =>
    let pos := o.arg2 l
    let r := s.kvStatus p (o.arg l % 2 ^ 32) (o.arg l / 2 ^ 32) pos
    (l, r.1 * 2 ^ 28 + pos % 16 * 2 ^ 24 + r.2)))

/-- The stored form of a code under a scale (R460): the code, and whether it fits: a magnitude that rounds above 448 becomes a NaN here, as HMOD.inf
makes it. -/
def storedCode (c x scale : Nat) (plain : Bool) : Nat × Bool :=
  match fmtE4m3.decode c with
  | .fin neg m e =>
    if plain || x == scale then (c, true)
    else
      let r := roundNum fmtE4m3 { Mods.plain with inf := true } (.fin neg m (e + (x : Int) - scale)) 0
      (r, fmtE4m3.decode r != .nan)
  | _ => (0x7F, true)

/-- K or V code j of a quarter from the captured registers (R473). -/
def kvCode (o : MemOp) (q : Nat) (v : Bool) (j : Nat) : Nat :=
  let l := 8 * q + j / 16
  if o.sel.getLsbD l then natBytes (o.arg l) ((if v then 16 else 0) + j % 16) 1 else 0

/-- The tier of a store's pages and scales, and the leaf of one of their addresses (R456). -/
def Store.tier (st : Store) : Nat := if st.pool then 1 else 0
def Store.leafAt (st : Store) (pa : Nat) : DWord × DWord := (BitVec.ofNat 64 (pa / 4096 * 4096 + 0x11 + 64 * st.tier), 0)

/-- The tiles of an append's pieces touched in order, in the group's spiral under the store's key slot (R460); false where one is held, what
make_room has made leave having left (09 R304), which counts as a request that waits (09 R327). -/
def State.touchKvs (core : Nat) (o : MemOp) (p : Nat) (st : Store) : List Nat → State → State × Bool
  | [], s => (s, true)
  | pa :: rest, s =>
    let q := quarterOf core
    match s.reach q pa st.tier with
    | .home _ =>
      if s.unitBehind core .touching then (s.noteUnitHeld q, false)
      else
        (match s.directTouchAs q (pa / 4096) o.ctx (s.slotKey p st.keyslot) (st.leafAt pa) .touching with
        | (s1, false) => (s1.noteUnitHeld q, false)
        | (s1, true) => State.touchKvs core o p st rest s1)
    | _ => State.touchKvs core o p st rest s

/-- One piece of an append written where its tile has been touched (R460). -/
def State.storeKv (s : State) (core : Nat) (o : MemOp) (p : Nat) (st : Store) (pa n v : Nat) : State :=
  let q := quarterOf core
  match s.reach q pa st.tier with
  | .drop => (s.countDrop q).deferFault o.ref 0x44 (BitVec.ofNat 56 pa)
  | .region r => s.deferFault o.ref 0x45 (BitVec.ofNat 56 r)
  | .home _ =>
    let tile := pa / 4096
    let inCopy := s.inCopy q tile st.tier
    let s1 := if inCopy then s else s.flushWb tile
    (s1.writeAt q inCopy (s.slotKey p st.keyslot) pa n v).wroteBytes q inCopy tile (byteMask (pa % 4096) n)

/-- Bytes packed into one number, the first lowest. -/
def packBytes (bs : List Nat) : Nat := bs.foldr (fun b acc => b % 256 + 256 * acc) 0

/-- The lowest free page of a store (R456, log 31: which free page is taken is open). -/
def Store.freePage (st : Store) : Option Nat :=
  ((List.range st.npages).drop 1).find? (fun k => (st.page k).shares == 0)

/-- One quarter's append (R460): none while a store of it is held, with nothing of the append done but what its touches did. The answer is status
and position. -/
def State.append (s : State) (core p : Nat) (o : MemOp) (qn k seq layer hd w : Nat) : State × Option (Nat × Nat) :=
  let st := s.store p k
  let x := w % 256
  let prov := w / 256 % 2 == 1
  let nextOf := match st.seq? seq with
    | some q => (q.head layer hd).next
    | none => 0
  if w / 512 ≠ 0 ∨ x = 255 then (s, some (8, nextOf))
  else
    let opened (s : State) : State := if (st.seq? seq).isSome then s
      else s.modStore p k (fun t => { t with seqs := { num := seq, committed := 0, writer := none, heads := [] } :: t.seqs })
    let s1 := opened s
    match (s1.store p k).seq? seq with
    | none => (s, some (1, 0))
    | some q =>
      let h := q.head layer hd
      if q.heads.any (fun h => decide (q.committed < h.next)) && q.writer != some o.team then (s1, some (7, h.next))
      else if st.maxPos ≤ h.next then (s1, some (4, h.next))
      else
        let codes := (List.range 128).map (kvCode o qn false) ++ (List.range 128).map (kvCode o qn true)
        let e0 := h.entry (h.next / 16)
        let r0 := st.page e0.1
        let fits := codes.all (fun c => (storedCode c x r0.scale (r0.prov || prov)).2)
        let close := e0.1 ≠ 0 ∧ (e0.2 ≠ r0.filled ∨ e0.2 = 16 ∨ fits = false)
        let status := if close ∧ e0.2 < 16 then 5 else 0
        let pos := if close then 16 * (h.next / 16 + 1) else h.next
        if st.maxPos ≤ pos then (s1, some (4, pos))
        else
          let e := h.entry (pos / 16)
          match (if e.1 = 0 then st.freePage else some e.1) with
          | none => (s1, some (6, pos))
          | some pg =>
            let r := st.page pg
            let fresh := e.1 = 0
            let rescale := fresh ∨ (r.prov ∧ !prov)
            let scale := if rescale then x else r.scale
            let nowProv := if fresh then prov else r.prov && prov
            let plain := if fresh then true else r.prov || prov
            let stored := codes.map (fun c => (storedCode c x scale plain).1)
            let base := st.poolPa + 4096 * pg
            let slot := pos % 16
            let run (lo n : Nat) : Nat := packBytes ((stored.drop lo).take n)
            let parts := (if rescale then [(st.scalePa + pg, 1, x)] else []) ++
              (List.range 4).map (fun b => (base + 512 * b + 32 * slot, 32, run (32 * b) 32)) ++
              [(base + 2048 + 128 * slot, 128, run 128 128)]
            match State.touchKvs core o p st (parts.map (fun x => x.1)) s with
            | (s2, false) => (s2, none)
            | (s2, true) =>
              ((parts.foldl (fun (s : State) x => s.storeKv core o p st x.1 x.2.1 x.2.2) (opened s2)).modStore p k (fun t =>
                (t.modPage pg (fun y => { y with
                  shares := if fresh then 1 else y.shares, prov := nowProv, scale := scale,
                  filled := (if fresh then 0 else y.filled) + 1 })).modSeq seq (fun q =>
                    { q.modHead layer hd (fun h =>
                        { h.setEntry (pos / 16) pg ((if fresh then 0 else e.2) + 1) with next := pos + 1 }) with
                      writer := some o.team })), some (status, pos))

/-- Quarter q of a KVAPP (R473): false while it is held. The position of an UNMAPPED quarter is a free value (log 22). -/
def State.kvQuarter (s : State) (p core : Nat) (o : MemOp) (q : Nat) : State × Bool :=
  if !o.sel.getLsbD (8 * q) || o.served.getLsbD (8 * q) then (s, true)
  else
    let handle := o.arg2 (8 * q)
    let k := handle / 2 ^ 28 % 16
    let seq := handle % 2 ^ 28
    let st := s.store p k
    let lanes : Lanes := o.sel &&& (0xFF#32 <<< (8 * q))
    let give (s : State) (status pos : Nat) : State :=
      s.serveVals o.id lanes ((laneNums lanes).map (fun l => (l, status * 2 ^ 28 + pos)))
    match s.engOn p && st.on && decide (seq < st.maxSeq), layerHead st (o.arg2 (8 * q + 1)) with
    | true, some (layer, hd) =>
      (match s.append core p o q k seq layer hd (o.arg2 (8 * q + 2)) with
      | (s1, none) => (s1, false)
      | (s1, some (status, pos)) => (give s1 status pos, true))
    | _, _ => let r := s.draw; (give r.2 1 ((Config.rawWord r.1).toNat % 2 ^ 28), true)

/-- KVAPP in the engine (R473): its quarters in ascending order, as consecutive steps, up to the first whose stores are held. Lanes of a quarter that
does not take part complete with no value. -/
def State.doKvapp (s : State) (p core : Nat) (o : MemOp) : State :=
  let r := (List.range 4).foldl (fun (acc : State × Bool) q => if acc.2 then acc.1.kvQuarter p core o q else acc) (s, true)
  if !r.2 then r.1
  else
    -- a quarter whose lane 8q is not selected writes no destination
    let idle : Lanes := (List.range 4).foldl (fun m q => if o.sel.getLsbD (8 * q) then m else m ||| (0xFF#32 <<< (8 * q))) 0
    r.1.modOp o.id (fun o => { o with sel := o.sel &&& ~~~idle })

/-- KVCOMMIT in the engine (R461, R474). -/
def State.doKvcommit (s : State) (p core : Nat) (o : MemOp) : State :=
  let h := o.sa.toNat % 2 ^ 32
  let k := h / 2 ^ 28
  let seq := h % 2 ^ 28
  let st := s.store p k
  let n := o.sb.toNat
  let s1 := s.release (quarterOf core) (if st.pool then 8 else 4) (s.polderQuarters (quarterOf core))
  match s.engOn p && st.on && decide (seq < st.maxSeq), st.seq? seq with
  | true, some q =>
    let nexts := (List.range st.layers).flatMap (fun layer => (List.range st.heads).map (fun hd => (q.head layer hd).next))
    if q.committed ≤ n ∧ nexts.all (fun x => decide (n ≤ x)) then
      -- a head with no record of its own stands where the sequence was committed
      let fixed : Seq := { q with
        committed := n, heads := (List.range st.layers).flatMap (fun layer => (List.range st.heads).map (fun hd => q.head layer hd)),
        writer := if nexts.any (fun x => decide (n < x)) then q.writer else none }
      (s1.modStore p k (fun t => t.modSeq seq (fun _ => fixed))).engDone o n
    else s1.engDone o q.committed
  | _, _ => s1.engDone o (2 ^ 64 - 1)

/-! ## ENGINE_STEP -/

/-- Whether an engine's word waits for an earlier one of its group: their bytes meet, one of the two writing (11 R336). -/
def State.behindSeq (s : State) (core : Nat) (t : Team) (o : MemOp) : Bool :=
  match o.engineRegion? with
  | none => false
  | some g =>
    (((s.groupOps o.ref).filter (fun x => x.kind.isEngine && decide (x.id < o.id))).filterMap MemOp.engineRegion?).any (fun e =>
      (g.2.2 || e.2.2) && (s.spanOf core o.ctx (o.appIn t) [(g.1, g.2.1)]).meets (s.spanOf core o.ctx (o.appIn t) [(e.1, e.2.1)]))

/-- Whether a KVAPP of another word has appended some of its quarters and not yet all: its steps are consecutive (R473). -/
def State.appending (s : State) (p : Nat) (o : MemOp) : Bool :=
  s.ops.any (fun x => x.id != o.id && x.kind.isEngine && x.served != 0 && (x.sel &&& ~~~x.served) != 0 &&
    (match (s.team? x.team).bind Team.core? with
    | some c => s.polderOf (quarterOf c) == p
    | none => false))

/-- An operation of an engine tried: none where it waits (R451, R467). -/
def State.engTry (s : State) (p : Nat) (o : MemOp) : Option State :=
  match s.team? o.team with
  | none => some { s with ops := s.ops.filter (fun x => x.id != o.id) }
  | some t =>
    match t.core? with
    | none => none
    | some core =>
      if s.polderOf (quarterOf core) ≠ p ∨ (o.sel &&& ~~~o.served) = 0 ∨ o.page.isSome ∨
          -- accesses of the group before the word come first (R336)
          (s.groupOps o.ref).any (fun x => !x.kind.isEngine && decide (x.id < o.id) && (x.sel &&& ~~~x.served) != 0) ∨
          (s.mxAccesses o.ref).any (fun a => decide (a.entry.id < o.id)) ∨ s.behindSeq core t o ∨ s.appending p o then none
      else
        match o.instr with
        | .snput .. => s.doSnput p core t o
        | .snfind .. => s.doSnfind p core t o
        | .snget .. => s.doSnget p core t o
        | .kvmap .. => some (s.doKvmap p core o)
        | .kvapp .. => some (s.doKvapp p core o)
        | .kvcommit .. => some (s.doKvcommit p core o)
        | _ => none

/-- ENGINE_STEP (R451): one operation of a polder's engines; it waits while memory of the engine's is not ready (21 R512), and what the engine's own
accesses do not reach is recorded for its group (19 R480, R492). -/
def execEngineStep (polder op : Nat) (s : State) : Out :=
  .next (match s.op? op with
    | some o =>
      if o.kind.isEngine then (((s.engStart polder).engTry polder o).bind (fun s1 => s1.engEnd polder (some o.ref))).getD s |>.sweep else s
    | none => s)

end Sys2Proof.Machine
end

