-- ==== Sys2Proof/Machine/EvContext.lean ====
section
/-! DEFINITION. Contexts (16 R424 to R426), the answers of the driver to faults (R435 to R437), and tear-down (15 R423, 16 R444).
Commands that take time are events applied again until BUSY clears. -/
namespace Sys2Proof.Machine

/-! ## Commands (R426) -/

/-- The registers of CTXCMD while a command runs and when it ends. -/
def State.cmdStart (s : State) (p op x : Nat) : State :=
  s.modPolder p (fun d => { d with cmdBusy := true, cmdOp := BitVec.ofNat 3 op, cmdCtx := BitVec.ofNat 6 x })
def State.cmdEnd (s : State) (p op x status : Nat) : State :=
  s.modPolder p (fun d => { d with
    cmdBusy := false, cmdOp := BitVec.ofNat 3 op, cmdCtx := BitVec.ofNat 6 x, cmdStatus := BitVec.ofNat 8 status })

/-- Whether a command of a polder runs, and whether it is this one. -/
def State.cmdRuns (s : State) (p op x : Nat) : Bool :=
  let d := s.polder p
  d.cmdBusy && d.cmdOp.toNat == op && d.cmdCtx.toNat == x

/-- What R426 asks of a command other than CREATE: 3 NOTLIVE, 4 OTHERPOLDER. -/
def State.cmdWhy (s : State) (p x : Nat) : Nat :=
  let c := s.ctx x
  if !c.live then 3 else if c.polder ≠ p then 4 else 0

/-- A command of a polder that completes at once: ignored while another runs. -/
def State.cmdOnce (s : State) (p op x : Nat) (f : State → State) : State :=
  if x < 64 && s.present p && !(s.polder p).cmdBusy then
    (if s.cmdWhy p x = 0 then (f s).cmdEnd p op x 0 else s.cmdEnd p op x (s.cmdWhy p x))
  else s

/-- Whether the memory of an entry of a polder's context table is ready (21 R512). -/
def State.tableReady (s : State) (p x : Nat) : Bool := s.devReady p ((s.polder p).ctxTab.toNat * 16384 + 256 * x)

/-- A command of a polder that accesses its entry of the context table: BUSY stands until the table's memory is ready (21 R512); ignored while another
command runs. -/
def State.cmdTable (s : State) (p op x : Nat) (f : State → State) : State :=
  if x < 64 && s.present p && (!(s.polder p).cmdBusy || s.cmdRuns p op x) then
    (if s.tableReady p x then f s else s.cmdStart p op x)
  else s

/-- The same of a command on a live context. -/
def State.cmdEntry (s : State) (p op x : Nat) (f : State → State) : State :=
  if s.cmdWhy p x = 0 then s.cmdTable p op x (fun s => (f s).cmdEnd p op x 0) else s.cmdOnce p op x f

/-- Entry x of a polder's context table (R425). -/
def State.ctxEntry (s : State) (p x : Nat) : State × Nat := s.devRead p ((s.polder p).ctxTab.toNat * 16384 + 256 * x) 256

/-- The limits of R425 on a descriptor. -/
def ctxDescOk (v : Nat) : Bool :=
  natBytes v 2 1 < 64 && natBytes v 3 1 < 2 && natBytes v 4 4 == 0 &&
  decide (natBytes v 8 8 % 2 ^ 21 = 0 ∧ natBytes v 8 8 < 2 ^ 52) && natBytes v 32 96 == 0

/-- Whether a context owns a resident tile or a pin in some quarter. -/
def State.inSpiral (s : State) (x : Nat) : Bool := s.quarters.any (fun k => k.owned x != 0 || k.pinnedBy x != 0)

/-- Why CREATE is refused: 2 INUSE, 1 BADDESC, 5 ASIDDUP. -/
def State.createWhy (s : State) (x v : Nat) : Nat :=
  if (s.ctx x).live || s.inSpiral x then 2
  else if !ctxDescOk v then 1
  else if s.ctxs.any (fun c => c.live && c.asid.toNat == natBytes v 0 2) then 5
  else 0

/-- CREATE (R425, R426). -/
def execCreate (polder ctx : Nat) (s : State) : Out :=
  .next (s.cmdTable polder 1 ctx (fun s =>
    let r := s.ctxEntry polder ctx
    let v := r.2
    let why := s.createWhy ctx v
    if why ≠ 0 then r.1.cmdEnd polder 1 ctx why
    else
      (r.1.modCtx ctx (fun _ =>
        { live := true, polder := polder, asid := BitVec.ofNat 16 (natBytes v 0 2), keyslot := BitVec.ofNat 6 (natBytes v 2 1),
          peerExp := natBit v 24, root := BitVec.ofNat 64 (natBytes v 8 8), localQ := BitVec.ofNat 64 (natBytes v 16 8),
          localUsed := BitVec.ofNat 64 (natBytes v 24 8),
          replQ := (List.range 16).map (fun i => BitVec.ofNat 32 (natBytes v (128 + 8 * i) 4)),
          replUsed := (List.range 16).map (fun i => BitVec.ofNat 32 (natBytes v (132 + 8 * i) 4)), replicas := [], preempted := false })).cmdEnd polder 1
        ctx 0))

/-- QUOTA (R426). -/
def execQuota (polder ctx : Nat) (s : State) : Out :=
  .next (s.cmdEntry polder 2 ctx (fun s =>
    let r := s.ctxEntry polder ctx
    r.1.modCtx ctx (fun c => { c with
      localQ := BitVec.ofNat 64 (natBytes r.2 16 8), localUsed := BitVec.ofNat 64 (natBytes r.2 24 8),
      replQ := (List.range 16).map (fun i => BitVec.ofNat 32 (natBytes r.2 (128 + 8 * i) 4)) })))

/-- SYNC (R426). -/
def execSync (polder ctx : Nat) (s : State) : Out :=
  .next (s.cmdEntry polder 3 ctx (fun s =>
    (List.range 16).foldl (fun st i =>
      st.devWrite polder ((s.polder polder).ctxTab.toNat * 16384 + 256 * ctx + 132 + 8 * i) 4 ((s.ctx ctx).replUsed.getD i 0).toNat) s))

/-- RESUME (R426). -/
def execResume (polder ctx : Nat) (s : State) : Out :=
  .next (s.cmdOnce polder 5 ctx (fun s => s.modCtx ctx (fun c => { c with preempted := false })))

/-- A command of a polder that takes time: started, and then tried until it is done. -/
def State.cmdLong (s : State) (p op x : Nat) (start : State → State) (go : State → State × Bool) : State :=
  let next (s : State) : State :=
    let r := go s
    if r.2 then r.1.cmdEnd p op x 0 else r.1
  if 64 ≤ x || !s.present p then s
  else if s.cmdRuns p op x then next s
  else if (s.polder p).cmdBusy then s
  else if s.cmdWhy p x ≠ 0 then s.cmdEnd p op x (s.cmdWhy p x)
  else next ((start s).cmdStart p op x)

/-- The resident teams of a context. -/
def State.residentOf (s : State) (x : Nat) : List Team := s.teams.filter (fun t => t.shape.ctx == some x && t.core?.isSome && !t.ended)

/-- Clusters of a context that have begun to leave and are drained go (R244, R442). -/
def State.leaveDrained (s : State) (x : Nat) : State :=
  (s.residentOf x).foldl (fun s t => match s.team? t.id with
    | some u => if u.leaving && u.core?.isSome && !u.fr.halted then (s.leaveTogether ((s.clusterOf u).map (fun c => c.id))).getD s else s
    | none => s) s

/-- PREEMPT (R426, R442): halted teams stay resident (13 R391), and the command with them is not done (log 20); one that the debugger resumes then
leaves like the others. -/
def execPreempt (polder ctx : Nat) (s : State) : Out :=
  .next (s.cmdLong polder 4 ctx (fun s => s.modCtx ctx (fun c => { c with preempted := true }))
    (fun s =>
      let s0 := (s.residentOf ctx).foldl (fun s t => if t.fr.halted then s else s.startLeaving t.id) s
      let s1 := s0.leaveDrained ctx
      (s1, (s1.residentOf ctx).isEmpty)))

/-- Whether some SHOOT waits for accesses that hold translations of an ASID of a polder (R293). -/
def State.asidInUse (s : State) (p : Nat) (asid : BitVec 16) : Bool := s.usesShot p asid 0 3

/-- SHOOTALL (R426). -/
def execShootall (polder ctx : Nat) (s : State) : Out :=
  .next (s.cmdLong polder 7 ctx (fun s => s.shootDown polder (s.ctx ctx).asid 0 3)
    (fun s => (s, !s.asidInUse polder (s.ctx ctx).asid)))

/-! ## Answers to faults (R435) -/

/-- What FQRESP reads after an answer. -/
def State.noteResp (s : State) (p op index : Nat) : State :=
  s.modPolder p (fun x => { x with fq := { x.fq with respOp := BitVec.ofNat 2 op, respIndex := BitVec.ofNat 16 index } })

/-- The outstanding entry that INDEX names. -/
def State.answered (s : State) (p index : Nat) : Option FaultEntry :=
  (s.polder p).fq.entries.find? (fun e => match e.index with
    | some n => n.toNat % 65536 == index
    | none => false)

/-- An entry answered leaves the queue's outstanding ones. -/
def State.dropEntry (s : State) (p : Nat) (e : FaultEntry) : State :=
  s.modPolder p (fun x => { x with fq := { x.fq with entries := x.fq.entries.erase e } })

/-- A group that parked at issue goes on once nothing of its word waits; a word of the matrix unit that still waits for a page keeps
it parked (R378, R527). -/
def State.unpark (s : State) (r : GRef) : State :=
  if s.waitsFault (.group r.team r.g) then s
  else
    let held := (s.mxOf r).find? (fun e => e.held.isSome && e.region?.isSome)
    s.modGroup r (fun g => g.modCtl (fun k => match k.park with
      | some p =>
        if p.unit then k
        else { k with park := held.map (fun e => { mask := 0, pc := e.pc, addrs := [], unit := true }) }
      | none => k))

/-- A party that translates again (R435). -/
def State.retryWaiter (s : State) (w : Waiter) : State :=
  match w with
  | .group team g => s.unpark ⟨team, g⟩
  | .job team job => s.modTeam team (fun t => { t with jobs := t.jobs.map (fun j => if j.id == job then { j with page := none, serviced := j.page.toList ++ j.serviced } else j) })
  | .op id => s.modOp id (fun o => { o with page := none })
  | .peer link kind asid va n value => s.peerAsk link kind asid va n value
  | .lane op q l va =>
    (match s.op? op with
    | some o => s.selfLane q o l va
    | none => s)
  | .matrix .. | .lookup _ | .place _ | .packet .. => s

/-- Every party of an entry translates again. -/
def State.retryAll (s : State) (p : Nat) (e : FaultEntry) : State := (e.waiters.foldl State.retryWaiter (s.dropEntry p e)).sweep

/-- RETRY (R435). -/
def State.retryEntry (s : State) (p index : Nat) : State :=
  match s.answered p index with
  | some e => s.retryAll p e
  | none => s
def execRetry (polder index : Nat) (s : State) : Out :=
  .next (if s.present polder then (s.noteResp polder 0 index).retryEntry polder index else s)

/-- The word of the matrix unit that a team's refused page held (R224, R527). -/
def State.denyMatrix (s : State) (core team : Nat) (halts : Bool) : State :=
  match ((s.core core).mx.filter (fun e => e.team == team)).find? (fun e => e.held.isSome) with
  | none => s
  | some e =>
    let va := e.held.getD 0
    if e.region?.isNone then (s.deferFault e.ref 0x43 (BitVec.ofNat 56 va)).mxDone core e
    else if halts then s.mxRaise core e 0x20 va
    else s.mxDone core e

/-- A party whose fault is refused (R224, R285, R378, R436, R455, R467, R527). With `halts` false no halt is recorded (R444). -/
def State.denyWaiter (s : State) (page : Nat) (halts : Bool) (w : Waiter) : State :=
  match w with
  | .group team g =>
    (match (s.group? ⟨team, g⟩).bind (fun x => x.ctl.park) with
    | some k =>
      if k.unit then s
      else
        let va := ((k.addrs.find? (fun a => a.1 == page)).map Prod.snd).getD (65536 * page)
        let s1 := s.modGroup ⟨team, g⟩ (fun g => g.modCtl (fun k => { k with park := none }))
        if halts then s1.halt ⟨team, g⟩ 0x20 k.pc (BitVec.ofNat 56 va) else s1
    | none => s)
  | .job team job =>
    (match (s.team? team).bind (fun t => t.jobs.find? (fun j => j.id == job)) with
    | some j => s.failJob team j (j.declared - j.landedCount) 0x41
    | none => s)
  | .op id =>
    (match s.op? id with
    | some o =>
      if halts then s.engHalt o 0x20 (o.page.getD 0)
      else { s with ops := s.ops.filter (fun x => x.id != id) }
    | none => s)
  | .matrix core team => s.denyMatrix core team halts
  | .lookup launch => s.modLaunch launch (fun l => { l with denied := page :: l.denied })
  | .packet p q => if s.offers p q then (s.takeLaunch p q true).getD s else s
  | .lane op _ l va =>
    (match s.op? op with
    | some o => s.serveLost o ((1#32) <<< l) 0x44 (BitVec.ofNat 56 va)
    | none => s)
  | .place _ | .peer .. => s

/-- An entry answered with DENY. -/
def State.denyAll (s : State) (p : Nat) (halts : Bool) (e : FaultEntry) : State :=
  (e.waiters.foldl (fun s w => s.denyWaiter e.page halts w) (s.dropEntry p e)).sweep

/-- DENY (R435). -/
def State.denyEntry (s : State) (p index : Nat) : State :=
  match s.answered p index with
  | some e => s.denyAll p true e
  | none => s
def execDeny (polder index : Nat) (s : State) : Out :=
  .next (if s.present polder then (s.noteResp polder 1 index).denyEntry polder index else s)

/-- The sixteen tiles of a page as its home answers (R436, R437), each poisoned where it answers poison; none where the home waits. -/
def State.pageFrom (s : State) (q dev asid va : Nat) : State × Option (List (Option Nat)) :=
  if dev = s.devNum then
    let ask (kind va n : Nat) (s : State) : State × PeerAnswer := s.homeAsk q kind asid va n 0 (.peer (4 * q) kind asid va n 0)
    match ask 3 va 65536 s with
    | (s1, .value _) =>
      (List.range 16).foldl (fun (acc : State × Option (List (Option Nat))) i =>
        match acc.2 with
        | none => acc
        | some vs => match ask 1 (va + 4096 * i) 4096 acc.1 with
          | (s2, .value v) => (s2, some (vs ++ [some v]))
          | (s2, .poison) => (s2, some (vs ++ [none]))
          | (s2, _) => (s2, none)) (s1, some [])
    | (s1, .poison) => (s1, some (List.replicate 16 none))
    | (s1, _) => (s1, none)
  else
    let d := s.peerRefuses dev
    if d.2 then (d.1, some (List.replicate 16 none))
    else (List.range 16).foldl (fun (acc : State × Option (List (Option Nat))) i =>
      let r := acc.1.peerRead dev asid (va + 4096 * i) 4096
      (r.1, acc.2.map (fun vs => vs ++ [some r.2]))) (d.1, some [])

/-- A tile of a new replica written in its frame: a tile that came as poison is poisoned whole (R358). -/
def State.putTile (s : State) (key : Option Nat) (tile : Nat) (v : Option Nat) : State :=
  let s1 := s.flushWb tile
  let us := (List.range 64).map (fun u => 64 * tile + u)
  (s1.modHome (fun h => match v with
    | some x => us.foldl Home.cleanUnit (h.setNatAs s1.keys key (4096 * tile) 4096 x)
    | none => us.foldl Home.poisonUnit h)).homeWritten none tile (BitVec.allOnes 4096)

/-- The replica of a page made in a local frame, and its leaf (R437). -/
def State.replicate (s : State) (p frame : Nat) (e : FaultEntry) : State :=
  let c := s.ctx e.ctx
  let va := 65536 * e.page
  match State.leafEntry p va levels c.root.toNat s with
  | (s1, some (at_, w0, w1, 16)) =>
    if leafTier w0 ≠ 3 then s1
    else
      let dev := (w1.extractLsb' 0 8).toNat
      let n0 : DWord := (w0 &&& 0x118) ||| BitVec.ofNat 64 (frame % 2 ^ 36 * 65536 + 0x803)
      let n1 : DWord := BitVec.ofNat 64 dev
      let key := s1.keyFor p (some e.ctx) (n0, n1)
      let page := match s1.linkFor p va with
        | some _ => s1.pageFrom p dev c.asid.toNat va
        | none => (s1.countDrop p, some (List.replicate 16 none))
      match page.2 with
      | none => page.1
      | some vs =>
        let s2 := match s1.reach p (frame % 2 ^ 36 * 65536) 0 with
          | .home _ => (vs.mapIdx (fun i v => (i, v))).foldl (fun (s : State) (x : Nat × Option Nat) => s.putTile key (frame % 2 ^ 36 * 16 + x.1) x.2) page.1
          | _ => page.1.countDrop p
        let s5 := (s2.devWrite p at_ 16 (n0.toNat + 2 ^ 64 * n1.toNat)).shootDown p c.asid va 0
        let q := (e.entry.extractLsb' 96 8).toNat % 16
        s5.modCtx e.ctx (fun c => { c with
          replUsed := modAt c.replUsed q (fun n => n + 1), replicas := c.replicas ++ [(e.page, q)] })
  | (s1, _) => s1

/-- DUPFILL (R435, R437). -/
def State.dupfillEntry (s : State) (p index frame : Nat) : State :=
  match s.answered p index with
  | some e => (if e.kind = 4 then s.replicate p frame e else s).retryAll p e
  | none => s
def execDupfill (polder index frame : Nat) (s : State) : Out :=
  .next (if s.present polder then ((s.noteResp polder 2 index).modPolder polder (fun x => { x with
    fq := { x.fq with respFrame := BitVec.ofNat 36 frame } })).dupfillEntry polder index frame
  else s)

/-- FQHEAD_WRITE (R435). -/
def execFqheadWrite (polder : Nat) (v : DWord) (s : State) : Out :=
  .next (if s.present polder then
    (s.modPolder polder (fun x => { x with fq := { x.fq with head := v.extractLsb' 0 32 } })).pumpFaults polder
  else s)

/-- FQCFG_WRITE (R435): entries are counted from 0 since the queue was enabled. -/
def execFqcfgWrite (polder : Nat) (v : DWord) (s : State) : Out :=
  .next (if s.present polder then (s.modPolder polder (fun x =>
    let rises := v.getLsbD 31 && !x.fq.enable
    { x with fq := { x.fq with
        enable := v.getLsbD 31, logSize := v.extractLsb' 0 4, head := if rises then 0 else x.fq.head,
        tail := if rises then 0 else x.fq.tail } })).pumpFaults polder
  else s)

/-- SNCFG_WRITE (17 R446). -/
def execSncfgWrite (polder : Nat) (v : DWord) (s : State) : Out := .next (if s.present polder then s.sncfg polder v else s)

/-! ## Tear-down (R423, R444) -/

/-- Whether a launch is a context's. -/
def Launch.isOf (l : Launch) (x : Nat) : Bool := l.shape.ctx == some x

/-- Records and unplaced teams of a launch that its tear-down discards (R423): a team made for a record that the dispatcher placed in the tear-down's
own cycle counts as not made. -/
def State.tornCount (s : State) (l : Launch) : Nat :=
  let mine := s.teams.filter (fun t => t.launch == some l.id && t.core?.isNone && !t.ended)
  (l.nodes.map (fun n => n.queue.length)).foldl (· + ·) 0 + (mine.map (fun t => t.records.length)).foldl (· + ·) 0 +
  (mine.filter (fun t => t.records.all (fun r => r.tick != s.tick.toNat))).length +
  (l.total - l.made) +
  (s.emits.filter (fun e => match s.team? e.team with
    | some t => t.launch == some l.id
    | none => false)).length

/-- Tear-down at the dispatcher, in one cycle (R423, R444 step 1), and the stop of the resident teams (step 2). -/
def State.tearStart (s : State) (p x : Nat) : State :=
  let ls := s.launches.filter (fun l => l.isOf x)
  let mine (id : Nat) : Bool := match (s.team? id).bind (fun t => t.launch) with
    | some l => ls.any (fun k => k.id == l)
    | none => false
  let s1 := s.modPolder p (fun d => { d with
    queues := d.queues.map (fun (q : Queue) => if q.ctx.toNat == x then { q with enable := false } else q) })
  let s2 := { s1 with launches := s1.launches.map (fun (l : Launch) =>
    if l.isOf x then
      { l with torn := true, discarded := l.discarded + s.tornCount l, nodes := l.nodes.map (fun (n : Node) => { n with queue := [] }) }
    else l) }
  let s3 := (s.emits.filter (fun e => mine e.team)).foldl (fun s e => ({ s with emits := s.emits.erase e }).emitDone e true) s2
  let gone := s3.teams.filter (fun t => mine t.id && t.core?.isNone && !t.ended)
  let s4 := gone.foldl (fun s t => s.endEngines p t.id) s3
  { s4 with teams := (s4.teams.filter (fun t => !gone.any (fun u => u.id == t.id))).map (fun (t : Team) =>
      if mine t.id then { t with leaving := true } else t) }

/-- Every fault entry of a context answered with DENY, no halt recorded (R444 step 3). -/
def State.tearFaults (s : State) (x : Nat) : State :=
  (List.range 4).foldl (fun s p =>
    ((s.polder p).fq.entries.filter (fun e => e.ctx == x)).foldl (fun s e => s.denyAll p false e) s) s

/-- Whether a team being torn down has completed what it had issued: words of the matrix unit that only a later word of the team could
release are dropped with it. -/
def State.tornDrained (s : State) (t : Team) : Bool :=
  s.ops.all (fun o => o.team != t.id) && t.jobs.all (fun j => j.state != .running) && t.barEvents.isEmpty &&
  (match s.mxTeam t.id, t.core? with
  | e :: _, some c => e.region?.isNone && (s.mxTry c e).isNone
  | _, _ => true)

/-- The end of a torn-down team (R444, R452, R462). -/
def State.tearTeam (s : State) (p : Nat) (t : Team) : State :=
  let s1 := s.endEngines p t.id
  { s1 with
    teams := s1.teams.filter (fun u => u.id != t.id),
    cores := s1.cores.map (fun (c : Core) => { c with mx := c.mx.filter (fun e => e.team != t.id) }) }

/-- Tear-down carried on: done once every resident team has ended (R444). -/
def State.tearGo (s : State) (p x : Nat) : State × Bool :=
  let s1 := s.tearFaults x
  let ts := s1.residentOf x
  if ts.all (fun t => s1.tornDrained t) && !s1.asidInUse p (s1.ctx x).asid then
    let s2 := ts.foldl (fun s t => s.tearTeam p t) s1
    let s3 := (s2.shootDown p (s2.ctx x).asid 0 3)
    let s4 := (s3.launches.filter (fun l => l.isOf x)).foldl (fun s l => s.writeReport l false) s3
    if s4.launches.any (fun l => l.isOf x) then (s1, false)
    else (s4.modCtx x (fun c => { c with live := false, preempted := false }), true)
  else (s1, false)

/-- TEARDOWN (R444). -/
def execTeardown (polder ctx : Nat) (s : State) : Out :=
  .next (s.cmdLong polder 6 ctx (fun s => (s.tearStart polder ctx).shootDown polder (s.ctx ctx).asid 0 3)
    (fun s => s.tearGo polder ctx))

end Sys2Proof.Machine
end

