-- ==== Sys2Proof/Machine/EvBoot.lean ====
section
/-! DEFINITION. Reset, power, release from reset, SPDM and key slots (00 R13, 16 R427, 21 R513, R514). -/
namespace Sys2Proof.Machine

/-! ## Keys -/

/-- What is stored under a slot's old keys, as a reader under its new ones finds it (R427). -/
def Home.rekey (h : Home) (ks : List KeySlot) (slot : Nat) (new : KeySlot) : Home :=
  if slotKeys ks slot = new.data ++ new.tweak then h
  else
    h.keys.foldl (fun h u =>
      if u.2 = slot then
        h.setNat (64 * u.1) 64 (decryptUnit (new.data ++ new.tweak) u.1 (encryptUnit (slotKeys ks slot) u.1 (h.unitBits u.1))).toNat
      else h) h

/-- A key slot with new keys. -/
def State.putKey (s : State) (slot : Nat) (new : KeySlot) : State :=
  { s with home := s.home.rekey s.keys slot new, keys := modAt s.keys slot (fun _ => new) }

/-- A key slot that holds nothing. -/
def KeySlot.off : KeySlot := { loaded := false, data := 0, tweak := 0 }

/-! ## Reset and power (R13) -/

/-- The machine after reset: the reset state, the bytes of memory as they stand (log 27), the fuses as they are; what has been
scheduled goes on. -/
def State.resetKeeping (s : State) : State :=
  let s1 := (List.range 64).foldl (fun s k => s.putKey k KeySlot.off) s
  { State.reset with
    home := { s1.home with hostBias := [] }, agenda := s.agenda, slow := s.slow, free := s.free, saved := s.saved,
    dev := { Dev.reset with fuseSvn := s.dev.fuseSvn, nextId := s.dev.nextId } }

/-- RESET (R13, R512, R520). -/
def execReset (s : State) : Out := .next s.resetKeeping

/-- Memory without what local DRAM held. -/
def State.loseDram (s : State) : State :=
  let isLocal (pa : Nat) : Bool := (List.range 4).any (fun q => (s.rangeAt q pa).isSome)
  s.modHome (fun h => { h with
    cells := h.cells.filter (fun c => !isLocal c.1), keys := h.keys.filter (fun k => !isLocal (64 * k.1)),
    poison := h.poison.filter (fun u => !isLocal (64 * u)), errors := h.errors.filter (fun e => !isLocal (64 * e.1)) })

/-- POWER_LOSS (R13): power comes back to a device in reset, whose local memory is as memory nothing has written (log 1). -/
def execPowerLoss (s : State) : Out := .next { s.loseDram.resetKeeping with saved := [] }

/-- RELEASE_FROM_RESET (R513): the first image of slot 0 or slot 1 that verifies and is not older than the fused counter boots, else
recovery mode. The cores start at phase 0 (02 R49). -/
def execReleaseFromReset (ok0 ok1 : Bool) (svn0 svn1 : BitVec 16) (s : State) : Out :=
  .next (
    let pass (ok : Bool) (svn : BitVec 16) : Bool := ok && decide (s.dev.fuseSvn.toNat ≤ svn.toNat)
    let s1 := { s with cores := s.cores.map (fun (c : Core) => { c with clk := c.clk.start }) }
    if s.dev.booted then s
    else if pass ok0 svn0 then s1.modDev (fun d => { d with booted := true, svn := svn0, recov := false, slot := false })
    else if pass ok1 svn1 then s1.modDev (fun d => { d with booted := true, svn := svn1, recov := false, slot := true })
    else s1.modDev (fun d => { d with booted := true, svn := 0, recov := true, slot := true }))

/-! ## SPDM (R514) -/

/-- Whether the mailbox of a function answers: the function exists, and in recovery mode it is function 0 (R477, R513). -/
def State.answers (s : State) (fn : Nat) : Bool := s.polderOf fn == fn && decide (fn < 4) && (!s.dev.recov || fn == 0)

/-- A request answered where the connection has come at least so far; the response's bytes are a free value, and the connection
moves to a stage (log 13): 1 version agreed, 2 capabilities, 3 algorithms, 4 keys exchanged. -/
def State.spdmAnswer (s : State) (fn req least : Nat) (stage : Nat → Nat) (secure : Bool → Bool) : State :=
  if s.answers fn && decide (least ≤ (s.polder fn).spdm) then
    let r := s.draw
    r.2.modPolder fn (fun p => { p with
      spdm := stage p.spdm, secure := secure p.secure, doe := Config.spdmBytes req r.1 })
  else s

/-- GET_VERSION: a connection begins anew. -/
def execGetVersion (fn : Nat) (s : State) : Out := .next (s.spdmAnswer fn 0 0 (fun _ => 1) (fun _ => false))
/-- GET_CAPABILITIES. -/
def execGetCapabilities (fn : Nat) (s : State) : Out := .next (s.spdmAnswer fn 1 1 (max 2) id)
/-- NEGOTIATE_ALGORITHMS. -/
def execNegotiateAlgorithms (fn : Nat) (s : State) : Out := .next (s.spdmAnswer fn 2 2 (max 3) id)
/-- GET_DIGESTS. -/
def execGetDigests (fn : Nat) (s : State) : Out := .next (s.spdmAnswer fn 3 3 id id)
/-- GET_CERTIFICATE. -/
def execGetCertificate (fn : Nat) (s : State) : Out := .next (s.spdmAnswer fn 4 3 id id)
/-- CHALLENGE. -/
def execChallenge (fn : Nat) (s : State) : Out := .next (s.spdmAnswer fn 5 3 id id)
/-- GET_MEASUREMENTS. -/
def execGetMeasurements (fn : Nat) (s : State) : Out := .next (s.spdmAnswer fn 6 3 id id)
/-- KEY_EXCHANGE: a secured session opens. -/
def execKeyExchange (fn : Nat) (s : State) : Out := .next (s.spdmAnswer fn 7 3 (fun _ => 4) (fun _ => false))
/-- FINISH: the session is secured. -/
def execFinish (fn : Nat) (s : State) : Out := .next (s.spdmAnswer fn 8 4 (fun _ => 3) (fun _ => true))

/-- KEY_LOAD (R427, R514): firmware loads a slot from a message of a secured session. -/
def execKeyLoad (fn slot : Nat) (data tweak : BitVec 256) (s : State) : Out :=
  .next (if s.answers fn && !s.dev.recov && (s.polder fn).secure && decide (slot < 64) then
    s.putKey slot { loaded := true, data := data, tweak := tweak }
  else s)

end Sys2Proof.Machine
end

