-- ==== Sys2Proof/Decode.lean ====
section
/-! DEFINITION. The decoder and the encoder of instruction words (03_formats R81-R115). The decoder is total and
refuses every word that is not an instruction; the encoder writes the fields of a word constructor back.
Noncomputable marks what Lean's compiler cannot compile (it takes at most 245 constructors with fields); the kernel
evaluates all of it. -/
namespace Sys2Proof

/-- Bits lo + len - 1 : lo of a word, as a number (R22). -/
def fx (w : Word) (lo len : Nat) : Nat := w.toNat / 2 ^ lo % 2 ^ len

/-- Bits lo + len - 1 : lo of a word, as a field. -/
def fb (w : Word) (lo len : Nat) : BitVec len := w.extractLsb' lo len

/-- The words of major 0x00. -/
def decIop (w : Word) : Option Instr :=
  if fx w 3 5 = 0 then
    some (.add (fb w 20 6) (fb w 14 6) (fb w 8 6) (fb w 0 3))
  else if fx w 3 5 = 1 then
    some (.sub (fb w 20 6) (fb w 14 6) (fb w 8 6) (fb w 0 3))
  else if fx w 3 5 = 2 then
    some (.minI32 (fb w 20 6) (fb w 14 6) (fb w 8 6) (fb w 0 3))
  else if fx w 3 5 = 3 then
    some (.minN32 (fb w 20 6) (fb w 14 6) (fb w 8 6) (fb w 0 3))
  else if fx w 3 5 = 4 then
    some (.maxI32 (fb w 20 6) (fb w 14 6) (fb w 8 6) (fb w 0 3))
  else if fx w 3 5 = 5 then
    some (.maxN32 (fb w 20 6) (fb w 14 6) (fb w 8 6) (fb w 0 3))
  else if fx w 3 5 = 6 then
    some (.andB (fb w 20 6) (fb w 14 6) (fb w 8 6) (fb w 0 3))
  else if fx w 3 5 = 7 then
    some (.orB (fb w 20 6) (fb w 14 6) (fb w 8 6) (fb w 0 3))
  else if fx w 3 5 = 8 then
    some (.xorB (fb w 20 6) (fb w 14 6) (fb w 8 6) (fb w 0 3))
  else if fx w 3 5 = 9 then
    some (.andn (fb w 20 6) (fb w 14 6) (fb w 8 6) (fb w 0 3))
  else if fx w 3 5 = 10 then
    some (.absdI32 (fb w 20 6) (fb w 14 6) (fb w 8 6) (fb w 0 3))
  else if fx w 3 5 = 11 then
    some (.absdN32 (fb w 20 6) (fb w 14 6) (fb w 8 6) (fb w 0 3))
  else if fx w 3 5 = 12 then
    some (.addsatI32 (fb w 20 6) (fb w 14 6) (fb w 8 6) (fb w 0 3))
  else if fx w 3 5 = 13 then
    some (.addsatN32 (fb w 20 6) (fb w 14 6) (fb w 8 6) (fb w 0 3))
  else if fx w 3 5 = 14 then
    some (.subsatI32 (fb w 20 6) (fb w 14 6) (fb w 8 6) (fb w 0 3))
  else if fx w 3 5 = 15 then
    some (.subsatN32 (fb w 20 6) (fb w 14 6) (fb w 8 6) (fb w 0 3))
  else none

/-- The words of major 0x01. -/
def decIopi (w : Word) : Option Instr :=
  if fx w 11 3 = 0 then
    some (.addi (fb w 20 6) (fb w 14 6) (fb w 3 8) (fb w 0 3))
  else if fx w 11 3 = 1 then
    some (.muli (fb w 20 6) (fb w 14 6) (fb w 3 8) (fb w 0 3))
  else if fx w 11 3 = 2 then
    some (.andi (fb w 20 6) (fb w 14 6) (fb w 3 8) (fb w 0 3))
  else if fx w 11 3 = 3 then
    some (.ori (fb w 20 6) (fb w 14 6) (fb w 3 8) (fb w 0 3))
  else if fx w 11 3 = 4 then
    some (.xori (fb w 20 6) (fb w 14 6) (fb w 3 8) (fb w 0 3))
  else if fx w 11 3 = 5 then
    some (.shli (fb w 20 6) (fb w 14 6) (fb w 3 8) (fb w 0 3))
  else if fx w 11 3 = 6 then
    some (.shri (fb w 20 6) (fb w 14 6) (fb w 3 8) (fb w 0 3))
  else if fx w 11 3 = 7 then
    some (.sari (fb w 20 6) (fb w 14 6) (fb w 3 8) (fb w 0 3))
  else none

/-- The words of major 0x02. -/
def decIopw (w : Word) : Option Instr :=
  some (.iopw (fb w 20 6) (fb w 14 6) (fb w 8 6) (fb w 3 5) (fb w 0 3))

/-- The words of major 0x03. -/
def decBits (w : Word) : Option Instr :=
  if fx w 3 11 = 5 then
    some (.popc (fb w 20 6) (fb w 14 6) (fb w 0 3))
  else if fx w 3 11 = 6 then
    some (.clz (fb w 20 6) (fb w 14 6) (fb w 0 3))
  else if fx w 3 11 = 7 then
    some (.ctz (fb w 20 6) (fb w 14 6) (fb w 0 3))
  else if fx w 3 11 = 8 then
    some (.brev (fb w 20 6) (fb w 14 6) (fb w 0 3))
  else if fx w 3 11 = 21 then
    some (.popcB64 (fb w 20 6) (fb w 14 6) (fb w 0 3))
  else if fx w 3 11 = 22 then
    some (.clzB64 (fb w 20 6) (fb w 14 6) (fb w 0 3))
  else if fx w 3 11 = 23 then
    some (.ctzB64 (fb w 20 6) (fb w 14 6) (fb w 0 3))
  else if fx w 3 11 = 24 then
    some (.brevB64 (fb w 20 6) (fb w 14 6) (fb w 0 3))
  else if fx w 3 5 = 0 then
    some (.shl (fb w 20 6) (fb w 14 6) (fb w 8 6) (fb w 0 3))
  else if fx w 3 5 = 1 then
    some (.shr (fb w 20 6) (fb w 14 6) (fb w 8 6) (fb w 0 3))
  else if fx w 3 5 = 2 then
    some (.sar (fb w 20 6) (fb w 14 6) (fb w 8 6) (fb w 0 3))
  else if fx w 3 5 = 3 then
    some (.rol (fb w 20 6) (fb w 14 6) (fb w 8 6) (fb w 0 3))
  else if fx w 3 5 = 4 then
    some (.ror (fb w 20 6) (fb w 14 6) (fb w 8 6) (fb w 0 3))
  else if fx w 3 5 = 9 then
    some (.bfxN32 (fb w 20 6) (fb w 14 6) (fb w 8 6) (fb w 0 3))
  else if fx w 3 5 = 10 then
    some (.bfxI32 (fb w 20 6) (fb w 14 6) (fb w 8 6) (fb w 0 3))
  else if fx w 3 5 = 11 then
    some (.bfi (fb w 20 6) (fb w 14 6) (fb w 8 6) (fb w 0 3))
  else if fx w 3 5 = 12 then
    some (.permb (fb w 20 6) (fb w 14 6) (fb w 8 6) (fb w 0 3))
  else if fx w 3 5 = 16 then
    some (.shlB64 (fb w 20 6) (fb w 14 6) (fb w 8 6) (fb w 0 3))
  else if fx w 3 5 = 17 then
    some (.shrB64 (fb w 20 6) (fb w 14 6) (fb w 8 6) (fb w 0 3))
  else if fx w 3 5 = 18 then
    some (.sarB64 (fb w 20 6) (fb w 14 6) (fb w 8 6) (fb w 0 3))
  else if fx w 3 5 = 19 then
    some (.rolB64 (fb w 20 6) (fb w 14 6) (fb w 8 6) (fb w 0 3))
  else if fx w 3 5 = 20 then
    some (.rorB64 (fb w 20 6) (fb w 14 6) (fb w 8 6) (fb w 0 3))
  else none

/-- The words of major 0x04. -/
def decImd (w : Word) : Option Instr :=
  if fx w 3 5 = 0 then
    some (.mul (fb w 20 6) (fb w 14 6) (fb w 8 6) (fb w 0 3))
  else if fx w 3 5 = 1 then
    some (.mulhiI32 (fb w 20 6) (fb w 14 6) (fb w 8 6) (fb w 0 3))
  else if fx w 3 5 = 2 then
    some (.mulhiN32 (fb w 20 6) (fb w 14 6) (fb w 8 6) (fb w 0 3))
  else if fx w 3 5 = 3 then
    some (.mulwI32 (fb w 20 6) (fb w 14 6) (fb w 8 6) (fb w 0 3))
  else if fx w 3 5 = 4 then
    some (.mulwN32 (fb w 20 6) (fb w 14 6) (fb w 8 6) (fb w 0 3))
  else if fx w 3 5 = 5 then
    some (.mad (fb w 20 6) (fb w 14 6) (fb w 8 6) (fb w 0 3))
  else if fx w 3 5 = 6 then
    some (.divI32 (fb w 20 6) (fb w 14 6) (fb w 8 6) (fb w 0 3))
  else if fx w 3 5 = 7 then
    some (.divN32 (fb w 20 6) (fb w 14 6) (fb w 8 6) (fb w 0 3))
  else if fx w 3 5 = 8 then
    some (.remI32 (fb w 20 6) (fb w 14 6) (fb w 8 6) (fb w 0 3))
  else if fx w 3 5 = 9 then
    some (.remN32 (fb w 20 6) (fb w 14 6) (fb w 8 6) (fb w 0 3))
  else if fx w 3 5 = 10 then
    some (.divI32Tz (fb w 20 6) (fb w 14 6) (fb w 8 6) (fb w 0 3))
  else if fx w 3 5 = 11 then
    some (.divN32Tz (fb w 20 6) (fb w 14 6) (fb w 8 6) (fb w 0 3))
  else if fx w 3 5 = 12 then
    some (.remI32Tz (fb w 20 6) (fb w 14 6) (fb w 8 6) (fb w 0 3))
  else if fx w 3 5 = 13 then
    some (.remN32Tz (fb w 20 6) (fb w 14 6) (fb w 8 6) (fb w 0 3))
  else none

/-- The words of major 0x05. -/
def decIcmp (w : Word) : Option Instr :=
  some (.cmp (fb w 23 3) (fb w 19 4) (fb w 17 2) (fb w 11 6) (fb w 5 6) (fb w 3 2) (fb w 0 3))

/-- The words of major 0x06. -/
def decFcmp (w : Word) : Option Instr :=
  if fx w 19 4 = 15 then
    some (.fclass (fb w 23 3) (fb w 17 2) (fb w 11 6) (fb w 5 6) (fb w 3 2) (fb w 0 3))
  else some (.fcmp (fb w 23 3) (fb w 19 4) (fb w 17 2) (fb w 11 6) (fb w 5 6) (fb w 3 2) (fb w 0 3))

/-- The words of major 0x07. -/
def decPlog (w : Word) : Option Instr :=
  if fx w 0 14 = 48 then
    some (.pmovToScalar (fb w 20 6) (fb w 14 6))
  else if fx w 3 11 = 3 then
    some (.pnot (fb w 20 6) (fb w 14 6) (fb w 0 3))
  else if fx w 3 11 = 4 then
    some (.pmov (fb w 20 6) (fb w 14 6) (fb w 0 3))
  else if fx w 3 11 = 5 then
    some (.pmovFromScalar (fb w 20 6) (fb w 14 6) (fb w 0 3))
  else if fx w 3 5 = 0 then
    some (.pand (fb w 20 6) (fb w 14 6) (fb w 8 6) (fb w 0 3))
  else if fx w 3 5 = 1 then
    some (.por (fb w 20 6) (fb w 14 6) (fb w 8 6) (fb w 0 3))
  else if fx w 3 5 = 2 then
    some (.pxor (fb w 20 6) (fb w 14 6) (fb w 8 6) (fb w 0 3))
  else if fx w 6 2 = 1 then
    some (.sel (fb w 20 6) (fb w 14 6) (fb w 8 6) (fb w 3 3) (fb w 0 3))
  else none

/-- The words of major 0x08. -/
def decFop (w : Word) : Option Instr :=
  if fx w 5 9 = 5 then
    some (.fabs (fb w 20 6) (fb w 14 6) (fb w 3 2) (fb w 0 3))
  else if fx w 5 9 = 6 then
    some (.fneg (fb w 20 6) (fb w 14 6) (fb w 3 2) (fb w 0 3))
  else if fx w 5 3 = 0 then
    some (.fadd (fb w 20 6) (fb w 14 6) (fb w 8 6) (fb w 3 2) (fb w 0 3))
  else if fx w 5 3 = 1 then
    some (.fsub (fb w 20 6) (fb w 14 6) (fb w 8 6) (fb w 3 2) (fb w 0 3))
  else if fx w 5 3 = 2 then
    some (.fmul (fb w 20 6) (fb w 14 6) (fb w 8 6) (fb w 3 2) (fb w 0 3))
  else if fx w 5 3 = 3 then
    some (.fmin (fb w 20 6) (fb w 14 6) (fb w 8 6) (fb w 3 2) (fb w 0 3))
  else if fx w 5 3 = 4 then
    some (.fmax (fb w 20 6) (fb w 14 6) (fb w 8 6) (fb w 3 2) (fb w 0 3))
  else none

/-- The words of major 0x09. -/
def decFmac (w : Word) : Option Instr :=
  if fx w 5 3 = 0 then
    some (.fma (fb w 20 6) (fb w 14 6) (fb w 8 6) (fb w 3 2) (fb w 0 3))
  else if fx w 5 3 = 1 then
    some (.fms (fb w 20 6) (fb w 14 6) (fb w 8 6) (fb w 3 2) (fb w 0 3))
  else if fx w 5 3 = 2 then
    some (.fnma (fb w 20 6) (fb w 14 6) (fb w 8 6) (fb w 3 2) (fb w 0 3))
  else if fx w 5 3 = 3 then
    some (.fmad (fb w 20 6) (fb w 14 6) (fb w 8 6) (fb w 3 2) (fb w 0 3))
  else none

/-- The words of major 0x0A. -/
def decFspc (w : Word) : Option Instr :=
  if fx w 3 3 = 0 ∧ fx w 8 6 = 0 then
    some (.rcp (fb w 20 6) (fb w 14 6) (fb w 6 2) (fb w 0 3))
  else if fx w 3 3 = 1 ∧ fx w 8 6 = 0 then
    some (.rsq (fb w 20 6) (fb w 14 6) (fb w 6 2) (fb w 0 3))
  else if fx w 3 3 = 2 ∧ fx w 8 6 = 0 then
    some (.sqrt (fb w 20 6) (fb w 14 6) (fb w 6 2) (fb w 0 3))
  else if fx w 3 3 = 3 ∧ fx w 8 6 = 0 then
    some (.exp2 (fb w 20 6) (fb w 14 6) (fb w 6 2) (fb w 0 3))
  else if fx w 3 3 = 4 ∧ fx w 8 6 = 0 then
    some (.log2 (fb w 20 6) (fb w 14 6) (fb w 6 2) (fb w 0 3))
  else if fx w 3 3 = 5 ∧ fx w 8 6 = 0 then
    some (.sin (fb w 20 6) (fb w 14 6) (fb w 6 2) (fb w 0 3))
  else if fx w 3 3 = 6 ∧ fx w 8 6 = 0 then
    some (.cos (fb w 20 6) (fb w 14 6) (fb w 6 2) (fb w 0 3))
  else if fx w 3 3 = 7 ∧ fx w 8 6 = 0 then
    some (.tanh (fb w 20 6) (fb w 14 6) (fb w 6 2) (fb w 0 3))
  else none

/-- The words of major 0x0B. -/
def decCvt (w : Word) : Option Instr :=
  if fx w 0 6 = 8 then
    some (.cvts (fb w 20 6) (fb w 14 6) (fb w 10 4) (fb w 6 4))
  else if fx w 3 3 = 0 then
    some (.cvt (fb w 20 6) (fb w 14 6) (fb w 10 4) (fb w 6 4) (fb w 0 3))
  else none

/-- The words of major 0x0C. -/
def decQnt (w : Word) : Option Instr :=
  if fx w 3 11 = 1156 then
    some (.lgenc (fb w 20 6) (fb w 14 6) (fb w 0 3))
  else if fx w 3 11 = 1157 then
    some (.lgdec (fb w 20 6) (fb w 14 6) (fb w 0 3))
  else if fx w 3 7 = 2 then
    some (.pack6 (fb w 20 6) (fb w 14 6) (fb w 10 4) (fb w 0 3))
  else if fx w 3 7 = 3 then
    some (.unpk6 (fb w 20 6) (fb w 14 6) (fb w 10 4) (fb w 0 3))
  else if fx w 3 6 = 0 then
    some (.qblk (fb w 20 6) (fb w 14 6) (fb w 10 4) (fb w 9 1) (fb w 0 3))
  else if fx w 3 6 = 1 then
    some (.dqblk (fb w 20 6) (fb w 14 6) (fb w 10 4) (fb w 9 1) (fb w 0 3))
  else none

/-- The words of major 0x0D. -/
def decLane (w : Word) : Option Instr :=
  if fx w 0 14 = 40 then
    some (.ballot (fb w 20 6) (fb w 14 6))
  else if fx w 3 11 = 6 then
    some (.matchLanes (fb w 20 6) (fb w 14 6) (fb w 0 3))
  else if fx w 3 11 = 7 then
    some (.movsr (fb w 20 6) (fb w 14 6) (fb w 0 3))
  else if fx w 6 8 = 1 then
    some (.red (fb w 20 6) (fb w 14 6) (fb w 3 3) (fb w 0 3))
  else if fx w 6 8 = 2 then
    some (.scan (fb w 20 6) (fb w 14 6) (fb w 3 3) (fb w 0 3))
  else if fx w 3 5 = 1 ∧ fx w 13 1 = 0 then
    some (.shflUp (fb w 20 6) (fb w 14 6) (fb w 8 5) (fb w 0 3))
  else if fx w 3 5 = 2 ∧ fx w 13 1 = 0 then
    some (.shflDown (fb w 20 6) (fb w 14 6) (fb w 8 5) (fb w 0 3))
  else if fx w 3 5 = 3 ∧ fx w 13 1 = 0 then
    some (.shflXor (fb w 20 6) (fb w 14 6) (fb w 8 5) (fb w 0 3))
  else if fx w 3 5 = 4 ∧ fx w 13 1 = 0 then
    some (.bcast (fb w 20 6) (fb w 14 6) (fb w 8 5) (fb w 0 3))
  else if fx w 3 5 = 0 then
    some (.shflIdx (fb w 20 6) (fb w 14 6) (fb w 8 6) (fb w 0 3))
  else none

/-- The words of major 0x0E. -/
def decMove (w : Word) : Option Instr :=
  if fx w 11 9 = 6 ∧ fx w 22 4 = 0 then
    some (.xadd (fb w 20 2) (fb w 3 8) (fb w 0 3))
  else if fx w 3 11 = 0 then
    some (.mov (fb w 20 6) (fb w 14 6) (fb w 0 3))
  else if fx w 3 11 = 1920 then
    some (.movs2v (fb w 20 6) (fb w 14 6) (fb w 0 3))
  else if fx w 11 9 = 1 then
    some (.movi (fb w 20 6) (fb w 3 8) (fb w 0 3))
  else if fx w 11 9 = 2 then
    some (.movhi (fb w 20 6) (fb w 3 8) (fb w 0 3))
  else if fx w 0 3 = 0 ∧ fx w 8 6 = 56 then
    some (.movv2s (fb w 20 6) (fb w 14 6) (fb w 3 5))
  else if fx w 11 3 = 3 ∧ fx w 16 4 = 0 then
    some (.movx (fb w 20 6) (fb w 14 2) (fb w 3 8) (fb w 0 3))
  else if fx w 11 3 = 4 ∧ fx w 22 4 = 0 then
    some (.movxw (fb w 20 2) (fb w 14 6) (fb w 3 8) (fb w 0 3))
  else if fx w 11 3 = 5 ∧ fx w 22 4 = 0 then
    some (.xset (fb w 20 2) (fb w 14 6) (fb w 3 8) (fb w 0 3))
  else none

/-- The words of major 0x0F. -/
def decSop (w : Word) : Option Instr :=
  if fx w 0 16 = 96 then
    some (.smov (fb w 21 5) (fb w 16 5))
  else if fx w 0 11 = 0 then
    some (.sadd (fb w 21 5) (fb w 16 5) (fb w 11 5))
  else if fx w 0 11 = 8 then
    some (.ssub (fb w 21 5) (fb w 16 5) (fb w 11 5))
  else if fx w 0 11 = 16 then
    some (.smul (fb w 21 5) (fb w 16 5) (fb w 11 5))
  else if fx w 0 11 = 24 then
    some (.sand (fb w 21 5) (fb w 16 5) (fb w 11 5))
  else if fx w 0 11 = 32 then
    some (.sor (fb w 21 5) (fb w 16 5) (fb w 11 5))
  else if fx w 0 11 = 40 then
    some (.sxor (fb w 21 5) (fb w 16 5) (fb w 11 5))
  else if fx w 0 11 = 48 then
    some (.sshl (fb w 21 5) (fb w 16 5) (fb w 11 5))
  else if fx w 0 11 = 56 then
    some (.sshr (fb w 21 5) (fb w 16 5) (fb w 11 5))
  else if fx w 0 11 = 64 then
    some (.sminI64 (fb w 21 5) (fb w 16 5) (fb w 11 5))
  else if fx w 0 11 = 72 then
    some (.sminN64 (fb w 21 5) (fb w 16 5) (fb w 11 5))
  else if fx w 0 11 = 80 then
    some (.smaxI64 (fb w 21 5) (fb w 16 5) (fb w 11 5))
  else if fx w 0 11 = 88 then
    some (.smaxN64 (fb w 21 5) (fb w 16 5) (fb w 11 5))
  else if fx w 0 3 = 0 ∧ fx w 6 5 = 2 then
    some (.scmpI64 (fb w 21 5) (fb w 16 5) (fb w 11 5) (fb w 3 3))
  else if fx w 0 3 = 0 ∧ fx w 6 5 = 3 then
    some (.scmpN64 (fb w 21 5) (fb w 16 5) (fb w 11 5) (fb w 3 3))
  else none

/-- The words of major 0x10. -/
def decSopi (w : Word) : Option Instr :=
  if fx w 13 8 = 4 then
    some (.smovi (fb w 21 5) (fb w 0 13))
  else if fx w 13 3 = 0 then
    some (.saddi (fb w 21 5) (fb w 16 5) (fb w 0 13))
  else if fx w 13 3 = 1 then
    some (.sandi (fb w 21 5) (fb w 16 5) (fb w 0 13))
  else if fx w 13 3 = 2 then
    some (.sshli (fb w 21 5) (fb w 16 5) (fb w 0 13))
  else if fx w 13 3 = 3 then
    some (.sshri (fb w 21 5) (fb w 16 5) (fb w 0 13))
  else none

/-- The words of major 0x11. -/
def decStr (w : Word) : Option Instr :=
  if fx w 3 11 = 4 then
    some (.sfold (fb w 20 6) (fb w 14 6) (fb w 0 3))
  else if fx w 3 5 = 0 then
    some (.sld (fb w 20 6) (fb w 14 6) (fb w 8 6) (fb w 0 3))
  else if fx w 3 5 = 1 then
    some (.sst (fb w 20 6) (fb w 14 6) (fb w 8 6) (fb w 0 3))
  else if fx w 3 5 = 2 then
    some (.scmp (fb w 20 6) (fb w 14 6) (fb w 8 6) (fb w 0 3))
  else if fx w 3 5 = 3 then
    some (.sfindb (fb w 20 6) (fb w 14 6) (fb w 8 6) (fb w 0 3))
  else if fx w 3 5 = 5 then
    some (.smatch (fb w 20 6) (fb w 14 6) (fb w 8 6) (fb w 0 3))
  else none

/-- The words of major 0x12. -/
def decHash (w : Word) : Option Instr :=
  if fx w 3 11 = 1 then
    some (.hmix (fb w 20 6) (fb w 14 6) (fb w 0 3))
  else if fx w 3 5 = 0 then
    some (.hcrc (fb w 20 6) (fb w 14 6) (fb w 8 6) (fb w 0 3))
  else if fx w 3 5 = 2 then
    some (.rhash (fb w 20 6) (fb w 14 6) (fb w 8 6) (fb w 0 3))
  else if fx w 3 5 = 3 then
    some (.pbin (fb w 20 6) (fb w 14 6) (fb w 8 6) (fb w 0 3))
  else none

/-- The words of major 0x18. -/
def decBr (w : Word) : Option Instr :=
  if fx w 23 3 = 0 then
    some (.bez (fb w 18 5) (fb w 0 18))
  else if fx w 23 3 = 1 then
    some (.bnz (fb w 18 5) (fb w 0 18))
  else if fx w 23 3 = 2 then
    some (.bltz (fb w 18 5) (fb w 0 18))
  else if fx w 23 3 = 3 then
    some (.bgez (fb w 18 5) (fb w 0 18))
  else if fx w 23 3 = 4 then
    some (.bgtz (fb w 18 5) (fb w 0 18))
  else if fx w 23 3 = 5 then
    some (.blez (fb w 18 5) (fb w 0 18))
  else none

/-- The words of major 0x19. -/
def decJmp (w : Word) : Option Instr :=
  if fx w 0 26 = 33619968 then
    some (.ret)
  else if fx w 0 26 = 33685504 then
    some (.exitW)
  else if fx w 5 21 = 1048576 then
    some (.jmpi (fb w 0 5))
  else if fx w 16 10 = 515 then
    some (.trapW (fb w 0 16))
  else if fx w 20 6 = 0 then
    some (.jmp (fb w 0 20))
  else if fx w 24 2 = 1 then
    some (.callW (fb w 20 4) (fb w 0 20))
  else none

/-- The words of major 0x1A. -/
def decDvg (w : Word) : Option Instr :=
  if fx w 0 26 = 16777216 then
    some (.rcv)
  else if fx w 18 8 = 32 then
    some (.regang (fb w 0 18))
  else if fx w 18 2 = 0 ∧ fx w 23 3 = 0 then
    some (.brp (fb w 20 3) (fb w 0 18))
  else none

/-- The words of major 0x1B. -/
def decLoop (w : Word) : Option Instr :=
  if fx w 23 3 = 0 then
    some (.loopW (fb w 18 5) (fb w 0 18))
  else none

/-- The words of major 0x20. -/
def decLd (w : Word) : Option Instr :=
  if fx w 3 4 = 0 then
    some (.ld (fb w 20 6) (fb w 17 3) (fb w 11 6) (fb w 8 3) (fb w 7 1) (fb w 0 3))
  else if fx w 3 1 = 1 then
    some (.ldAcq (fb w 20 6) (fb w 17 3) (fb w 11 6) (fb w 8 3) (fb w 4 4) (fb w 0 3))
  else none

/-- The words of major 0x21. -/
def decSt (w : Word) : Option Instr :=
  if fx w 3 4 = 0 then
    some (.st (fb w 20 6) (fb w 17 3) (fb w 11 6) (fb w 8 3) (fb w 7 1) (fb w 0 3))
  else if fx w 3 1 = 1 then
    some (.stRel (fb w 20 6) (fb w 17 3) (fb w 11 6) (fb w 8 3) (fb w 4 4) (fb w 0 3))
  else none

/-- The words of major 0x22. -/
def decLds (w : Word) : Option Instr :=
  if fx w 3 1 = 0 ∧ fx w 17 3 = 0 then
    some (.lds (fb w 20 6) (fb w 11 6) (fb w 8 3) (fb w 7 1) (fb w 4 3) (fb w 0 3))
  else none

/-- The words of major 0x23. -/
def decSts (w : Word) : Option Instr :=
  if fx w 3 1 = 0 ∧ fx w 17 3 = 0 then
    some (.sts (fb w 20 6) (fb w 11 6) (fb w 8 3) (fb w 7 1) (fb w 4 3) (fb w 0 3))
  else none

/-- The words of major 0x24. -/
def decAtom (w : Word) : Option Instr :=
  if fx w 5 4 = 0 then
    some (.atomAdd (fb w 20 6) (fb w 17 3) (fb w 13 4) (fb w 9 4) (fb w 3 2) (fb w 0 3))
  else if fx w 5 4 = 1 then
    some (.atomMin (fb w 20 6) (fb w 17 3) (fb w 13 4) (fb w 9 4) (fb w 3 2) (fb w 0 3))
  else if fx w 5 4 = 2 then
    some (.atomMax (fb w 20 6) (fb w 17 3) (fb w 13 4) (fb w 9 4) (fb w 3 2) (fb w 0 3))
  else if fx w 5 4 = 3 then
    some (.atomAnd (fb w 20 6) (fb w 17 3) (fb w 13 4) (fb w 9 4) (fb w 3 2) (fb w 0 3))
  else if fx w 5 4 = 4 then
    some (.atomOr (fb w 20 6) (fb w 17 3) (fb w 13 4) (fb w 9 4) (fb w 3 2) (fb w 0 3))
  else if fx w 5 4 = 5 then
    some (.atomXor (fb w 20 6) (fb w 17 3) (fb w 13 4) (fb w 9 4) (fb w 3 2) (fb w 0 3))
  else if fx w 5 4 = 6 then
    some (.atomXchg (fb w 20 6) (fb w 17 3) (fb w 13 4) (fb w 9 4) (fb w 3 2) (fb w 0 3))
  else if fx w 5 4 = 7 then
    some (.atomCas (fb w 20 6) (fb w 17 3) (fb w 13 4) (fb w 9 4) (fb w 3 2) (fb w 0 3))
  else if fx w 5 4 = 8 then
    some (.atomFadd (fb w 20 6) (fb w 17 3) (fb w 13 4) (fb w 9 4) (fb w 3 2) (fb w 0 3))
  else if fx w 5 4 = 9 then
    some (.atomg (fb w 20 6) (fb w 17 3) (fb w 13 4) (fb w 9 4) (fb w 3 2) (fb w 0 3))
  else none

/-- The words of major 0x25. -/
def decAtoms (w : Word) : Option Instr :=
  if fx w 5 4 = 0 ∧ fx w 17 3 = 0 then
    some (.atomsAdd (fb w 20 6) (fb w 13 4) (fb w 9 4) (fb w 3 2) (fb w 0 3))
  else if fx w 5 4 = 1 ∧ fx w 17 3 = 0 then
    some (.atomsMin (fb w 20 6) (fb w 13 4) (fb w 9 4) (fb w 3 2) (fb w 0 3))
  else if fx w 5 4 = 2 ∧ fx w 17 3 = 0 then
    some (.atomsMax (fb w 20 6) (fb w 13 4) (fb w 9 4) (fb w 3 2) (fb w 0 3))
  else if fx w 5 4 = 3 ∧ fx w 17 3 = 0 then
    some (.atomsAnd (fb w 20 6) (fb w 13 4) (fb w 9 4) (fb w 3 2) (fb w 0 3))
  else if fx w 5 4 = 4 ∧ fx w 17 3 = 0 then
    some (.atomsOr (fb w 20 6) (fb w 13 4) (fb w 9 4) (fb w 3 2) (fb w 0 3))
  else if fx w 5 4 = 5 ∧ fx w 17 3 = 0 then
    some (.atomsXor (fb w 20 6) (fb w 13 4) (fb w 9 4) (fb w 3 2) (fb w 0 3))
  else if fx w 5 4 = 6 ∧ fx w 17 3 = 0 then
    some (.atomsXchg (fb w 20 6) (fb w 13 4) (fb w 9 4) (fb w 3 2) (fb w 0 3))
  else if fx w 5 4 = 7 ∧ fx w 17 3 = 0 then
    some (.atomsCas (fb w 20 6) (fb w 13 4) (fb w 9 4) (fb w 3 2) (fb w 0 3))
  else if fx w 5 4 = 8 ∧ fx w 17 3 = 0 then
    some (.atomsFadd (fb w 20 6) (fb w 13 4) (fb w 9 4) (fb w 3 2) (fb w 0 3))
  else if fx w 5 4 = 9 ∧ fx w 17 3 = 0 then
    some (.atomgScratch (fb w 20 6) (fb w 13 4) (fb w 9 4) (fb w 3 2) (fb w 0 3))
  else none

/-- The words of major 0x26. -/
def decSpl (w : Word) : Option Instr :=
  if fx w 3 8 = 64 ∧ fx w 20 6 = 0 then
    some (.sunpin (fb w 17 3) (fb w 11 6) (fb w 0 3))
  else if fx w 3 8 = 96 ∧ fx w 20 6 = 0 then
    some (.sbyp (fb w 17 3) (fb w 11 6) (fb w 0 3))
  else if fx w 3 8 = 128 ∧ fx w 20 6 = 0 then
    some (.sclr (fb w 17 3) (fb w 11 6) (fb w 0 3))
  else if fx w 3 8 = 160 ∧ fx w 20 6 = 0 then
    some (.stouch (fb w 17 3) (fb w 11 6) (fb w 0 3))
  else if fx w 3 8 = 0 then
    some (.sdist (fb w 20 6) (fb w 17 3) (fb w 11 6) (fb w 0 3))
  else if fx w 3 8 = 32 then
    some (.spin (fb w 20 6) (fb w 17 3) (fb w 11 6) (fb w 0 3))
  else none

/-- The words of major 0x27. -/
def decBase (w : Word) : Option Instr :=
  if fx w 0 16 = 0 ∧ fx w 24 2 = 0 then
    some (.bset (fb w 21 3) (fb w 16 5))
  else if fx w 0 16 = 8 ∧ fx w 24 2 = 0 then
    some (.blim (fb w 21 3) (fb w 16 5))
  else if fx w 0 16 = 16 ∧ fx w 19 2 = 0 then
    some (.lduB32 (fb w 21 5) (fb w 16 3))
  else if fx w 0 16 = 24 ∧ fx w 19 2 = 0 then
    some (.lduB64 (fb w 21 5) (fb w 16 3))
  else none

/-- The words of major 0x28. -/
def decWait (w : Word) : Option Instr :=
  if fx w 0 26 = 50331648 then
    some (.yieldW)
  else if fx w 0 19 = 0 ∧ fx w 24 2 = 1 then
    some (.waitb (fb w 19 5))
  else if fx w 0 16 = 0 ∧ fx w 24 2 = 2 then
    some (.waitv (fb w 21 3) (fb w 16 5))
  else if fx w 0 3 = 0 ∧ fx w 24 2 = 0 then
    some (.waitc (fb w 18 6) (fb w 12 6) (fb w 8 4) (fb w 3 5))
  else none

/-- The words of major 0x29. -/
def decBar (w : Word) : Option Instr :=
  if fx w 0 12 = 8 ∧ fx w 16 10 = 0 then
    some (.barv (fb w 12 4))
  else if fx w 0 12 = 0 ∧ fx w 16 5 = 0 then
    some (.binit (fb w 21 5) (fb w 12 4))
  else if fx w 0 12 = 16 ∧ fx w 16 5 = 0 then
    some (.bexp (fb w 21 5) (fb w 12 4))
  else if fx w 0 12 = 24 ∧ fx w 16 5 = 0 then
    some (.bwait (fb w 21 5) (fb w 12 4))
  else if fx w 0 12 = 32 ∧ fx w 16 5 = 0 then
    some (.btest (fb w 21 5) (fb w 12 4))
  else none

/-- The words of major 0x2A. -/
def decFnc (w : Word) : Option Instr :=
  if fx w 0 26 = 8 then
    some (.fencex)
  else if fx w 0 12 = 0 ∧ fx w 16 10 = 0 then
    some (.fence (fb w 12 4))
  else none

/-- The words of major 0x2B. -/
def decCpy (w : Word) : Option Instr :=
  if fx w 0 21 = 32 then
    some (.close (fb w 21 5))
  else if fx w 0 11 = 0 ∧ fx w 16 5 = 0 then
    some (.cpy (fb w 21 5) (fb w 12 4) (fb w 11 1))
  else if fx w 0 11 = 8 ∧ fx w 16 5 = 0 then
    some (.cpyg (fb w 21 5) (fb w 12 4) (fb w 11 1))
  else if fx w 0 11 = 16 ∧ fx w 16 5 = 0 then
    some (.cpys (fb w 21 5) (fb w 12 4) (fb w 11 1))
  else if fx w 0 11 = 24 ∧ fx w 16 5 = 0 then
    some (.cpyc (fb w 21 5) (fb w 12 4) (fb w 11 1))
  else none

/-- The words of major 0x2C. -/
def decLnch (w : Word) : Option Instr :=
  if fx w 0 16 = 0 then
    some (.emit (fb w 21 5) (fb w 16 5))
  else if fx w 0 12 = 8 ∧ fx w 15 1 = 0 then
    some (.emitNb (fb w 21 5) (fb w 16 5) (fb w 12 3))
  else none

/-- The words of major 0x30. -/
def decMmq (w : Word) : Option Instr :=
  some (.mmq (fb w 22 4) (fb w 16 6) (fb w 13 3) (fb w 9 4) (fb w 8 1) (fb w 3 5) (fb w 0 3))

/-- The words of major 0x31. -/
def decMms (w : Word) : Option Instr :=
  some (.mms (fb w 22 4) (fb w 16 6) (fb w 13 3) (fb w 9 4) (fb w 8 1) (fb w 3 5) (fb w 0 3))

/-- The words of major 0x32. -/
def decObuf (w : Word) : Option Instr :=
  if fx w 0 9 = 8 ∧ fx w 12 14 = 0 then
    some (.obrel (fb w 9 3))
  else if fx w 0 9 = 0 ∧ fx w 12 9 = 0 then
    some (.obres (fb w 21 5) (fb w 9 3))
  else if fx w 0 9 = 16 ∧ fx w 12 4 = 0 then
    some (.obld (fb w 21 5) (fb w 16 5) (fb w 9 3))
  else none

/-- The words of major 0x33. -/
def decScl (w : Word) : Option Instr :=
  if fx w 0 9 = 0 ∧ fx w 12 9 = 0 then
    some (.scfifo (fb w 21 5) (fb w 9 3))
  else if fx w 0 16 = 8 then
    some (.scpush (fb w 21 5) (fb w 16 5))
  else if fx w 0 16 = 16 then
    some (.sccache (fb w 21 5) (fb w 16 5))
  else none

/-- The words of major 0x34. -/
def decMaux (w : Word) : Option Instr :=
  if fx w 0 12 = 0 ∧ fx w 16 10 = 0 then
    some (.accz (fb w 12 4))
  else if fx w 0 21 = 24 then
    some (.accrst (fb w 21 5))
  else if fx w 0 12 = 8 ∧ fx w 16 5 = 0 then
    some (.accld (fb w 21 5) (fb w 12 4))
  else if fx w 0 12 = 16 ∧ fx w 16 5 = 0 then
    some (.accst (fb w 21 5) (fb w 12 4))
  else none

/-- The words of major 0x3C. -/
def decSeq (w : Word) : Option Instr :=
  if fx w 0 14 = 24 ∧ fx w 20 6 = 0 then
    some (.snrel (fb w 14 6))
  else if fx w 0 14 = 56 ∧ fx w 20 6 = 0 then
    some (.kvfree (fb w 14 6))
  else if fx w 0 14 = 16 then
    some (.snget (fb w 20 6) (fb w 14 6))
  else if fx w 0 8 = 48 ∧ fx w 20 6 = 0 then
    some (.kvcommit (fb w 14 6) (fb w 8 6))
  else if fx w 0 8 = 0 then
    some (.snput (fb w 20 6) (fb w 14 6) (fb w 8 6))
  else if fx w 0 8 = 8 then
    some (.snfind (fb w 20 6) (fb w 14 6) (fb w 8 6))
  else if fx w 3 5 = 4 then
    some (.kvmap (fb w 20 6) (fb w 14 6) (fb w 8 6) (fb w 0 3))
  else if fx w 3 5 = 5 then
    some (.kvapp (fb w 20 6) (fb w 14 6) (fb w 8 6) (fb w 0 3))
  else none

/-- The words of major 0x3D. -/
def decSys (w : Word) : Option Instr :=
  if fx w 0 21 = 16384 then
    some (.tick (fb w 21 5))
  else if fx w 0 21 = 24576 then
    some (.cyc (fb w 21 5))
  else if fx w 0 16 = 32768 ∧ fx w 21 5 = 0 then
    some (.timerRes (fb w 16 5))
  else if fx w 0 16 = 32769 ∧ fx w 21 5 = 0 then
    some (.timerWall (fb w 16 5))
  else if fx w 0 16 = 49152 ∧ fx w 21 5 = 0 then
    some (.shoot (fb w 16 5))
  else if fx w 12 14 = 10 then
    some (.haltx (fb w 0 12))
  else if fx w 11 10 = 0 then
    some (.rdsys (fb w 21 5) (fb w 0 11))
  else if fx w 11 5 = 4 ∧ fx w 21 5 = 0 then
    some (.wrsys (fb w 16 5) (fb w 0 11))
  else none

/-- The words of major 0x3F. -/
noncomputable def decH (w : Word) : Option Instr :=
  if fx w 4 22 = 1572864 then
    some (.hareg (fb w 2 2) (fb w 0 2))
  else if fx w 6 20 = 196608 then
    some (.hmod (fb w 5 1) (fb w 4 1) (fb w 3 1) (fb w 0 3))
  else if fx w 6 20 = 262144 then
    some (.hreg (fb w 0 6))
  else if fx w 6 20 = 327680 then
    some (.hscope (fb w 4 2) (fb w 0 4))
  else if fx w 7 19 = 65536 then
    some (.hsched (fb w 5 2) (fb w 1 4) (fb w 0 1))
  else if fx w 16 10 = 448 then
    some (.hmark (fb w 0 16))
  else if fx w 22 4 = 0 then
    some (.himm (fb w 0 22))
  else if fx w 22 4 = 1 then
    some (.hoff (fb w 0 22))
  else none

/-- What a word's own fields say it is, by its major (R99); the hint words of major 0x3F aside. -/
def decodePlain (w : Word) : Option Instr :=
  match fx w 26 6 with
  | 0x00 => decIop w
  | 0x01 => decIopi w
  | 0x02 => decIopw w
  | 0x03 => decBits w
  | 0x04 => decImd w
  | 0x05 => decIcmp w
  | 0x06 => decFcmp w
  | 0x07 => decPlog w
  | 0x08 => decFop w
  | 0x09 => decFmac w
  | 0x0A => decFspc w
  | 0x0B => decCvt w
  | 0x0C => decQnt w
  | 0x0D => decLane w
  | 0x0E => decMove w
  | 0x0F => decSop w
  | 0x10 => decSopi w
  | 0x11 => decStr w
  | 0x12 => decHash w
  | 0x18 => decBr w
  | 0x19 => decJmp w
  | 0x1A => decDvg w
  | 0x1B => decLoop w
  | 0x20 => decLd w
  | 0x21 => decSt w
  | 0x22 => decLds w
  | 0x23 => decSts w
  | 0x24 => decAtom w
  | 0x25 => decAtoms w
  | 0x26 => decSpl w
  | 0x27 => decBase w
  | 0x28 => decWait w
  | 0x29 => decBar w
  | 0x2A => decFnc w
  | 0x2B => decCpy w
  | 0x2C => decLnch w
  | 0x30 => decMmq w
  | 0x31 => decMms w
  | 0x32 => decObuf w
  | 0x33 => decScl w
  | 0x34 => decMaux w
  | 0x3C => decSeq w
  | 0x3D => decSys w
  | _ => none

/-- What a word's own fields say it is, hint words (major 0x3F) included. -/
noncomputable def decodeFields (w : Word) : Option Instr :=
  if fx w 26 6 = 0x3F then decH w else decodePlain w

/-- The instruction a word is, or none if it is not an instruction by its own fields (R115, R83). -/
noncomputable def decode (w : Word) : Option Instr :=
  match decodeFields w with
  | some i => if i.wf then some i else none
  | none => none

/-- A word from four bytes, the lowest address first (R22, R81). -/
def wordOfBytes (b0 b1 b2 b3 : Byte) : Word :=
  BitVec.ofNat 32 (b0.toNat + b1.toNat * 0x100 + b2.toNat * 0x10000 + b3.toNat * 0x1000000)

/-- Byte k of a word (R22). -/
def wordByte (w : Word) (k : Nat) : Byte := BitVec.ofNat 8 (w.toNat / 2 ^ (8 * k))

/-- What the decoder reads from a list of bytes, and the bytes that follow the word. -/
noncomputable def decodeBytes : List Byte → Option (Instr × List Byte)
  | b0 :: b1 :: b2 :: b3 :: rest =>
    match decode (wordOfBytes b0 b1 b2 b3) with
    | some i => some (i, rest)
    | none => none
  | _ => none

/-- The instruction the decoder reads from an instruction of `nbits` bits `w`, numbered as spec/opcode_table.json
numbers them. Every word has 32 bits; a row without an encoding has none. -/
noncomputable def decodeTableWord (nbits w : Nat) : Option Instr :=
  if nbits = 32 then
    let v : Word := BitVec.ofNat 32 w
    match decodeBytes [wordByte v 0, wordByte v 1, wordByte v 2, wordByte v 3] with
    | some (i, _) => some i
    | none => none
  else none

/-- The word of an instruction (R82, R99 to R114); an event has none. -/
def encode : Instr → Option Word
  | .add d a b p => some (BitVec.ofNat 32 (0x0 + d.toNat * 1048576 + a.toNat * 16384 + b.toNat * 256 + p.toNat * 1))
  | .sub d a b p => some (BitVec.ofNat 32 (0x8 + d.toNat * 1048576 + a.toNat * 16384 + b.toNat * 256 + p.toNat * 1))
  | .minI32 d a b p => some (BitVec.ofNat 32 (0x10 + d.toNat * 1048576 + a.toNat * 16384 + b.toNat * 256 + p.toNat * 1))
  | .minN32 d a b p => some (BitVec.ofNat 32 (0x18 + d.toNat * 1048576 + a.toNat * 16384 + b.toNat * 256 + p.toNat * 1))
  | .maxI32 d a b p => some (BitVec.ofNat 32 (0x20 + d.toNat * 1048576 + a.toNat * 16384 + b.toNat * 256 + p.toNat * 1))
  | .maxN32 d a b p => some (BitVec.ofNat 32 (0x28 + d.toNat * 1048576 + a.toNat * 16384 + b.toNat * 256 + p.toNat * 1))
  | .andB d a b p => some (BitVec.ofNat 32 (0x30 + d.toNat * 1048576 + a.toNat * 16384 + b.toNat * 256 + p.toNat * 1))
  | .orB d a b p => some (BitVec.ofNat 32 (0x38 + d.toNat * 1048576 + a.toNat * 16384 + b.toNat * 256 + p.toNat * 1))
  | .xorB d a b p => some (BitVec.ofNat 32 (0x40 + d.toNat * 1048576 + a.toNat * 16384 + b.toNat * 256 + p.toNat * 1))
  | .andn d a b p => some (BitVec.ofNat 32 (0x48 + d.toNat * 1048576 + a.toNat * 16384 + b.toNat * 256 + p.toNat * 1))
  | .absdI32 d a b p => some (BitVec.ofNat 32 (0x50 + d.toNat * 1048576 + a.toNat * 16384 + b.toNat * 256 + p.toNat * 1))
  | .absdN32 d a b p => some (BitVec.ofNat 32 (0x58 + d.toNat * 1048576 + a.toNat * 16384 + b.toNat * 256 + p.toNat * 1))
  | .addsatI32 d a b p => some (BitVec.ofNat 32 (0x60 + d.toNat * 1048576 + a.toNat * 16384 + b.toNat * 256 + p.toNat * 1))
  | .addsatN32 d a b p => some (BitVec.ofNat 32 (0x68 + d.toNat * 1048576 + a.toNat * 16384 + b.toNat * 256 + p.toNat * 1))
  | .subsatI32 d a b p => some (BitVec.ofNat 32 (0x70 + d.toNat * 1048576 + a.toNat * 16384 + b.toNat * 256 + p.toNat * 1))
  | .subsatN32 d a b p => some (BitVec.ofNat 32 (0x78 + d.toNat * 1048576 + a.toNat * 16384 + b.toNat * 256 + p.toNat * 1))
  | .iopw d a b f p => some (BitVec.ofNat 32 (0x8000000 + d.toNat * 1048576 + a.toNat * 16384 + b.toNat * 256 + f.toNat * 8 + p.toNat * 1))
  | .addi d a i p => some (BitVec.ofNat 32 (0x4000000 + d.toNat * 1048576 + a.toNat * 16384 + i.toNat * 8 + p.toNat * 1))
  | .muli d a i p => some (BitVec.ofNat 32 (0x4000800 + d.toNat * 1048576 + a.toNat * 16384 + i.toNat * 8 + p.toNat * 1))
  | .andi d a i p => some (BitVec.ofNat 32 (0x4001000 + d.toNat * 1048576 + a.toNat * 16384 + i.toNat * 8 + p.toNat * 1))
  | .ori d a i p => some (BitVec.ofNat 32 (0x4001800 + d.toNat * 1048576 + a.toNat * 16384 + i.toNat * 8 + p.toNat * 1))
  | .xori d a i p => some (BitVec.ofNat 32 (0x4002000 + d.toNat * 1048576 + a.toNat * 16384 + i.toNat * 8 + p.toNat * 1))
  | .shli d a i p => some (BitVec.ofNat 32 (0x4002800 + d.toNat * 1048576 + a.toNat * 16384 + i.toNat * 8 + p.toNat * 1))
  | .shri d a i p => some (BitVec.ofNat 32 (0x4003000 + d.toNat * 1048576 + a.toNat * 16384 + i.toNat * 8 + p.toNat * 1))
  | .sari d a i p => some (BitVec.ofNat 32 (0x4003800 + d.toNat * 1048576 + a.toNat * 16384 + i.toNat * 8 + p.toNat * 1))
  | .shl d a b p => some (BitVec.ofNat 32 (0xc000000 + d.toNat * 1048576 + a.toNat * 16384 + b.toNat * 256 + p.toNat * 1))
  | .shr d a b p => some (BitVec.ofNat 32 (0xc000008 + d.toNat * 1048576 + a.toNat * 16384 + b.toNat * 256 + p.toNat * 1))
  | .sar d a b p => some (BitVec.ofNat 32 (0xc000010 + d.toNat * 1048576 + a.toNat * 16384 + b.toNat * 256 + p.toNat * 1))
  | .rol d a b p => some (BitVec.ofNat 32 (0xc000018 + d.toNat * 1048576 + a.toNat * 16384 + b.toNat * 256 + p.toNat * 1))
  | .ror d a b p => some (BitVec.ofNat 32 (0xc000020 + d.toNat * 1048576 + a.toNat * 16384 + b.toNat * 256 + p.toNat * 1))
  | .popc d a p => some (BitVec.ofNat 32 (0xc000028 + d.toNat * 1048576 + a.toNat * 16384 + p.toNat * 1))
  | .clz d a p => some (BitVec.ofNat 32 (0xc000030 + d.toNat * 1048576 + a.toNat * 16384 + p.toNat * 1))
  | .ctz d a p => some (BitVec.ofNat 32 (0xc000038 + d.toNat * 1048576 + a.toNat * 16384 + p.toNat * 1))
  | .brev d a p => some (BitVec.ofNat 32 (0xc000040 + d.toNat * 1048576 + a.toNat * 16384 + p.toNat * 1))
  | .bfxN32 d a b p => some (BitVec.ofNat 32 (0xc000048 + d.toNat * 1048576 + a.toNat * 16384 + b.toNat * 256 + p.toNat * 1))
  | .bfxI32 d a b p => some (BitVec.ofNat 32 (0xc000050 + d.toNat * 1048576 + a.toNat * 16384 + b.toNat * 256 + p.toNat * 1))
  | .bfi d a b p => some (BitVec.ofNat 32 (0xc000058 + d.toNat * 1048576 + a.toNat * 16384 + b.toNat * 256 + p.toNat * 1))
  | .permb d a b p => some (BitVec.ofNat 32 (0xc000060 + d.toNat * 1048576 + a.toNat * 16384 + b.toNat * 256 + p.toNat * 1))
  | .shlB64 d a b p => some (BitVec.ofNat 32 (0xc000080 + d.toNat * 1048576 + a.toNat * 16384 + b.toNat * 256 + p.toNat * 1))
  | .shrB64 d a b p => some (BitVec.ofNat 32 (0xc000088 + d.toNat * 1048576 + a.toNat * 16384 + b.toNat * 256 + p.toNat * 1))
  | .sarB64 d a b p => some (BitVec.ofNat 32 (0xc000090 + d.toNat * 1048576 + a.toNat * 16384 + b.toNat * 256 + p.toNat * 1))
  | .rolB64 d a b p => some (BitVec.ofNat 32 (0xc000098 + d.toNat * 1048576 + a.toNat * 16384 + b.toNat * 256 + p.toNat * 1))
  | .rorB64 d a b p => some (BitVec.ofNat 32 (0xc0000a0 + d.toNat * 1048576 + a.toNat * 16384 + b.toNat * 256 + p.toNat * 1))
  | .popcB64 d a p => some (BitVec.ofNat 32 (0xc0000a8 + d.toNat * 1048576 + a.toNat * 16384 + p.toNat * 1))
  | .clzB64 d a p => some (BitVec.ofNat 32 (0xc0000b0 + d.toNat * 1048576 + a.toNat * 16384 + p.toNat * 1))
  | .ctzB64 d a p => some (BitVec.ofNat 32 (0xc0000b8 + d.toNat * 1048576 + a.toNat * 16384 + p.toNat * 1))
  | .brevB64 d a p => some (BitVec.ofNat 32 (0xc0000c0 + d.toNat * 1048576 + a.toNat * 16384 + p.toNat * 1))
  | .mul d a b p => some (BitVec.ofNat 32 (0x10000000 + d.toNat * 1048576 + a.toNat * 16384 + b.toNat * 256 + p.toNat * 1))
  | .mulhiI32 d a b p => some (BitVec.ofNat 32 (0x10000008 + d.toNat * 1048576 + a.toNat * 16384 + b.toNat * 256 + p.toNat * 1))
  | .mulhiN32 d a b p => some (BitVec.ofNat 32 (0x10000010 + d.toNat * 1048576 + a.toNat * 16384 + b.toNat * 256 + p.toNat * 1))
  | .mulwI32 d a b p => some (BitVec.ofNat 32 (0x10000018 + d.toNat * 1048576 + a.toNat * 16384 + b.toNat * 256 + p.toNat * 1))
  | .mulwN32 d a b p => some (BitVec.ofNat 32 (0x10000020 + d.toNat * 1048576 + a.toNat * 16384 + b.toNat * 256 + p.toNat * 1))
  | .mad d a b p => some (BitVec.ofNat 32 (0x10000028 + d.toNat * 1048576 + a.toNat * 16384 + b.toNat * 256 + p.toNat * 1))
  | .divI32 d a b p => some (BitVec.ofNat 32 (0x10000030 + d.toNat * 1048576 + a.toNat * 16384 + b.toNat * 256 + p.toNat * 1))
  | .divN32 d a b p => some (BitVec.ofNat 32 (0x10000038 + d.toNat * 1048576 + a.toNat * 16384 + b.toNat * 256 + p.toNat * 1))
  | .remI32 d a b p => some (BitVec.ofNat 32 (0x10000040 + d.toNat * 1048576 + a.toNat * 16384 + b.toNat * 256 + p.toNat * 1))
  | .remN32 d a b p => some (BitVec.ofNat 32 (0x10000048 + d.toNat * 1048576 + a.toNat * 16384 + b.toNat * 256 + p.toNat * 1))
  | .divI32Tz d a b p => some (BitVec.ofNat 32 (0x10000050 + d.toNat * 1048576 + a.toNat * 16384 + b.toNat * 256 + p.toNat * 1))
  | .divN32Tz d a b p => some (BitVec.ofNat 32 (0x10000058 + d.toNat * 1048576 + a.toNat * 16384 + b.toNat * 256 + p.toNat * 1))
  | .remI32Tz d a b p => some (BitVec.ofNat 32 (0x10000060 + d.toNat * 1048576 + a.toNat * 16384 + b.toNat * 256 + p.toNat * 1))
  | .remN32Tz d a b p => some (BitVec.ofNat 32 (0x10000068 + d.toNat * 1048576 + a.toNat * 16384 + b.toNat * 256 + p.toNat * 1))
  | .cmp d c m a b t p => some (BitVec.ofNat 32 (0x14000000 + d.toNat * 8388608 + c.toNat * 524288 + m.toNat * 131072 + a.toNat * 2048 + b.toNat * 32 + t.toNat * 8 + p.toNat * 1))
  | .fcmp d c m a b t p => some (BitVec.ofNat 32 (0x18000000 + d.toNat * 8388608 + c.toNat * 524288 + m.toNat * 131072 + a.toNat * 2048 + b.toNat * 32 + t.toNat * 8 + p.toNat * 1))
  | .fclass d m a k t p => some (BitVec.ofNat 32 (0x18780000 + d.toNat * 8388608 + m.toNat * 131072 + a.toNat * 2048 + k.toNat * 32 + t.toNat * 8 + p.toNat * 1))
  | .pand d a b p => some (BitVec.ofNat 32 (0x1c000000 + d.toNat * 1048576 + a.toNat * 16384 + b.toNat * 256 + p.toNat * 1))
  | .por d a b p => some (BitVec.ofNat 32 (0x1c000008 + d.toNat * 1048576 + a.toNat * 16384 + b.toNat * 256 + p.toNat * 1))
  | .pxor d a b p => some (BitVec.ofNat 32 (0x1c000010 + d.toNat * 1048576 + a.toNat * 16384 + b.toNat * 256 + p.toNat * 1))
  | .pnot d a p => some (BitVec.ofNat 32 (0x1c000018 + d.toNat * 1048576 + a.toNat * 16384 + p.toNat * 1))
  | .pmov d a p => some (BitVec.ofNat 32 (0x1c000020 + d.toNat * 1048576 + a.toNat * 16384 + p.toNat * 1))
  | .pmovFromScalar d a p => some (BitVec.ofNat 32 (0x1c000028 + d.toNat * 1048576 + a.toNat * 16384 + p.toNat * 1))
  | .pmovToScalar d a => some (BitVec.ofNat 32 (0x1c000030 + d.toNat * 1048576 + a.toNat * 16384))
  | .sel d a b n p => some (BitVec.ofNat 32 (0x1c000040 + d.toNat * 1048576 + a.toNat * 16384 + b.toNat * 256 + n.toNat * 8 + p.toNat * 1))
  | .fadd d a b t p => some (BitVec.ofNat 32 (0x20000000 + d.toNat * 1048576 + a.toNat * 16384 + b.toNat * 256 + t.toNat * 8 + p.toNat * 1))
  | .fsub d a b t p => some (BitVec.ofNat 32 (0x20000020 + d.toNat * 1048576 + a.toNat * 16384 + b.toNat * 256 + t.toNat * 8 + p.toNat * 1))
  | .fmul d a b t p => some (BitVec.ofNat 32 (0x20000040 + d.toNat * 1048576 + a.toNat * 16384 + b.toNat * 256 + t.toNat * 8 + p.toNat * 1))
  | .fmin d a b t p => some (BitVec.ofNat 32 (0x20000060 + d.toNat * 1048576 + a.toNat * 16384 + b.toNat * 256 + t.toNat * 8 + p.toNat * 1))
  | .fmax d a b t p => some (BitVec.ofNat 32 (0x20000080 + d.toNat * 1048576 + a.toNat * 16384 + b.toNat * 256 + t.toNat * 8 + p.toNat * 1))
  | .fabs d a t p => some (BitVec.ofNat 32 (0x200000a0 + d.toNat * 1048576 + a.toNat * 16384 + t.toNat * 8 + p.toNat * 1))
  | .fneg d a t p => some (BitVec.ofNat 32 (0x200000c0 + d.toNat * 1048576 + a.toNat * 16384 + t.toNat * 8 + p.toNat * 1))
  | .fma d a b t p => some (BitVec.ofNat 32 (0x24000000 + d.toNat * 1048576 + a.toNat * 16384 + b.toNat * 256 + t.toNat * 8 + p.toNat * 1))
  | .fms d a b t p => some (BitVec.ofNat 32 (0x24000020 + d.toNat * 1048576 + a.toNat * 16384 + b.toNat * 256 + t.toNat * 8 + p.toNat * 1))
  | .fnma d a b t p => some (BitVec.ofNat 32 (0x24000040 + d.toNat * 1048576 + a.toNat * 16384 + b.toNat * 256 + t.toNat * 8 + p.toNat * 1))
  | .fmad d a b t p => some (BitVec.ofNat 32 (0x24000060 + d.toNat * 1048576 + a.toNat * 16384 + b.toNat * 256 + t.toNat * 8 + p.toNat * 1))
  | .rcp d a t p => some (BitVec.ofNat 32 (0x28000000 + d.toNat * 1048576 + a.toNat * 16384 + t.toNat * 64 + p.toNat * 1))
  | .rsq d a t p => some (BitVec.ofNat 32 (0x28000008 + d.toNat * 1048576 + a.toNat * 16384 + t.toNat * 64 + p.toNat * 1))
  | .sqrt d a t p => some (BitVec.ofNat 32 (0x28000010 + d.toNat * 1048576 + a.toNat * 16384 + t.toNat * 64 + p.toNat * 1))
  | .exp2 d a t p => some (BitVec.ofNat 32 (0x28000018 + d.toNat * 1048576 + a.toNat * 16384 + t.toNat * 64 + p.toNat * 1))
  | .log2 d a t p => some (BitVec.ofNat 32 (0x28000020 + d.toNat * 1048576 + a.toNat * 16384 + t.toNat * 64 + p.toNat * 1))
  | .sin d a t p => some (BitVec.ofNat 32 (0x28000028 + d.toNat * 1048576 + a.toNat * 16384 + t.toNat * 64 + p.toNat * 1))
  | .cos d a t p => some (BitVec.ofNat 32 (0x28000030 + d.toNat * 1048576 + a.toNat * 16384 + t.toNat * 64 + p.toNat * 1))
  | .tanh d a t p => some (BitVec.ofNat 32 (0x28000038 + d.toNat * 1048576 + a.toNat * 16384 + t.toNat * 64 + p.toNat * 1))
  | .cvt d a t s p => some (BitVec.ofNat 32 (0x2c000000 + d.toNat * 1048576 + a.toNat * 16384 + t.toNat * 1024 + s.toNat * 64 + p.toNat * 1))
  | .cvts d a t s => some (BitVec.ofNat 32 (0x2c000008 + d.toNat * 1048576 + a.toNat * 16384 + t.toNat * 1024 + s.toNat * 64))
  | .qblk d a t l p => some (BitVec.ofNat 32 (0x30000000 + d.toNat * 1048576 + a.toNat * 16384 + t.toNat * 1024 + l.toNat * 512 + p.toNat * 1))
  | .dqblk d a t l p => some (BitVec.ofNat 32 (0x30000008 + d.toNat * 1048576 + a.toNat * 16384 + t.toNat * 1024 + l.toNat * 512 + p.toNat * 1))
  | .pack6 d a t p => some (BitVec.ofNat 32 (0x30000010 + d.toNat * 1048576 + a.toNat * 16384 + t.toNat * 1024 + p.toNat * 1))
  | .unpk6 d a t p => some (BitVec.ofNat 32 (0x30000018 + d.toNat * 1048576 + a.toNat * 16384 + t.toNat * 1024 + p.toNat * 1))
  | .lgenc d a p => some (BitVec.ofNat 32 (0x30002420 + d.toNat * 1048576 + a.toNat * 16384 + p.toNat * 1))
  | .lgdec d a p => some (BitVec.ofNat 32 (0x30002428 + d.toNat * 1048576 + a.toNat * 16384 + p.toNat * 1))
  | .shflIdx d a b p => some (BitVec.ofNat 32 (0x34000000 + d.toNat * 1048576 + a.toNat * 16384 + b.toNat * 256 + p.toNat * 1))
  | .shflUp d a c p => some (BitVec.ofNat 32 (0x34000008 + d.toNat * 1048576 + a.toNat * 16384 + c.toNat * 256 + p.toNat * 1))
  | .shflDown d a c p => some (BitVec.ofNat 32 (0x34000010 + d.toNat * 1048576 + a.toNat * 16384 + c.toNat * 256 + p.toNat * 1))
  | .shflXor d a c p => some (BitVec.ofNat 32 (0x34000018 + d.toNat * 1048576 + a.toNat * 16384 + c.toNat * 256 + p.toNat * 1))
  | .bcast d a l p => some (BitVec.ofNat 32 (0x34000020 + d.toNat * 1048576 + a.toNat * 16384 + l.toNat * 256 + p.toNat * 1))
  | .ballot d a => some (BitVec.ofNat 32 (0x34000028 + d.toNat * 1048576 + a.toNat * 16384))
  | .matchLanes d a p => some (BitVec.ofNat 32 (0x34000030 + d.toNat * 1048576 + a.toNat * 16384 + p.toNat * 1))
  | .movsr d s p => some (BitVec.ofNat 32 (0x34000038 + d.toNat * 1048576 + s.toNat * 16384 + p.toNat * 1))
  | .red d a o p => some (BitVec.ofNat 32 (0x34000040 + d.toNat * 1048576 + a.toNat * 16384 + o.toNat * 8 + p.toNat * 1))
  | .scan d a o p => some (BitVec.ofNat 32 (0x34000080 + d.toNat * 1048576 + a.toNat * 16384 + o.toNat * 8 + p.toNat * 1))
  | .mov d a p => some (BitVec.ofNat 32 (0x38000000 + d.toNat * 1048576 + a.toNat * 16384 + p.toNat * 1))
  | .movi d i p => some (BitVec.ofNat 32 (0x38000800 + d.toNat * 1048576 + i.toNat * 8 + p.toNat * 1))
  | .movhi d i p => some (BitVec.ofNat 32 (0x38001000 + d.toNat * 1048576 + i.toNat * 8 + p.toNat * 1))
  | .movx d x i p => some (BitVec.ofNat 32 (0x38001800 + d.toNat * 1048576 + x.toNat * 16384 + i.toNat * 8 + p.toNat * 1))
  | .movxw x a i p => some (BitVec.ofNat 32 (0x38002000 + x.toNat * 1048576 + a.toNat * 16384 + i.toNat * 8 + p.toNat * 1))
  | .xset x a i p => some (BitVec.ofNat 32 (0x38002800 + x.toNat * 1048576 + a.toNat * 16384 + i.toNat * 8 + p.toNat * 1))
  | .xadd x i p => some (BitVec.ofNat 32 (0x38003000 + x.toNat * 1048576 + i.toNat * 8 + p.toNat * 1))
  | .movv2s d a l => some (BitVec.ofNat 32 (0x38003800 + d.toNat * 1048576 + a.toNat * 16384 + l.toNat * 8))
  | .movs2v d a p => some (BitVec.ofNat 32 (0x38003c00 + d.toNat * 1048576 + a.toNat * 16384 + p.toNat * 1))
  | .sadd d a b => some (BitVec.ofNat 32 (0x3c000000 + d.toNat * 2097152 + a.toNat * 65536 + b.toNat * 2048))
  | .ssub d a b => some (BitVec.ofNat 32 (0x3c000008 + d.toNat * 2097152 + a.toNat * 65536 + b.toNat * 2048))
  | .smul d a b => some (BitVec.ofNat 32 (0x3c000010 + d.toNat * 2097152 + a.toNat * 65536 + b.toNat * 2048))
  | .sand d a b => some (BitVec.ofNat 32 (0x3c000018 + d.toNat * 2097152 + a.toNat * 65536 + b.toNat * 2048))
  | .sor d a b => some (BitVec.ofNat 32 (0x3c000020 + d.toNat * 2097152 + a.toNat * 65536 + b.toNat * 2048))
  | .sxor d a b => some (BitVec.ofNat 32 (0x3c000028 + d.toNat * 2097152 + a.toNat * 65536 + b.toNat * 2048))
  | .sshl d a b => some (BitVec.ofNat 32 (0x3c000030 + d.toNat * 2097152 + a.toNat * 65536 + b.toNat * 2048))
  | .sshr d a b => some (BitVec.ofNat 32 (0x3c000038 + d.toNat * 2097152 + a.toNat * 65536 + b.toNat * 2048))
  | .sminI64 d a b => some (BitVec.ofNat 32 (0x3c000040 + d.toNat * 2097152 + a.toNat * 65536 + b.toNat * 2048))
  | .sminN64 d a b => some (BitVec.ofNat 32 (0x3c000048 + d.toNat * 2097152 + a.toNat * 65536 + b.toNat * 2048))
  | .smaxI64 d a b => some (BitVec.ofNat 32 (0x3c000050 + d.toNat * 2097152 + a.toNat * 65536 + b.toNat * 2048))
  | .smaxN64 d a b => some (BitVec.ofNat 32 (0x3c000058 + d.toNat * 2097152 + a.toNat * 65536 + b.toNat * 2048))
  | .smov d a => some (BitVec.ofNat 32 (0x3c000060 + d.toNat * 2097152 + a.toNat * 65536))
  | .scmpI64 d a b c => some (BitVec.ofNat 32 (0x3c000080 + d.toNat * 2097152 + a.toNat * 65536 + b.toNat * 2048 + c.toNat * 8))
  | .scmpN64 d a b c => some (BitVec.ofNat 32 (0x3c0000c0 + d.toNat * 2097152 + a.toNat * 65536 + b.toNat * 2048 + c.toNat * 8))
  | .saddi d a i => some (BitVec.ofNat 32 (0x40000000 + d.toNat * 2097152 + a.toNat * 65536 + i.toNat * 1))
  | .sandi d a i => some (BitVec.ofNat 32 (0x40002000 + d.toNat * 2097152 + a.toNat * 65536 + i.toNat * 1))
  | .sshli d a i => some (BitVec.ofNat 32 (0x40004000 + d.toNat * 2097152 + a.toNat * 65536 + i.toNat * 1))
  | .sshri d a i => some (BitVec.ofNat 32 (0x40006000 + d.toNat * 2097152 + a.toNat * 65536 + i.toNat * 1))
  | .smovi d i => some (BitVec.ofNat 32 (0x40008000 + d.toNat * 2097152 + i.toNat * 1))
  | .sld d a b p => some (BitVec.ofNat 32 (0x44000000 + d.toNat * 1048576 + a.toNat * 16384 + b.toNat * 256 + p.toNat * 1))
  | .sst d a b p => some (BitVec.ofNat 32 (0x44000008 + d.toNat * 1048576 + a.toNat * 16384 + b.toNat * 256 + p.toNat * 1))
  | .scmp d a b p => some (BitVec.ofNat 32 (0x44000010 + d.toNat * 1048576 + a.toNat * 16384 + b.toNat * 256 + p.toNat * 1))
  | .sfindb d a b p => some (BitVec.ofNat 32 (0x44000018 + d.toNat * 1048576 + a.toNat * 16384 + b.toNat * 256 + p.toNat * 1))
  | .sfold d a p => some (BitVec.ofNat 32 (0x44000020 + d.toNat * 1048576 + a.toNat * 16384 + p.toNat * 1))
  | .smatch d a b p => some (BitVec.ofNat 32 (0x44000028 + d.toNat * 1048576 + a.toNat * 16384 + b.toNat * 256 + p.toNat * 1))
  | .hcrc d a b p => some (BitVec.ofNat 32 (0x48000000 + d.toNat * 1048576 + a.toNat * 16384 + b.toNat * 256 + p.toNat * 1))
  | .hmix d a p => some (BitVec.ofNat 32 (0x48000008 + d.toNat * 1048576 + a.toNat * 16384 + p.toNat * 1))
  | .rhash d a b p => some (BitVec.ofNat 32 (0x48000010 + d.toNat * 1048576 + a.toNat * 16384 + b.toNat * 256 + p.toNat * 1))
  | .pbin d a b p => some (BitVec.ofNat 32 (0x48000018 + d.toNat * 1048576 + a.toNat * 16384 + b.toNat * 256 + p.toNat * 1))
  | .bez s o => some (BitVec.ofNat 32 (0x60000000 + s.toNat * 262144 + o.toNat * 1))
  | .bnz s o => some (BitVec.ofNat 32 (0x60800000 + s.toNat * 262144 + o.toNat * 1))
  | .bltz s o => some (BitVec.ofNat 32 (0x61000000 + s.toNat * 262144 + o.toNat * 1))
  | .bgez s o => some (BitVec.ofNat 32 (0x61800000 + s.toNat * 262144 + o.toNat * 1))
  | .bgtz s o => some (BitVec.ofNat 32 (0x62000000 + s.toNat * 262144 + o.toNat * 1))
  | .blez s o => some (BitVec.ofNat 32 (0x62800000 + s.toNat * 262144 + o.toNat * 1))
  | .loopW s o => some (BitVec.ofNat 32 (0x6c000000 + s.toNat * 262144 + o.toNat * 1))
  | .jmp o => some (BitVec.ofNat 32 (0x64000000 + o.toNat * 1))
  | .callW l o => some (BitVec.ofNat 32 (0x65000000 + l.toNat * 1048576 + o.toNat * 1))
  | .jmpi s => some (BitVec.ofNat 32 (0x66000000 + s.toNat * 1))
  | .ret => some (BitVec.ofNat 32 (0x66010000))
  | .exitW => some (BitVec.ofNat 32 (0x66020000))
  | .trapW c => some (BitVec.ofNat 32 (0x66030000 + c.toNat * 1))
  | .brp p o => some (BitVec.ofNat 32 (0x68000000 + p.toNat * 1048576 + o.toNat * 1))
  | .regang o => some (BitVec.ofNat 32 (0x68800000 + o.toNat * 1))
  | .rcv => some (BitVec.ofNat 32 (0x69000000))
  | .ld d b o w y p => some (BitVec.ofNat 32 (0x80000000 + d.toNat * 1048576 + b.toNat * 131072 + o.toNat * 2048 + w.toNat * 256 + y.toNat * 128 + p.toNat * 1))
  | .ldAcq d b o w s p => some (BitVec.ofNat 32 (0x80000008 + d.toNat * 1048576 + b.toNat * 131072 + o.toNat * 2048 + w.toNat * 256 + s.toNat * 16 + p.toNat * 1))
  | .st d b o w y p => some (BitVec.ofNat 32 (0x84000000 + d.toNat * 1048576 + b.toNat * 131072 + o.toNat * 2048 + w.toNat * 256 + y.toNat * 128 + p.toNat * 1))
  | .stRel d b o w s p => some (BitVec.ofNat 32 (0x84000008 + d.toNat * 1048576 + b.toNat * 131072 + o.toNat * 2048 + w.toNat * 256 + s.toNat * 16 + p.toNat * 1))
  | .lds d o w y t p => some (BitVec.ofNat 32 (0x88000000 + d.toNat * 1048576 + o.toNat * 2048 + w.toNat * 256 + y.toNat * 128 + t.toNat * 16 + p.toNat * 1))
  | .sts d o w y t p => some (BitVec.ofNat 32 (0x8c000000 + d.toNat * 1048576 + o.toNat * 2048 + w.toNat * 256 + y.toNat * 128 + t.toNat * 16 + p.toNat * 1))
  | .atomAdd d b o a t p => some (BitVec.ofNat 32 (0x90000000 + d.toNat * 1048576 + b.toNat * 131072 + o.toNat * 8192 + a.toNat * 512 + t.toNat * 8 + p.toNat * 1))
  | .atomMin d b o a t p => some (BitVec.ofNat 32 (0x90000020 + d.toNat * 1048576 + b.toNat * 131072 + o.toNat * 8192 + a.toNat * 512 + t.toNat * 8 + p.toNat * 1))
  | .atomMax d b o a t p => some (BitVec.ofNat 32 (0x90000040 + d.toNat * 1048576 + b.toNat * 131072 + o.toNat * 8192 + a.toNat * 512 + t.toNat * 8 + p.toNat * 1))
  | .atomAnd d b o a t p => some (BitVec.ofNat 32 (0x90000060 + d.toNat * 1048576 + b.toNat * 131072 + o.toNat * 8192 + a.toNat * 512 + t.toNat * 8 + p.toNat * 1))
  | .atomOr d b o a t p => some (BitVec.ofNat 32 (0x90000080 + d.toNat * 1048576 + b.toNat * 131072 + o.toNat * 8192 + a.toNat * 512 + t.toNat * 8 + p.toNat * 1))
  | .atomXor d b o a t p => some (BitVec.ofNat 32 (0x900000a0 + d.toNat * 1048576 + b.toNat * 131072 + o.toNat * 8192 + a.toNat * 512 + t.toNat * 8 + p.toNat * 1))
  | .atomXchg d b o a t p => some (BitVec.ofNat 32 (0x900000c0 + d.toNat * 1048576 + b.toNat * 131072 + o.toNat * 8192 + a.toNat * 512 + t.toNat * 8 + p.toNat * 1))
  | .atomCas d b o a t p => some (BitVec.ofNat 32 (0x900000e0 + d.toNat * 1048576 + b.toNat * 131072 + o.toNat * 8192 + a.toNat * 512 + t.toNat * 8 + p.toNat * 1))
  | .atomFadd d b o a t p => some (BitVec.ofNat 32 (0x90000100 + d.toNat * 1048576 + b.toNat * 131072 + o.toNat * 8192 + a.toNat * 512 + t.toNat * 8 + p.toNat * 1))
  | .atomg d b o a t p => some (BitVec.ofNat 32 (0x90000120 + d.toNat * 1048576 + b.toNat * 131072 + o.toNat * 8192 + a.toNat * 512 + t.toNat * 8 + p.toNat * 1))
  | .atomsAdd d o a t p => some (BitVec.ofNat 32 (0x94000000 + d.toNat * 1048576 + o.toNat * 8192 + a.toNat * 512 + t.toNat * 8 + p.toNat * 1))
  | .atomsMin d o a t p => some (BitVec.ofNat 32 (0x94000020 + d.toNat * 1048576 + o.toNat * 8192 + a.toNat * 512 + t.toNat * 8 + p.toNat * 1))
  | .atomsMax d o a t p => some (BitVec.ofNat 32 (0x94000040 + d.toNat * 1048576 + o.toNat * 8192 + a.toNat * 512 + t.toNat * 8 + p.toNat * 1))
  | .atomsAnd d o a t p => some (BitVec.ofNat 32 (0x94000060 + d.toNat * 1048576 + o.toNat * 8192 + a.toNat * 512 + t.toNat * 8 + p.toNat * 1))
  | .atomsOr d o a t p => some (BitVec.ofNat 32 (0x94000080 + d.toNat * 1048576 + o.toNat * 8192 + a.toNat * 512 + t.toNat * 8 + p.toNat * 1))
  | .atomsXor d o a t p => some (BitVec.ofNat 32 (0x940000a0 + d.toNat * 1048576 + o.toNat * 8192 + a.toNat * 512 + t.toNat * 8 + p.toNat * 1))
  | .atomsXchg d o a t p => some (BitVec.ofNat 32 (0x940000c0 + d.toNat * 1048576 + o.toNat * 8192 + a.toNat * 512 + t.toNat * 8 + p.toNat * 1))
  | .atomsCas d o a t p => some (BitVec.ofNat 32 (0x940000e0 + d.toNat * 1048576 + o.toNat * 8192 + a.toNat * 512 + t.toNat * 8 + p.toNat * 1))
  | .atomsFadd d o a t p => some (BitVec.ofNat 32 (0x94000100 + d.toNat * 1048576 + o.toNat * 8192 + a.toNat * 512 + t.toNat * 8 + p.toNat * 1))
  | .atomgScratch d o a t p => some (BitVec.ofNat 32 (0x94000120 + d.toNat * 1048576 + o.toNat * 8192 + a.toNat * 512 + t.toNat * 8 + p.toNat * 1))
  | .sdist d b o p => some (BitVec.ofNat 32 (0x98000000 + d.toNat * 1048576 + b.toNat * 131072 + o.toNat * 2048 + p.toNat * 1))
  | .spin d b o p => some (BitVec.ofNat 32 (0x98000100 + d.toNat * 1048576 + b.toNat * 131072 + o.toNat * 2048 + p.toNat * 1))
  | .sunpin b o p => some (BitVec.ofNat 32 (0x98000200 + b.toNat * 131072 + o.toNat * 2048 + p.toNat * 1))
  | .sbyp b o p => some (BitVec.ofNat 32 (0x98000300 + b.toNat * 131072 + o.toNat * 2048 + p.toNat * 1))
  | .sclr b o p => some (BitVec.ofNat 32 (0x98000400 + b.toNat * 131072 + o.toNat * 2048 + p.toNat * 1))
  | .stouch b o p => some (BitVec.ofNat 32 (0x98000500 + b.toNat * 131072 + o.toNat * 2048 + p.toNat * 1))
  | .bset n s => some (BitVec.ofNat 32 (0x9c000000 + n.toNat * 2097152 + s.toNat * 65536))
  | .blim n s => some (BitVec.ofNat 32 (0x9c000008 + n.toNat * 2097152 + s.toNat * 65536))
  | .lduB32 d n => some (BitVec.ofNat 32 (0x9c000010 + d.toNat * 2097152 + n.toNat * 65536))
  | .lduB64 d n => some (BitVec.ofNat 32 (0x9c000018 + d.toNat * 2097152 + n.toNat * 65536))
  | .waitc l s b t => some (BitVec.ofNat 32 (0xa0000000 + l.toNat * 262144 + s.toNat * 4096 + b.toNat * 256 + t.toNat * 8))
  | .waitb s => some (BitVec.ofNat 32 (0xa1000000 + s.toNat * 524288))
  | .waitv b s => some (BitVec.ofNat 32 (0xa2000000 + b.toNat * 2097152 + s.toNat * 65536))
  | .yieldW => some (BitVec.ofNat 32 (0xa3000000))
  | .binit s w => some (BitVec.ofNat 32 (0xa4000000 + s.toNat * 2097152 + w.toNat * 4096))
  | .barv w => some (BitVec.ofNat 32 (0xa4000008 + w.toNat * 4096))
  | .bexp s w => some (BitVec.ofNat 32 (0xa4000010 + s.toNat * 2097152 + w.toNat * 4096))
  | .bwait s w => some (BitVec.ofNat 32 (0xa4000018 + s.toNat * 2097152 + w.toNat * 4096))
  | .btest d w => some (BitVec.ofNat 32 (0xa4000020 + d.toNat * 2097152 + w.toNat * 4096))
  | .fence s => some (BitVec.ofNat 32 (0xa8000000 + s.toNat * 4096))
  | .fencex => some (BitVec.ofNat 32 (0xa8000008))
  | .cpy s w q => some (BitVec.ofNat 32 (0xac000000 + s.toNat * 2097152 + w.toNat * 4096 + q.toNat * 2048))
  | .cpyg s w q => some (BitVec.ofNat 32 (0xac000008 + s.toNat * 2097152 + w.toNat * 4096 + q.toNat * 2048))
  | .cpys s w q => some (BitVec.ofNat 32 (0xac000010 + s.toNat * 2097152 + w.toNat * 4096 + q.toNat * 2048))
  | .cpyc s w q => some (BitVec.ofNat 32 (0xac000018 + s.toNat * 2097152 + w.toNat * 4096 + q.toNat * 2048))
  | .close d => some (BitVec.ofNat 32 (0xac000020 + d.toNat * 2097152))
  | .emit a b => some (BitVec.ofNat 32 (0xb0000000 + a.toNat * 2097152 + b.toNat * 65536))
  | .emitNb a b n => some (BitVec.ofNat 32 (0xb0000008 + a.toNat * 2097152 + b.toNat * 65536 + n.toNat * 4096))
  | .rdsys d n => some (BitVec.ofNat 32 (0xf4000000 + d.toNat * 2097152 + n.toNat * 1))
  | .wrsys s n => some (BitVec.ofNat 32 (0xf4002000 + s.toNat * 65536 + n.toNat * 1))
  | .tick d => some (BitVec.ofNat 32 (0xf4004000 + d.toNat * 2097152))
  | .cyc d => some (BitVec.ofNat 32 (0xf4006000 + d.toNat * 2097152))
  | .timerRes s => some (BitVec.ofNat 32 (0xf4008000 + s.toNat * 65536))
  | .timerWall s => some (BitVec.ofNat 32 (0xf4008001 + s.toNat * 65536))
  | .haltx c => some (BitVec.ofNat 32 (0xf400a000 + c.toNat * 1))
  | .shoot s => some (BitVec.ofNat 32 (0xf400c000 + s.toNat * 65536))
  | .mmq c a o f r k p => some (BitVec.ofNat 32 (0xc0000000 + c.toNat * 4194304 + a.toNat * 65536 + o.toNat * 8192 + f.toNat * 512 + r.toNat * 256 + k.toNat * 8 + p.toNat * 1))
  | .mms c a o f r k p => some (BitVec.ofNat 32 (0xc4000000 + c.toNat * 4194304 + a.toNat * 65536 + o.toNat * 8192 + f.toNat * 512 + r.toNat * 256 + k.toNat * 8 + p.toNat * 1))
  | .obres s o => some (BitVec.ofNat 32 (0xc8000000 + s.toNat * 2097152 + o.toNat * 512))
  | .obrel o => some (BitVec.ofNat 32 (0xc8000008 + o.toNat * 512))
  | .obld s t o => some (BitVec.ofNat 32 (0xc8000010 + s.toNat * 2097152 + t.toNat * 65536 + o.toNat * 512))
  | .scfifo s o => some (BitVec.ofNat 32 (0xcc000000 + s.toNat * 2097152 + o.toNat * 512))
  | .scpush s t => some (BitVec.ofNat 32 (0xcc000008 + s.toNat * 2097152 + t.toNat * 65536))
  | .sccache s t => some (BitVec.ofNat 32 (0xcc000010 + s.toNat * 2097152 + t.toNat * 65536))
  | .accz c => some (BitVec.ofNat 32 (0xd0000000 + c.toNat * 4096))
  | .accld s c => some (BitVec.ofNat 32 (0xd0000008 + s.toNat * 2097152 + c.toNat * 4096))
  | .accst s c => some (BitVec.ofNat 32 (0xd0000010 + s.toNat * 2097152 + c.toNat * 4096))
  | .accrst i => some (BitVec.ofNat 32 (0xd0000018 + i.toNat * 2097152))
  | .snput d a b => some (BitVec.ofNat 32 (0xf0000000 + d.toNat * 1048576 + a.toNat * 16384 + b.toNat * 256))
  | .snfind d a b => some (BitVec.ofNat 32 (0xf0000008 + d.toNat * 1048576 + a.toNat * 16384 + b.toNat * 256))
  | .snget d a => some (BitVec.ofNat 32 (0xf0000010 + d.toNat * 1048576 + a.toNat * 16384))
  | .snrel a => some (BitVec.ofNat 32 (0xf0000018 + a.toNat * 16384))
  | .kvmap d a b p => some (BitVec.ofNat 32 (0xf0000020 + d.toNat * 1048576 + a.toNat * 16384 + b.toNat * 256 + p.toNat * 1))
  | .kvapp d a b p => some (BitVec.ofNat 32 (0xf0000028 + d.toNat * 1048576 + a.toNat * 16384 + b.toNat * 256 + p.toNat * 1))
  | .kvcommit a b => some (BitVec.ofNat 32 (0xf0000030 + a.toNat * 16384 + b.toNat * 256))
  | .kvfree a => some (BitVec.ofNat 32 (0xf0000038 + a.toNat * 16384))
  | .himm p => some (BitVec.ofNat 32 (0xfc000000 + p.toNat * 1))
  | .hoff p => some (BitVec.ofNat 32 (0xfc400000 + p.toNat * 1))
  | .hsched m s y => some (BitVec.ofNat 32 (0xfc800000 + m.toNat * 32 + s.toNat * 2 + y.toNat * 1))
  | .hmod i f s m => some (BitVec.ofNat 32 (0xfcc00000 + i.toNat * 32 + f.toNat * 16 + s.toNat * 8 + m.toNat * 1))
  | .hreg r => some (BitVec.ofNat 32 (0xfd000000 + r.toNat * 1))
  | .hscope o s => some (BitVec.ofNat 32 (0xfd400000 + o.toNat * 16 + s.toNat * 1))
  | .hareg a o => some (BitVec.ofNat 32 (0xfd800000 + a.toNat * 4 + o.toNat * 1))
  | .hmark m => some (BitVec.ofNat 32 (0xfdc00000 + m.toNat * 1))
  | .loadReturn .. => none
  | .matrixWordComplete .. => none
  | .joinComplete .. => none
  | .rcvRelease .. => none
  | .timerFire .. => none
  | .yieldExpire .. => none
  | .handlerFormation .. => none
  | .trapRelease .. => none
  | .jobAccept .. => none
  | .jobLand .. => none
  | .jobComplete .. => none
  | .jobStop .. => none
  | .engineStep .. => none
  | .admission .. => none
  | .fillLands .. => none
  | .writeBackAtHome .. => none
  | .drainRequest .. => none
  | .maskDrain .. => none
  | .backInvalidation .. => none
  | .hostSnoop .. => none
  | .hostRead .. => none
  | .hostWrite .. => none
  | .peerRequest .. => none
  | .flitReceive .. => none
  | .replay .. => none
  | .linkRetrain .. => none
  | .hold .. => none
  | .go .. => none
  | .poolLinkLost .. => none
  | .degradedService .. => none
  | .serviceRestored .. => none
  | .online .. => none
  | .regionFence .. => none
  | .rehome .. => none
  | .discard .. => none
  | .closeRefuse .. => none
  | .closeDrain .. => none
  | .openSluice .. => none
  | .sluiceClosed .. => none
  | .pshapeWrite .. => none
  | .biasFlip .. => none
  | .qtailWrite .. => none
  | .qcfgWrite .. => none
  | .tokenWrite .. => none
  | .noOperation .. => none
  | .kernelLaunch .. => none
  | .signalOnly .. => none
  | .prefixLookup .. => none
  | .launchComplete .. => none
  | .placeTeam .. => none
  | .candidateReserved .. => none
  | .forwardProgressSwap .. => none
  | .dispatchRecord .. => none
  | .nodeTeamCreate .. => none
  | .nodeTimeout .. => none
  | .create .. => none
  | .quota .. => none
  | .sync .. => none
  | .preempt .. => none
  | .resume .. => none
  | .teardown .. => none
  | .shootall .. => none
  | .retry .. => none
  | .deny .. => none
  | .dupfill .. => none
  | .spflush .. => none
  | .broleWrite .. => none
  | .pipeRatioWrite .. => none
  | .thset .. => none
  | .featonWrite .. => none
  | .sensorSample .. => none
  | .refresh .. => none
  | .thermalWindow .. => none
  | .scrub .. => none
  | .retentionEntry .. => none
  | .retentionExit .. => none
  | .reset .. => none
  | .powerLoss .. => none
  | .releaseFromReset .. => none
  | .readySet .. => none
  | .getVersion .. => none
  | .getCapabilities .. => none
  | .negotiateAlgorithms .. => none
  | .getDigests .. => none
  | .getCertificate .. => none
  | .challenge .. => none
  | .getMeasurements .. => none
  | .keyExchange .. => none
  | .finish .. => none
  | .keyLoad .. => none
  | .stopTick .. => none
  | .execWords .. => none
  | .dbgResume .. => none
  | .halt .. => none
  | .clr .. => none
  | .regWrite .. => none
  | .notAnInstruction .. => none
  | .lineFill .. => none
  | .motionEnd .. => none
  | .cycleEnd .. => none
  | .poolLinkUp .. => none
  | .linkTrained .. => none
  | .sncfgWrite .. => none
  | .fqheadWrite .. => none
  | .fqcfgWrite .. => none
  | .readClear .. => none
  | .serviceKernel .. => none

end Sys2Proof
end

