-- ==== Sys2Proof/Machine/EvRegs.lean ====
section
/-! DEFINITION. Registers reached from outside a group's words: a core's, through the IEEE 1149.1 port and the configuration path
(20 R498, 23 R528), and those in BAR0 of a polder's function (15 R400 to R403, R422, 16 R426, R435, 17 R446, 19 R477, R489). A space
below 256 is a core; 256 + p is the function of polder p, whose registers are numbered by byte offset. -/
namespace Sys2Proof.Machine

/-- The state of a next outcome. -/
def stateOf (o : Out) (s : State) : State :=
  match o with
  | .next t => t
  | _ => s

/-- A core's registers as the port reaches them: at fw level, the group's own being those of the group DBGSEL selects. -/
def State.portAcc (s : State) (core : Nat) : RegAcc :=
  { core := core, ref := s.dbgTarget core, level := 2, agent := core, stuffed := false }

/-- A write through the port. -/
def State.portWrite (s : State) (core n : Nat) (v : DWord) : State := (s.regWrite (s.portAcc core) n v).getD s

/-- A write of CTXCMD (R426): ignored while BUSY = 1; with OP = 0 it writes CTX and starts nothing. -/
def State.ctxCmd (s : State) (p : Nat) (v : DWord) : State :=
  let x := (v.extractLsb' 0 6).toNat
  if (s.polder p).cmdBusy then s
  else
    match (v.extractLsb' 8 3).toNat with
    | 1 => stateOf (execCreate p x s) s
    | 2 => stateOf (execQuota p x s) s
    | 3 => stateOf (execSync p x s) s
    | 4 => stateOf (execPreempt p x s) s
    | 5 => stateOf (execResume p x s) s
    | 6 => stateOf (execTeardown p x s) s
    | 7 => stateOf (execShootall p x s) s
    | _ => s.modPolder p (fun k => { k with cmdCtx := v.extractLsb' 0 6 })

/-- A write of FQRESP (R435). -/
def State.faultResp (s : State) (p : Nat) (v : DWord) : State :=
  let s1 := s.modPolder p (fun x => { x with
    fq := { x.fq with respOp := v.extractLsb' 62 2, respFrame := v.extractLsb' 16 36, respIndex := v.extractLsb' 0 16 } })
  let n := (v.extractLsb' 0 16).toNat
  match (v.extractLsb' 62 2).toNat with
  | 0 => s1.retryEntry p n
  | 1 => s1.denyEntry p n
  | 2 => s1.dupfillEntry p n (v.extractLsb' 16 36).toNat
  | _ => s1

/-- A write in BAR0 of a polder's function. -/
def State.barWrite (s : State) (p off : Nat) (v : DWord) : State :=
  if !s.present p then s
  else
    match off with
    | 0x200 => s.modPolder p (fun x => { x with ctxTab := v.extractLsb' 14 38 })
    | 0x208 => s.ctxCmd p v
    | 0x300 => s.modPolder p (fun x => if x.fq.enable then x else { x with fq := { x.fq with base := v.extractLsb' 5 47 } })
    | 0x308 => stateOf (execFqcfgWrite p v s) s
    | 0x310 => stateOf (execFqheadWrite p v s) s
    | 0x320 => s.faultResp p v
    | 0x400 => s.modEng p (fun e => if e.enable then e else { e with snTab := v.extractLsb' 21 31 })
    | 0x408 => s.modEng p (fun e => if e.enable then e else { e with snTrees := v.extractLsb' 13 39 })
    | 0x410 => s.sncfg p v
    | 0x420 => s.modEng p (fun e => if e.enable then e else { e with kvTab := v.extractLsb' 13 39 })
    | 0x500 => s.biasCmd p v
    | 0x800 => if s.ovfUsed p = 0 then s.modPolder p (fun x => { x with plovf := v.extractLsb' 6 46 }) else s
    | 0x808 => if s.ovfUsed p = 0 then s.modPolder p (fun x => { x with plovfn := v.extractLsb' 0 24 }) else s
    | n =>
      if 0x1000 ≤ n ∧ n < 0x2000 then
        let q := (n - 0x1000) / 32
        match n % 32 with
        | 0 => stateOf (execQcfgWrite p q v s) s
        | 8 => s.modQueue p q (fun k => if k.enable then k else { k with base := v.extractLsb' 8 44 })
        | 16 => stateOf (execQtailWrite p q v s) s
        | _ => s
      else if 0x8000 ≤ n ∧ n < 0x10000 ∧ n % 8 = 0 then stateOf (execTokenWrite p ((n - 0x8000) / 8) v s) s
      else s

/-- What a register in BAR0 of a polder's function holds. -/
def State.barValue (s : State) (p off : Nat) : DWord :=
  let d := s.polder p
  let e := d.eng
  match off with
  | 0x200 => fields [(d.ctxTab.toNat, 14)]
  | 0x208 => fields [(d.cmdBusy.toNat, 63), (d.cmdStatus.toNat, 48), (d.cmdCtx.toNat, 0)]
  | 0x300 => fields [(d.fq.base.toNat, 5)]
  | 0x308 => fields [(d.fq.enable.toNat, 31), (d.fq.logSize.toNat, 0)]
  | 0x310 => d.fq.head.setWidth 64
  | 0x318 => d.fq.tail.setWidth 64
  | 0x320 => fields [(d.fq.respOp.toNat, 62), (d.fq.respFrame.toNat, 16), (d.fq.respIndex.toNat, 0)]
  | 0x400 => fields [(e.snTab.toNat, 21)]
  | 0x408 => fields [(e.snTrees.toNat, 13)]
  | 0x410 => fields [(e.enable.toNat, 31), (e.logNodes.toNat, 0)]
  | 0x418 => fields [(e.evict.toNat, 40), (e.dedup.toNat, 16), (e.badRel.toNat, 0)]
  | 0x420 => fields [(e.kvTab.toNat, 13)]
  | 0x500 => fields [(d.biasOps.isSome.toNat, 63), (d.biasTo.toNat, 62), (d.biasPage.toNat, 16), (d.biasStatus.toNat, 0)]
  | 0x800 => fields [(d.plovf.toNat, 6)]
  | 0x808 => d.plovfn.setWidth 64
  | 0x810 => fields [(s.ovfUsed p, 24), (s.stored p, 0)]
  | n =>
    if 0x1000 ≤ n ∧ n < 0x2000 then
      let k := s.queue p ((n - 0x1000) / 32)
      match n % 32 with
      | 0 => fields [(k.enable.toNat, 31), (k.logSize.toNat, 24), (k.ctx.toNat, 8), (k.prio.toNat, 0)]
      | 8 => fields [(k.base.toNat, 8)]
      | 16 => k.tail.setWidth 64
      | 24 => k.head.setWidth 64
      | _ => 0
    else if 0x8000 ≤ n ∧ n < 0x10000 ∧ n % 8 = 0 then (s.token p ((n - 0x8000) / 8)).setWidth 64
    else 0

/-- What a read in BAR0 returns; the BAR0 of an absent function is not decoded, and a read there returns all ones (19 R477, log 93). -/
def State.barRead (s : State) (p off : Nat) : DWord := if s.present p then s.barValue p off else BitVec.allOnes 64

/-- What a configuration read of a polder's function returns (R477): all ones where the function is absent; of a present one the spec gives no
register, and its word is a free value (log 93). -/
def State.configRead (s : State) (p off : Nat) : BitVec 32 := if s.present p then Config.configWord p off else BitVec.allOnes 32

/-- The ranges that the HDM decoder of a polder's function covers: the polder's exposed ones (R477, R488). -/
def State.hdmRanges (s : State) (p : Nat) : List Range := if s.present p then (s.ranges p).filter (fun r => r.host) else []

/-- The CXL.cache agent through which a quarter's accesses reach host memory: that of its polder's function (R477). -/
def State.cacheAgent (s : State) (q : Nat) : Nat := s.polderOf q

/-- What a read in BAR0 clears (R25, R446). -/
def State.barCleared (s : State) (p off : Nat) : State :=
  if off = 0x418 ∧ s.present p then s.modEng p (fun e => { e with evict := 0, dedup := 0, badRel := 0 }) else s

/-- REG_WRITE (R25). -/
def execRegWrite (space num : Nat) (v : DWord) (s : State) : Out :=
  .next (if space < 256 then s.portWrite space num v else s.barWrite (space - 256) num v)

/-- READ_CLEAR (R25): the RC fields of a register that is read. -/
def execReadClear (space num : Nat) (s : State) : Out :=
  .next (if space < 256 then ((s.regRead (s.portAcc space) num).map Prod.fst).getD s else s.barCleared (space - 256) num)

end Sys2Proof.Machine
end

