-- ==== Sys2Proof/Machine/Holds.lean ====
section
/-! DEFINITION. What keeps an offered word from issuing in a cycle (02 R49, R53, R64, R65, R68 to R73, 06 R203, 21 R512). -/
namespace Sys2Proof.Machine

/-- Whether a word raises ld (07 R251). -/
def raisesLd (i : Instr) : Bool :=
  [0x20, 0x22, 0x24, 0x25].contains (majorOf i) ||
  (match i with
  | .lduB32 .. | .lduB64 .. | .sdist .. | .spin .. | .snput .. | .snfind .. | .snget .. | .kvmap .. | .kvapp .. | .kvcommit .. => true
  | _ => false)

/-- Whether a word raises st. -/
def raisesSt (i : Instr) : Bool := [0x21, 0x23].contains (majorOf i)

/-- Whether a word is of the matrix majors, which raise tl. -/
def isMatrix (i : Instr) : Bool := 0x30 ≤ majorOf i && majorOf i ≤ 0x34

/-- Whether a word seals the batch of its group, so that bt rises (07 R252, R279). -/
def seals (c : Cx) (i : Instr) : Bool :=
  match i with
  | .close _ => true
  | .fencex | .exitW => c.grp.role == .producer
  | _ => false

/-- A copy word. -/
def isCopy (i : Instr) : Bool :=
  match i with
  | .cpy .. | .cpyg .. | .cpys .. | .cpyc .. => true
  | _ => false

/-- A counter that a word would raise stands at its maximum (R53), or, for a copy word, 32 jobs are not complete, which holds it as R53 does
(08 R282). -/
def State.countersFull (s : State) (c : Cx) (i : Instr) : Bool :=
  (raisesLd i && 63 ≤ s.ldCount c.ref) || (raisesSt i && 63 ≤ s.stCount c.ref) || (isMatrix i && 31 ≤ s.tlCount c.ref) ||
  (seals c i && sealHeld c) || (isCopy i && 32 ≤ (c.team.jobs.filter (fun j => j.state != .done)).length)

/-- The lines locked as destinations on a core (R65): team, group, line, each once. -/
def State.lockedLines (s : State) (core : Nat) : List (Nat × Nat × Nat) :=
  ((s.ops.filter (fun o => ((s.team? o.team).bind Team.core?) == some core && o.kind.hasResult && !o.kind.isUniform)).flatMap (fun o =>
    (List.range (max 1 (o.width / 32))).map (fun k => (o.team, o.group, o.dst + k)))).eraseDups

/-- A word would bring the number of locked lines above 256·g − 16 (R65). -/
def State.locksTooMany (s : State) (c : Cx) (i : Instr) : Bool :=
  let locked := s.lockedLines c.core
  let more := ((lockLines c.grp c.hs i).map (fun n => (c.ref.team, c.ref.g, n))).filter (fun l => !locked.contains l)
  more != [] && decide (256 * roleBanks (s.core c.core).regs.brole 1 < locked.length + more.length + 16)

/-- Units of a heavy word's charge (R70, R71). -/
def unitsOf64 (charge : Nat) : Nat := (charge + 63) / 64

/-- Units of the heavy words of the present cycle. -/
def CoreClk.unitsNow (k : CoreClk) : Nat := ((k.issued.filter Issued.heavy).map (fun w => unitsOf64 w.charge)).foldl (· + ·) 0

/-- Charges of the present cycle. -/
def CoreClk.chargeNow (k : CoreClk) : Nat := (k.issued.map Issued.charge).foldl (· + ·) 0

/-- Fewer than 8 heavy words issued in the previous 16 cycles (R70). -/
def CoreClk.ramping (k : CoreClk) : Bool := k.heavyHist.foldl (· + ·) 0 < 8

/-- What the ramping cores of a quarter have drawn in the present cycle (R70). -/
def State.draws (s : State) (q : Nat) : Nat :=
  (((s.cores.drop (64 * q)).take 64).map (fun (k : Core) => if k.clk.ramping then k.clk.unitsNow else 0)).foldl (· + ·) 0

/-- The tests of a heavy word, in the order of R72. -/
def State.heavyHold (s : State) (core charge : Nat) : Option Hold :=
  let k := (s.core core).clk
  let q := quarterOf core
  let units := unitsOf64 charge
  if max k.curLim.toNat 480 < k.history.foldl (· + ·) 0 + k.chargeNow + charge then some .current
  else if k.ramping && decide ((s.quarter q).level < s.draws q + units) then some .freeboard
  else if (s.thalwNow core).toNat < s.windowNow core + k.unitsNow + units then some .thermal
  else none

/-- A SNREL or KVFREE whose engine has its descriptors still to read. -/
def State.seqHeld (s : State) (c : Cx) (i : Instr) : Bool :=
  match i with
  | .snrel .. | .kvfree .. => s.engUnread (s.polderOf c.quarter)
  | _ => false

/-- What holds a word in this cycle, if anything does: a line or its pipe first, so that the holds under which the forward-progress
count stands are those of a word held by nothing else (15 R415). -/
def State.holdOf (s : State) (c : Cx) (i : Instr) : Option Hold :=
  let k := (s.core c.core).clk
  if !(c.lines s i).all (fun n => c.grp.resident.getD n false) then some .lines
  else if pipeOf i < 6 && !k.pipeFree (k.pipeFor i) then some .pipe
  else if s.countersFull c i then some .counter
  else if s.locksTooMany c i then some .locked
  else if isMatrix i && 16 ≤ (s.core c.core).mx.length then some .queue
  else if isMatrix i && !s.dev.readyMatrix.getLsbD c.quarter then some .notReady
  else if s.baseHeld c i || s.seqHeld c i then some .notReady
  else if 8 ≤ weightOf i then s.heavyHold c.core (chargeOf i c.act)
  else none

/-- A held word noted for the accounts of the cycle (R80, 15 R415); FREEBOARD.HELD stands until it is read (02 R78). -/
def State.noteHold (s : State) (core : Nat) (h : Hold) : State :=
  s.modCore core (fun x => { x with clk :=
    { x.clk with holds := if x.clk.holds.contains h then x.clk.holds else x.clk.holds ++ [h], heldF := x.clk.heldF || h == .freeboard } })

/-- The holds under which the forward-progress count stands (15 R415): those of R53, R65, R72 and R203, and a unit that is not ready, which
holds its words as R53 does (21 R512). -/
def Hold.freezes (h : Hold) : Bool := [Hold.counter, .locked, .queue, .notReady, .current, .freeboard, .thermal].contains h

end Sys2Proof.Machine
end

