-- ==== Sys2Proof/Machine/Fetch.lean ====
section
/-! DEFINITION. What a group offers to issue (02 R45, R54, 07 R244, 08 R276) and the fetch of its word (03 R81, R89, R92, R93, 16 R431,
R434). -/
namespace Sys2Proof.Machine

/-! ## What a group offers -/

/-- A group may issue in this cycle, as far as its team and its own control go (R45, R54, R244, R276, 13 R377). A group of a halted team
that has not stopped may issue for 12 cycles more (R389, log 10). -/
def State.mayIssue (s : State) (t : Team) (g : Group) (gi : Nat) : Bool :=
  !t.leaving && (!t.fr.halted || (!g.flt.stopped && decide (s.cycle ≤ t.fr.haltedAt + 12))) && !t.ended && g.ctl.park.isNone && !g.ctl.emitting && g.ctl.yieldUntil.isNone &&
  decide (g.ctl.stallUntil ≤ s.cycle) &&
  (match t.core? with
  | some core => !((s.core core).clk.issued.any (fun w => w.team == t.id && w.group == gi))
  | none => false) &&
  (g.started || decide (t.shape.cluster ≤ 1) || (s.teams.filter (fun u => sameCluster t u)).all (fun u => u.core?.isSome || u.ended))

/-- A sub-gang that a group may offer: its slices, and whether it is inside a wait word. -/
abbrev Offer := BitVec 8 × Bool

/-- The sub-gangs of a group that may issue, in the cyclic order of its slice pointer (R45). One inside a wait word is ready when its
word's condition holds, which its issue finds out. -/
def Group.offers (g : Group) : List Offer :=
  ((List.range 8).map (fun i => (g.ctl.ptr + i) % 8)).foldl (fun (acc : List Offer) k =>
    let sl := g.slice k
    let mask := g.slicesWhere (fun x => x.live && x.tag == sl.tag)
    if !sl.live || acc.any (fun o => o.1.getLsbD k) then acc
    else
      match sl.wait with
      | .running => acc ++ [(mask, false)]
      | .inWord | .inTimed => acc ++ [(mask, true)]
      | _ => acc) []

/-! ## Fetching -/

/-- What fetching a word comes to. -/
inductive Fetched where
  | word (w : Word)
  /-- Its address lies past the code section (R89). -/
  | past
  /-- Its memory is not ready (R512). -/
  | hold
  /-- It meets a poisoned or lost byte: the code it records and its operand; a poisoned one reads as all ones (R358), one that was dropped
  never halts its team (R480), so that the sub-gang waits. -/
  | bad (code oper : Nat) (poisoned : Bool)
  /-- Its page is not present (R434). -/
  | park (va kind : Nat)
  /-- Its page may not be fetched from (R431). -/
  | deny (va : Nat)
  deriving DecidableEq, Repr

/-- The word at its home, under the team's key. -/
def State.fetchHome (s : State) (q : Nat) (ctx : Option Nat) (leaf : DWord × DWord) (va pa : Nat) : State × Fetched :=
  match s.reach q pa (leafTier leaf.1) with
  | .home _ =>
    if !s.homeReady q pa (leafTier leaf.1) then (s, .hold)
    else
      let s1 := s.readUnit q (pa / 64) leaf
      if s1.home.isPoisoned pa then (s1, .bad 0x44 va true)
      else (s1, .word (BitVec.ofNat 32 (s1.home.natAs s1.keys (s1.keyFor q ctx leaf) pa 4)))
  | .drop => (s.countDrop q, .bad 0x44 va false)
  | .region n => (s, .bad 0x45 n false)

/-- The fetch of the word at a code-section offset of a team (R81, R431). -/
def State.fetch (s : State) (t : Team) (core : Nat) (pc : Word) : State × Fetched :=
  let va := t.shape.code.toNat + pc.toNat
  let q := quarterOf core
  if !t.inCode pc.toNat then (s, .past)
  else if 2 ^ 56 ≤ va then (s, .deny va)
  else
    match s.xlate core t.shape.ctx (t.priv == 0) 3 va with
    | (s1, .at (.phys pa leaf)) => s1.fetchHome q t.shape.ctx leaf va pa
    | (s1, .at (.peer dev _)) =>
      (match s1.linkFor q va with
      | none => (s1.countDrop q, .bad 0x44 va false)
      | some n =>
        if (s1.link n).held then (s1, .hold)
        else
          match s1.readAdmitted q t.shape.ctx (.peer dev va) va 4 with
          | (s2, .ok v) => (s2, .word (BitVec.ofNat 32 v))
          | (s2, .bad code oper _) => (s2, .bad code oper true)
          | (s2, _) => (s2, .hold))
    | (s1, .at (.scratch ..)) => (s1, .hold)
    | (s1, .hold) => (s1, .hold)
    | (s1, .malformed) => (s1, .deny va)
    | (s1, .deny) => (s1, .deny va)
    | (s1, .wait kind) => (s1, .park va kind)

/-- What a fetch has met, recorded for its group unless it stands recorded already: the group fetches again until it has its word. -/
def State.noteFetch (s : State) (r : GRef) (core : Nat) (t : Team) (code oper : Nat) : State :=
  if ((s.group? r).map (fun g => g.flt.pending.contains (code, BitVec.ofNat 56 oper))).getD true then s
  else s.noteBad core t.shape.ctx (t.priv == 0) r code oper

/-- Whether a landing stands in a bundle it did not begin: the word before it is a hint word (R93). -/
def State.landsInBundle (s : State) (t : Team) (core : Nat) (pc : Word) : State × Fetched :=
  if pc = 0 then (s, .word 0) else s.fetch t core (pc - 4)

/-- The instruction a word is, hint words aside. -/
def plainOf (w : Word) : Option Instr :=
  match decodePlain w with
  | some i => if i.wf then some i else none
  | none => none

/-- The major of a word. -/
def wordMajor (w : Word) : Nat := w.toNat / 2 ^ 26

/-- A group waits for the page of a word that a sub-gang of it fetches (R377, R434): it parks, with no lane of a word outstanding, and the
hints of the sub-gang's bundle issue again (R95). -/
def State.parkFetch (s : State) (t : Team) (core : Nat) (r : GRef) (slices : BitVec 8) (pc : Word) (va kind : Nat) : State :=
  (s.modGroup r (fun g => (g.modSlices slices (fun _ sl => { sl.rewind with wait := .running })).modCtl (fun k => { k with park := some { mask := 0, pc := pc, addrs := [(va / 65536, va)], unit := false } }))).faultFor
    t core (core, if r.g = 32 then 128 else r.g) va kind (.group r.team r.g)

/-- The breakpoint that the first word of a bundle matches (23 R518). -/
def State.breakpoint (s : State) (t : Team) (core : Nat) (pc : Word) : Option Nat :=
  match t.shape.ctx with
  | none => none
  | some x =>
    (List.range 4).find? (fun n =>
      let b := (s.core core).dbg.bp.getD n 0
      b.getLsbD 63 && (b.extractLsb' 32 6).toNat == x && b.extractLsb' 0 32 == pc)

/-! ## Readiness (R45) -/

/-- The state in which a word issues for some slices of a group. -/
def State.issuing (s : State) (r : GRef) (slices : BitVec 8) (w : Word) (by_ : Option Stuffed) : State :=
  { s with iss := some { ref := r, slices := slices, word := w, stuffed := by_ } }

/-- Slices of a group that have landed where no bundle was begun: nothing more is remembered of the transfer (R93). -/
def State.landed (s : State) (r : GRef) (slices : BitVec 8) : State :=
  s.modGroup r (fun g => g.modSlices slices (fun _ sl => { sl with landed := false }))

/-- Whether every slice of a sub-gang stands inside its word, not issuing (R45). -/
def State.inside (s : State) (r : GRef) (slices : BitVec 8) : Bool :=
  match s.group? r with
  | some g => (sliceNums slices).all (fun k => (g.slice k).wait == .inWord || (g.slice k).wait == .inTimed)
  | none => false

/-- The meaning of a word inside which a sub-gang may stand, not issuing; none of any other. -/
def runWait (i : Instr) (s : State) : Option Out :=
  match i with
  | .waitc l st b t => some (execWaitc l st b t s)
  | .waitb a => some (execWaitb a s)
  | .waitv b a => some (execWaitv b a s)
  | .bwait a w => some (execBwait a w s)
  | .fencex => some (execFencex s)
  | .exitW => some (execExitW s)
  | .shoot a => some (execShoot a s)
  | .snput d a b => some (execSnput d a b s)
  | .snfind d a b => some (execSnfind d a b s)
  | .snget d a => some (execSnget d a s)
  | _ => none

/-- Whether a sub-gang is ready (R45): the word it stands at is not one whose condition does not hold. -/
def State.ready (s : State) (r : GRef) (t : Team) (core : Nat) (g : Group) (o : Offer) : Bool :=
  match s.fetch t core (g.slice (lowestSlice o.1)).pc with
  | (s1, .word w) =>
    if fx w 26 6 == 0x3F then true
    else
      match (plainOf w).bind (fun i => runWait i ((s1.landed r o.1).issuing r o.1 w none)) with
      | some (.next s2) => !s2.inside r o.1
      | _ => true
  | _ => true

/-- The sub-gang that a group offers (R45): its first ready one, else its first. -/
def State.firstReady (s : State) (r : GRef) (t : Team) (core : Nat) (g : Group) : Option Offer :=
  (g.offers.find? (fun o => s.ready r t core g o)).or g.offers.head?

end Sys2Proof.Machine
end

