-- ==== Sys2Proof/Machine/EvCycle.lean ====
section
/-! DEFINITION. The end of a cycle (02 R49, R50, R67 to R80, 07 R248, 15 R411, R415, 23 R522,
R523). -/
namespace Sys2Proof.Machine

/-! ## The lane-cycle record (R522, R523) -/

/-- Lanes added to their counts. -/
def CoreDbg.addCounts (d : CoreDbg) (xs : List (Nat × Nat × Nat)) : CoreDbg :=
  xs.foldl (fun (d : CoreDbg) x => { d with counts := modAt d.counts x.1 (fun (row : List (BitVec 48)) => modAt row x.2.1 (fun n => satAdd n x.2.2)) }) d

/-- The PC of the sub-gang that a group offers next (R45). -/
def State.offeredPc (s : State) (t : Team) (core n : Nat) (g : Group) : Word :=
  match s.firstReady ⟨t.id, n⟩ t core g with
  | some o => (g.slice (lowestSlice o.1)).pc
  | none => g.stopPcNow

/-- The lanes that a core counts in a cycle: those of the groups of the context that are resident as it ends. -/
def State.cycleCounts (s : State) (core : Nat) : List (Nat × Nat × Nat) :=
  let k := s.core core
  if !k.dbg.lcrEn then []
  else
    (s.residents core).flatMap (fun t =>
      if t.shape.ctx != some k.dbg.lcrCtx.toNat then []
      else t.numbered.flatMap (fun e => k.dbg.laneCounts e.2 (k.issuedBy t.id e.1) (s.offeredPc t core e.1 e.2)))

/-- The record of a core after a cycle (R523): a CLR of the cycle comes first. -/
def State.recordCycle (s : State) (core : Nat) : CoreDbg :=
  let d := (s.core core).dbg
  let d1 := if d.lcrClr then { d with lcrClr := false, counts := List.replicate 17 (List.replicate 5 0) } else d
  { d1.addCounts (d.lcrOut ++ s.cycleCounts core) with lcrOut := [] }

/-! ## Clocks -/

/-- The forward-progress count after a cycle (R415); a swap that began in it starts it again (R416). -/
def CoreClk.progressed (k : CoreClk) : Nat :=
  if k.swapped || k.issued.any (fun w => w.counted) then 0
  else if k.holds.any Hold.freezes then k.progress
  else min (k.progress + 1) 4096

/-- A core's clock after a cycle (R48 to R50, R54, R68, R70, R71, R73). Retention stops its phase (21 R505). -/
def CoreClk.endCycle (k : CoreClk) (asleep : Bool) : CoreClk :=
  let phase := if asleep then k.phase else (k.phase + 1) % 8
  let take := phase == 0 && !asleep
  { k with
    phase := phase, issued := [],
    history := (k.chargeNow :: k.history).take 64,
    heavyHist := ((k.issued.filter Issued.heavy).length :: k.heavyHist).take 16,
    window := k.window + k.unitsNow,
    pipeBusy := k.pipeBusy.mapIdx (fun p n => if phaseEnabled (ratioOf k.ratio p) k.phase then n - 1 else n),
    ratio := if take then k.ratioNext.getD k.ratio else k.ratio,
    ratioNext := if take then none else k.ratioNext,
    curLim := k.curLimNext.getD k.curLim, curLimNext := none,
    rr := match k.rrNext with
      | some n => List.replicate 6 n
      | none => k.rr,
    rrNext := none, progress := k.progressed, swapped := false, holds := [] }

/-- The lines of a core in order of their last use, after the words of a cycle. -/
def usedLines (lru : List LineRef) (issued : List Issued) : List LineRef :=
  issued.foldl (fun (acc : List LineRef) w => w.lines.foldl (fun (acc : List LineRef) n =>
    (w.team, w.group, n) :: acc.filter (fun x => x != (w.team, w.group, n))) acc) lru

/-- A core's counts after a cycle (R64, R80, 21 R502, R505): `waits` says that a load of its words waits for a refresh, `left` gives the teams whose lines
stand in its banks. -/
def Core.countCycle (c : Core) (empty waits : Bool) (left : List Nat) : CoreRegs :=
  let on (h : Hold) : Nat := if c.clk.holds.contains h then 1 else 0
  { c.regs with
    refStall := if waits || c.regs.refHeld then satAdd c.regs.refStall 1 else c.regs.refStall, refHeld := false,
    holdCur := satAdd c.regs.holdCur (on .current), holdFbd := satAdd c.regs.holdFbd (on .freeboard),
    holdTherm := satAdd c.regs.holdTherm (on .thermal), idle := if empty then c.regs.idle + 1 else 0,
    lru := if empty then c.regs.lru.filter (fun l => left.contains l.1) else usedLines c.regs.lru c.clk.issued }

/-- RATE as it acts (R78). -/
def rateOf (r : BitVec 4) : Nat := min 8 (max 1 r.toNat)

/-- A quarter after a cycle: its bank recharges, its pointers advance, its front may run again (R70, R78, 09 R311, R327). -/
def Quarter.endCycle (k : Quarter) (draws : Nat) (waiting : Bool) : Quarter :=
  { k with
    level := min 255 (k.level - draws + rateOf k.rate), rate := k.rateNext.getD k.rate, rateNext := none,
    drawPtr := (k.drawPtr + 1) % 64, frontPtr := (k.frontPtr + 1) % 64, frontDone := false, cycleSlots := [], unitHeld := false,
    held := if waiting || k.unitHeld then satAdd k.held 1 else k.held }

/-- A resident team's groups after a cycle: CYC counts from the first issue (08 R290). -/
def Team.countCycles (t : Team) : Team :=
  let tick (g : Group) : Group := if g.started || g.ctl.cyc != 0 then g.modCtl (fun k => { k with cyc := k.cyc + 1 }) else g
  if t.core?.isSome && !t.ended then { t with groups := t.groups.map tick, handler := t.handler.map tick } else t

/-- The clocks, counters and barrier registers of the device at the end of a cycle. The tick counts from the release from reset on (00 R13),
one tick for a cycle at the nominal clock and more where the clock is scaled down (R12). -/
def State.endCycle (s : State) : State :=
  let step := 1 + s.slow.headD 0
  let refreshes := s.dev.channels.any (fun c => decide (s.tick.toNat < c.busyTo))
  let s1 := { s with
    tick := if s.dev.booted then s.tick + BitVec.ofNat 64 step else s.tick, tickStep := step, slow := s.slow.tail, cycle := s.cycle + 1, tried := [], regLog := [],
    cores := s.cores.mapIdx (fun i (c : Core) =>
      { c with clk := c.clk.endCycle c.regs.asleep, regs := c.countCycle (s.residents i).isEmpty (refreshes && s.loadWaits i) ((s.linesOf i).map (fun t => t.id)), dbg := s.recordCycle i }),
    quarters := s.quarters.mapIdx (fun q (k : Quarter) =>
      k.endCycle (s.draws q) (((s.cores.drop (64 * q)).take 64).any (fun (c : Core) => !c.reqs.isEmpty))),
    parts := s.parts.map (fun (x : Part) => { x with pass := x.passNext.getD x.pass, passNext := none }),
    polders := s.polders.mapIdx (fun p (d : Polder) => { d with sluiceIdle := d.sluice == 1 && (s.busyQueue p).isNone }),
    teams := s.teams.map (fun t => ((t.barrierCycle.countCycles).loseOrigins s.cycle).noteReady (s.cycle + 1)) }
  (List.range 4).foldl (fun (s : State) p =>
    if s.polderOf p == p && s.launches.any (fun l => l.polder == p) then s.countSkips p else s) s1

/-- CYCLE_END (R70, R415, R522): once what must happen in the cycle has (R71, R501, R502, R504), and not after the tick of a stop (R520). -/
def execCycleEnd (s : State) : Out := .next (if s.stopped || s.overdue || s.stopDue then s else s.runCmds.traceCycle.endCycle)

end Sys2Proof.Machine
end

