-- ==== Sys2Proof/Machine/LaneMove.lean ====
section
/-! DEFINITION. Lane exchange, reductions, moves and index registers of majors LANE and MOVE (05 R172 to R178, 04 R134). -/
namespace Sys2Proof.Machine

/-- v(a, j) of a source lane; an absent lane supplies 0 (R172, R178). -/
def sourceLane (g : Group) (a j : Nat) : Word := if (g.presentLanes).getLsbD j then g.v a j else 0

/-- A shuffle: lane l takes lane j l of a, or its own value when j is none (R172). -/
def shuffleWord (i : Instr) (d a : BitVec 6) (p : BitVec 3) (s : State) (j : Group → Nat → Option Nat) : Out :=
  aluWord i s (fun c g => g.setV d.toNat (c.sel p.toNat) (fun l =>
    match j g l with
    | some k => sourceLane g a.toNat k
    | none => g.v a.toNat l))

/-- SHFL_IDX (R172). -/
def execShflIdx (d a b : BitVec 6) (p : BitVec 3) (s : State) : Out :=
  shuffleWord (.shflIdx d a b p) d a p s (fun g l => if (g.v b.toNat l).toNat < 32 then some (g.v b.toNat l).toNat else none)

/-- SHFL_UP (R172). -/
def execShflUp (d a : BitVec 6) (c : BitVec 5) (p : BitVec 3) (s : State) : Out :=
  shuffleWord (.shflUp d a c p) d a p s (fun _ l => if c.toNat ≤ l then some (l - c.toNat) else none)

/-- SHFL_DOWN (R172). -/
def execShflDown (d a : BitVec 6) (c : BitVec 5) (p : BitVec 3) (s : State) : Out :=
  shuffleWord (.shflDown d a c p) d a p s (fun _ l => if l + c.toNat < 32 then some (l + c.toNat) else none)

/-- SHFL_XOR (R172). -/
def execShflXor (d a : BitVec 6) (c : BitVec 5) (p : BitVec 3) (s : State) : Out :=
  shuffleWord (.shflXor d a c p) d a p s (fun _ l => some (l ^^^ c.toNat))

/-- BCAST (R172). -/
def execBcast (d a : BitVec 6) (l : BitVec 5) (p : BitVec 3) (s : State) : Out :=
  shuffleWord (.bcast d a l p) d a p s (fun _ _ => some l.toNat)

/-- BALLOT (R173). -/
def execBallot (d a : BitVec 6) (s : State) : Out :=
  aluWord (.ballot d a) s (fun c g => g.setS d.toNat ((g.p a.toNat &&& c.act).setWidth 64))

/-- MATCH (R173). -/
def execMatchLanes (d a : BitVec 6) (p : BitVec 3) (s : State) : Out :=
  aluWord (.matchLanes d a p) s (fun c g =>
    let sel := c.sel p.toNat
    g.setV d.toNat sel (fun l => sel &&& lanesWhere (fun j => g.v a.toNat j == g.v a.toNat l)))

/-- The value of a MOVSR selector (R174, R383). -/
def movsrValue (c : Cx) (sel l : Nat) : Word :=
  match sel with
  | 0 => BitVec.ofNat 32 l
  | 1 => BitVec.ofNat 32 (l / 4)
  | 2 => BitVec.ofNat 32 c.grp.num
  | 3 => c.team.vals.team
  | 4 => BitVec.ofNat 32 c.core
  | _ => BitVec.ofNat 32 c.quarter

/-- MOVSR (R174). -/
def execMovsr (d s : BitVec 6) (p : BitVec 3) (st : State) : Out :=
  aluWord (.movsr d s p) st (fun c g => g.setV d.toNat (c.sel p.toNat) (movsrValue c s.toNat))

/-- One combination of a reduction (R104, R175): the FP32 forms round in the mode, others ignore the LFSR. -/
def redOp (o : Nat) (md : Mods) (x y : Word) (st : Word) : Word × Word :=
  let f (z : Nat × Word) : Word × Word := (BitVec.ofNat 32 z.1, z.2)
  match o with
  | 0 => (x + y, st)
  | 1 => f (finish fmtF32 md (Exact.add md.rm (source fmtF32 md x.toNat) (source fmtF32 md y.toNat)) st)
  | 2 => (if x.toInt ≤ y.toInt then x else y, st)
  | 3 => (if x.toInt ≤ y.toInt then y else x, st)
  | 4 => f (fopExact (Exact.minMax false) fmtF32 md [x.toNat, y.toNat] st)
  | 5 => f (fopExact (Exact.minMax true) fmtF32 md [x.toNat, y.toNat] st)
  | 6 => (x &&& y, st)
  | _ => (x ||| y, st)

/-- A value that passes on without an addition: flushed under ftz, its NaN canonical (R134). -/
def redLeaf (o : Nat) (md : Mods) (x : Word) : Word :=
  if redIsFloat o then BitVec.ofNat 32 (roundNum fmtF32 { md with rm := .rne } (source fmtF32 md x.toNat) 0) else x

/-- One level of the pairwise tree (R134): pairs of adjacent indices, an absent operand passing the other on. -/
def redLevel (o : Nat) (md : Mods) : List (Option Word) → Word → List (Option Word) × Word
  | some x :: some y :: rest, st =>
    let r := redOp o md x y st
    let t := redLevel o md rest r.2
    (some r.1 :: t.1, t.2)
  | some x :: none :: rest, st => let t := redLevel o md rest st; (some x :: t.1, t.2)
  | none :: y :: rest, st => let t := redLevel o md rest st; (y :: t.1, t.2)
  | [x], st => ([x], st)
  | [], st => ([], st)

/-- RED (R134, R175): five levels over lane numbers. -/
def execRed (d a : BitVec 6) (o p : BitVec 3) (s : State) : Out :=
  aluWord (.red d a o p) s (fun c g =>
    let md := modsOf c.hs
    let sel := c.sel p.toNat
    let leaves := laneList.map (fun l => if sel.getLsbD l then some (redLeaf o.toNat md (g.v a.toNat l)) else none)
    let r := (List.range 5).foldl (fun acc _ => redLevel o.toNat md acc.1 acc.2) (leaves, g.ctl.lfsr)
    (g.setV d.toNat sel (fun _ => ((r.1.getD 0 none).getD 0))).modCtl (fun k => { k with lfsr := r.2 }))

/-- SCAN (R134, R175): inclusive, in ascending lane order. -/
def execScan (d a : BitVec 6) (o p : BitVec 3) (s : State) : Out :=
  aluWord (.scan d a o p) s (fun c g =>
    let md := modsOf c.hs
    let sel := c.sel p.toNat
    let r := (laneNums sel).foldl (fun (acc : List (Nat × Word) × Option Word × Word) l =>
      let x := redLeaf o.toNat md (g.v a.toNat l)
      match acc.2.1 with
      | none => (acc.1 ++ [(l, x)], some x, acc.2.2)
      | some y => let z := redOp o.toNat md y x acc.2.2; (acc.1 ++ [(l, z.1)], some z.1, z.2)) ([], none, g.ctl.lfsr)
    (g.setV d.toNat sel (fun l => (lookupNat r.1 l).getD 0)).modCtl (fun k => { k with lfsr := r.2.2 }))

/-! ## MOVE -/

/-- MOV (R176). -/
def execMov (d a : BitVec 6) (p : BitVec 3) (s : State) : Out := vword1 (.mov d a p) d a p s id

/-- MOVI (R176). -/
def execMovi (d : BitVec 6) (i : BitVec 8) (p : BitVec 3) (s : State) : Out :=
  aluWord (.movi d i p) s (fun c g => g.setV d.toNat (c.sel p.toNat) (fun _ => wrapI 32 (immVI c.hs i)))

/-- MOVHI (R155, R176). -/
def execMovhi (d : BitVec 6) (i : BitVec 8) (p : BitVec 3) (s : State) : Out :=
  aluWord (.movhi d i p) s (fun c g => g.setV d.toNat (c.sel p.toNat) (fun _ => wrapI 32 (immVI c.hs i * 65536)))

/-- The line an index register addresses in a lane (R58, R177). -/
def indexLine (c : Cx) (g : Group) (x : Nat) (imm : BitVec 8) (l : Nat) : Int :=
  g.indexLine c.hs x imm l

/-- The selected lanes whose line lies outside the allocation (R177). -/
def badIndex (c : Cx) (x : Nat) (imm : BitVec 8) (p : BitVec 3) : Lanes :=
  c.sel p.toNat &&& lanesWhere (fun l =>
    let i := indexLine c c.grp x imm l
    decide (i < 0 ∨ (c.grp.budget : Int) ≤ i))

/-- MOVX (R177). -/
def execMovx (d : BitVec 6) (x : BitVec 2) (i : BitVec 8) (p : BitVec 3) (s : State) : Out :=
  trapWord (.movx d x i p) s (fun c => badIndex c x.toNat i p) 0x01
    (fun c l => wrapI 32 (indexLine c c.grp x.toNat i l)) (some d.toNat)
    (fun c g => g.setV d.toNat (c.sel p.toNat &&& ~~~(badIndex c x.toNat i p))
      (fun l => Line.at (g.line (indexLine c g x.toNat i l).toNat) l))

/-- MOVXW (R177). -/
def execMovxw (x : BitVec 2) (a : BitVec 6) (i : BitVec 8) (p : BitVec 3) (s : State) : Out :=
  trapWord (.movxw x a i p) s (fun c => badIndex c x.toNat i p) 0x01
    (fun c l => wrapI 32 (indexLine c c.grp x.toNat i l)) none
    (fun c g => (laneNums (c.sel p.toNat &&& ~~~(badIndex c x.toNat i p))).foldl
      (fun h l => h.setLine (indexLine c g x.toNat i l).toNat ((1#32) <<< l) (fun _ => g.v a.toNat l)) g)

/-- XSET (R176). -/
def execXset (x : BitVec 2) (a : BitVec 6) (i : BitVec 8) (p : BitVec 3) (s : State) : Out :=
  aluWord (.xset x a i p) s (fun c g =>
    g.setX x.toNat (c.sel p.toNat) (fun l => wrapI 16 ((g.v a.toNat l).toNat + immVI c.hs i)))

/-- XADD (R176). -/
def execXadd (x : BitVec 2) (i : BitVec 8) (p : BitVec 3) (s : State) : Out :=
  aluWord (.xadd x i p) s (fun c g =>
    g.setX x.toNat (c.sel p.toNat) (fun l => wrapI 16 ((g.x x.toNat l).toInt + immVI c.hs i)))

/-- MOVV2S (R178). -/
def execMovv2s (d a : BitVec 6) (l : BitVec 5) (s : State) : Out :=
  aluWord (.movv2s d a l) s (fun _ g => g.setS d.toNat ((sourceLane g a.toNat l.toNat).setWidth 64))

/-- MOVS2V (R176). -/
def execMovs2v (d a : BitVec 6) (p : BitVec 3) (s : State) : Out :=
  aluWord (.movs2v d a p) s (fun c g => g.setV d.toNat (c.sel p.toNat) (fun _ => (g.s a.toNat).extractLsb' 0 32))

end Sys2Proof.Machine
end

