-- ==== Sys2Proof/Machine/MulDiv.lean ====
section
/-! DEFINITION. Multiply and divide of major IMD (05 R159 to R161). -/
namespace Sys2Proof.Machine

/-- The exact product of two words, signed or not, as 64 bits (R159). -/
def mulWide (signed : Bool) (a b : Word) : DWord :=
  if signed then wrapI 64 (a.toInt * b.toInt) else BitVec.ofNat 64 (a.toNat * b.toNat)

/-- The quotient truncated toward zero and the remainder with the sign of a; by 0, all ones (R160). -/
def divRem (signed rem : Bool) (a b : Word) : Word :=
  if b = 0 then BitVec.allOnes 32
  else if signed then wrapI 32 (if rem then a.toInt.tmod b.toInt else a.toInt.tdiv b.toInt)
  else BitVec.ofNat 32 (if rem then a.toNat % b.toNat else a.toNat / b.toNat)

/-- The selected lanes whose divisor is 0. -/
def zeroDivisors (c : Cx) (b : BitVec 6) (p : BitVec 3) : Lanes :=
  c.sel p.toNat &&& lanesWhere (fun l => c.grp.v b.toNat l == 0)

/-- A word of DIV or REM: DZ is set where a selected lane divides by 0 (R160). -/
def divWord (i : Instr) (signed rem : Bool) (d a b : BitVec 6) (p : BitVec 3) (s : State) : Out :=
  aluWord i s (fun c g =>
    (g.setV d.toNat (c.sel p.toNat) (fun l => divRem signed rem (g.v a.toNat l) (g.v b.toNat l))).setDz
      (zeroDivisors c b p != 0))

/-- A word of a .tz form: lanes that divide by 0 raise DIVZ, the others complete (R161). -/
def divTzWord (i : Instr) (signed rem : Bool) (d a b : BitVec 6) (p : BitVec 3) (s : State) : Out :=
  trapWord i s (fun c => zeroDivisors c b p) 0x02 (fun c l => c.grp.v a.toNat l) (some d.toNat) (fun c g =>
    g.setV d.toNat (c.sel p.toNat &&& ~~~(zeroDivisors c b p))
      (fun l => divRem signed rem (g.v a.toNat l) (g.v b.toNat l)))

/-- MUL (R159). -/
def execMul (d a b : BitVec 6) (p : BitVec 3) (s : State) : Out := vword2 (.mul d a b p) d a b p s (fun x y => x * y)

/-- MULHI_I32 (R159). -/
def execMulhiI32 (d a b : BitVec 6) (p : BitVec 3) (s : State) : Out :=
  vword2 (.mulhiI32 d a b p) d a b p s (fun x y => (mulWide true x y).extractLsb' 32 32)

/-- MULHI_N32 (R159). -/
def execMulhiN32 (d a b : BitVec 6) (p : BitVec 3) (s : State) : Out :=
  vword2 (.mulhiN32 d a b p) d a b p s (fun x y => (mulWide false x y).extractLsb' 32 32)

/-- MULW_I32 (R159). -/
def execMulwI32 (d a b : BitVec 6) (p : BitVec 3) (s : State) : Out :=
  aluWord (.mulwI32 d a b p) s (fun c g =>
    g.setV64 d.toNat (c.sel p.toNat) (fun l => mulWide true (g.v a.toNat l) (g.v b.toNat l)))

/-- MULW_N32 (R159). -/
def execMulwN32 (d a b : BitVec 6) (p : BitVec 3) (s : State) : Out :=
  aluWord (.mulwN32 d a b p) s (fun c g =>
    g.setV64 d.toNat (c.sel p.toNat) (fun l => mulWide false (g.v a.toNat l) (g.v b.toNat l)))

/-- MAD (R159): adds the old d. -/
def execMad (d a b : BitVec 6) (p : BitVec 3) (s : State) : Out :=
  aluWord (.mad d a b p) s (fun c g =>
    g.setV d.toNat (c.sel p.toNat) (fun l => g.v a.toNat l * g.v b.toNat l + g.v d.toNat l))

/-- DIV_I32 (R160). -/
def execDivI32 (d a b : BitVec 6) (p : BitVec 3) (s : State) : Out := divWord (.divI32 d a b p) true false d a b p s

/-- DIV_N32 (R160). -/
def execDivN32 (d a b : BitVec 6) (p : BitVec 3) (s : State) : Out := divWord (.divN32 d a b p) false false d a b p s

/-- REM_I32 (R160). -/
def execRemI32 (d a b : BitVec 6) (p : BitVec 3) (s : State) : Out := divWord (.remI32 d a b p) true true d a b p s

/-- REM_N32 (R160). -/
def execRemN32 (d a b : BitVec 6) (p : BitVec 3) (s : State) : Out := divWord (.remN32 d a b p) false true d a b p s

/-- DIV_I32_TZ (R161). -/
def execDivI32Tz (d a b : BitVec 6) (p : BitVec 3) (s : State) : Out := divTzWord (.divI32Tz d a b p) true false d a b p s

/-- DIV_N32_TZ (R161). -/
def execDivN32Tz (d a b : BitVec 6) (p : BitVec 3) (s : State) : Out := divTzWord (.divN32Tz d a b p) false false d a b p s

/-- REM_I32_TZ (R161). -/
def execRemI32Tz (d a b : BitVec 6) (p : BitVec 3) (s : State) : Out := divTzWord (.remI32Tz d a b p) true true d a b p s

/-- REM_N32_TZ (R161). -/
def execRemN32Tz (d a b : BitVec 6) (p : BitVec 3) (s : State) : Out := divTzWord (.remN32Tz d a b p) false true d a b p s

end Sys2Proof.Machine
end

