-- ==== Sys2Proof/Machine/Scalar.lean ====
section
/-! DEFINITION. Scalar ALU of majors SOP and SOPI (05 R179). -/
namespace Sys2Proof.Machine

/-- A scalar word: s(d) from s(a) and s(b), one copy per group (R60, R179). -/
def scalarWord (i : Instr) (d a b : BitVec 5) (s : State) (op : DWord → DWord → DWord) : Out :=
  aluWord i s (fun _ g => g.setS d.toNat (op (g.s a.toNat) (g.s b.toNat)))

/-- A scalar word with the composed immediate (R179). -/
def scalarImm (i : Instr) (d a : BitVec 5) (imm : BitVec 13) (s : State) (op : DWord → Int → DWord) : Out :=
  aluWord i s (fun c g => g.setS d.toNat (op (g.s a.toNat) (immSI c.hs imm)))

/-- SADD (R179). -/
def execSadd (d a b : BitVec 5) (s : State) : Out := scalarWord (.sadd d a b) d a b s (· + ·)

/-- SSUB (R179). -/
def execSsub (d a b : BitVec 5) (s : State) : Out := scalarWord (.ssub d a b) d a b s (· - ·)

/-- SMUL (R179). -/
def execSmul (d a b : BitVec 5) (s : State) : Out := scalarWord (.smul d a b) d a b s (· * ·)

/-- SAND (R179). -/
def execSand (d a b : BitVec 5) (s : State) : Out := scalarWord (.sand d a b) d a b s (· &&& ·)

/-- SOR (R179). -/
def execSor (d a b : BitVec 5) (s : State) : Out := scalarWord (.sor d a b) d a b s (· ||| ·)

/-- SXOR (R179). -/
def execSxor (d a b : BitVec 5) (s : State) : Out := scalarWord (.sxor d a b) d a b s (· ^^^ ·)

/-- SSHL (R179). -/
def execSshl (d a b : BitVec 5) (s : State) : Out := scalarWord (.sshl d a b) d a b s (fun x y => if y.toNat < 64 then x <<< y.toNat else 0)

/-- SSHR (R179). -/
def execSshr (d a b : BitVec 5) (s : State) : Out := scalarWord (.sshr d a b) d a b s (fun x y => if y.toNat < 64 then x >>> y.toNat else 0)

/-- SMIN_I64 (R179). -/
def execSminI64 (d a b : BitVec 5) (s : State) : Out := scalarWord (.sminI64 d a b) d a b s (intOp 2)

/-- SMIN_N64 (R179). -/
def execSminN64 (d a b : BitVec 5) (s : State) : Out := scalarWord (.sminN64 d a b) d a b s (intOp 3)

/-- SMAX_I64 (R179). -/
def execSmaxI64 (d a b : BitVec 5) (s : State) : Out := scalarWord (.smaxI64 d a b) d a b s (intOp 4)

/-- SMAX_N64 (R179). -/
def execSmaxN64 (d a b : BitVec 5) (s : State) : Out := scalarWord (.smaxN64 d a b) d a b s (intOp 5)

/-- SMOV (R179). -/
def execSmov (d a : BitVec 5) (s : State) : Out := aluWord (.smov d a) s (fun _ g => g.setS d.toNat (g.s a.toNat))

/-- SCMP on signed scalars (R179). -/
def execScmpI64 (d a b : BitVec 5) (c : BitVec 3) (s : State) : Out :=
  scalarWord (.scmpI64 d a b c) d a b s (fun x y => if icmp c.toNat 0 x y then 1 else 0)

/-- SCMP on unsigned scalars (R179). -/
def execScmpN64 (d a b : BitVec 5) (c : BitVec 3) (s : State) : Out :=
  scalarWord (.scmpN64 d a b c) d a b s (fun x y => if icmp c.toNat 1 x y then 1 else 0)

/-- SADDI (R179). -/
def execSaddi (d a : BitVec 5) (i : BitVec 13) (s : State) : Out :=
  scalarImm (.saddi d a i) d a i s (fun x k => x + wrapI 64 k)

/-- SANDI (R179). -/
def execSandi (d a : BitVec 5) (i : BitVec 13) (s : State) : Out :=
  scalarImm (.sandi d a i) d a i s (fun x k => x &&& wrapI 64 k)

/-- SSHLI (R179). -/
def execSshli (d a : BitVec 5) (i : BitVec 13) (s : State) : Out :=
  scalarImm (.sshli d a i) d a i s (fun x k => x <<< k.toNat)

/-- SSHRI (R179). -/
def execSshri (d a : BitVec 5) (i : BitVec 13) (s : State) : Out :=
  scalarImm (.sshri d a i) d a i s (fun x k => x >>> k.toNat)

/-- SMOVI (R179). -/
def execSmovi (d : BitVec 5) (i : BitVec 13) (s : State) : Out :=
  aluWord (.smovi d i) s (fun c g => g.setS d.toNat (wrapI 64 (immSI c.hs i)))

end Sys2Proof.Machine
end

