-- ==== Sys2Proof/Machine/Dispatch.lean ====
section
/-! DEFINITION. The dispatch: one arm per constructor of Instr, each one direct call of its meaning. -/
namespace Sys2Proof.Machine

/-- The meaning of an instruction or event. -/
def exec (i : Instr) (s : State) : Host.Outcome State Fault Refusal :=
  match i with
  | .add d a b p => Sys2Proof.Machine.execAdd d a b p s
  | .sub d a b p => Sys2Proof.Machine.execSub d a b p s
  | .minI32 d a b p => Sys2Proof.Machine.execMinI32 d a b p s
  | .minN32 d a b p => Sys2Proof.Machine.execMinN32 d a b p s
  | .maxI32 d a b p => Sys2Proof.Machine.execMaxI32 d a b p s
  | .maxN32 d a b p => Sys2Proof.Machine.execMaxN32 d a b p s
  | .andB d a b p => Sys2Proof.Machine.execAndB d a b p s
  | .orB d a b p => Sys2Proof.Machine.execOrB d a b p s
  | .xorB d a b p => Sys2Proof.Machine.execXorB d a b p s
  | .andn d a b p => Sys2Proof.Machine.execAndn d a b p s
  | .absdI32 d a b p => Sys2Proof.Machine.execAbsdI32 d a b p s
  | .absdN32 d a b p => Sys2Proof.Machine.execAbsdN32 d a b p s
  | .addsatI32 d a b p => Sys2Proof.Machine.execAddsatI32 d a b p s
  | .addsatN32 d a b p => Sys2Proof.Machine.execAddsatN32 d a b p s
  | .subsatI32 d a b p => Sys2Proof.Machine.execSubsatI32 d a b p s
  | .subsatN32 d a b p => Sys2Proof.Machine.execSubsatN32 d a b p s
  | .iopw d a b f p => Sys2Proof.Machine.execIopw d a b f p s
  | .addi d a imm p => Sys2Proof.Machine.execAddi d a imm p s
  | .muli d a imm p => Sys2Proof.Machine.execMuli d a imm p s
  | .andi d a imm p => Sys2Proof.Machine.execAndi d a imm p s
  | .ori d a imm p => Sys2Proof.Machine.execOri d a imm p s
  | .xori d a imm p => Sys2Proof.Machine.execXori d a imm p s
  | .shli d a imm p => Sys2Proof.Machine.execShli d a imm p s
  | .shri d a imm p => Sys2Proof.Machine.execShri d a imm p s
  | .sari d a imm p => Sys2Proof.Machine.execSari d a imm p s
  | .shl d a b p => Sys2Proof.Machine.execShl d a b p s
  | .shr d a b p => Sys2Proof.Machine.execShr d a b p s
  | .sar d a b p => Sys2Proof.Machine.execSar d a b p s
  | .rol d a b p => Sys2Proof.Machine.execRol d a b p s
  | .ror d a b p => Sys2Proof.Machine.execRor d a b p s
  | .popc d a p => Sys2Proof.Machine.execPopc d a p s
  | .clz d a p => Sys2Proof.Machine.execClz d a p s
  | .ctz d a p => Sys2Proof.Machine.execCtz d a p s
  | .brev d a p => Sys2Proof.Machine.execBrev d a p s
  | .bfxN32 d a b p => Sys2Proof.Machine.execBfxN32 d a b p s
  | .bfxI32 d a b p => Sys2Proof.Machine.execBfxI32 d a b p s
  | .bfi d a b p => Sys2Proof.Machine.execBfi d a b p s
  | .permb d a b p => Sys2Proof.Machine.execPermb d a b p s
  | .shlB64 d a b p => Sys2Proof.Machine.execShlB64 d a b p s
  | .shrB64 d a b p => Sys2Proof.Machine.execShrB64 d a b p s
  | .sarB64 d a b p => Sys2Proof.Machine.execSarB64 d a b p s
  | .rolB64 d a b p => Sys2Proof.Machine.execRolB64 d a b p s
  | .rorB64 d a b p => Sys2Proof.Machine.execRorB64 d a b p s
  | .popcB64 d a p => Sys2Proof.Machine.execPopcB64 d a p s
  | .clzB64 d a p => Sys2Proof.Machine.execClzB64 d a p s
  | .ctzB64 d a p => Sys2Proof.Machine.execCtzB64 d a p s
  | .brevB64 d a p => Sys2Proof.Machine.execBrevB64 d a p s
  | .mul d a b p => Sys2Proof.Machine.execMul d a b p s
  | .mulhiI32 d a b p => Sys2Proof.Machine.execMulhiI32 d a b p s
  | .mulhiN32 d a b p => Sys2Proof.Machine.execMulhiN32 d a b p s
  | .mulwI32 d a b p => Sys2Proof.Machine.execMulwI32 d a b p s
  | .mulwN32 d a b p => Sys2Proof.Machine.execMulwN32 d a b p s
  | .mad d a b p => Sys2Proof.Machine.execMad d a b p s
  | .divI32 d a b p => Sys2Proof.Machine.execDivI32 d a b p s
  | .divN32 d a b p => Sys2Proof.Machine.execDivN32 d a b p s
  | .remI32 d a b p => Sys2Proof.Machine.execRemI32 d a b p s
  | .remN32 d a b p => Sys2Proof.Machine.execRemN32 d a b p s
  | .divI32Tz d a b p => Sys2Proof.Machine.execDivI32Tz d a b p s
  | .divN32Tz d a b p => Sys2Proof.Machine.execDivN32Tz d a b p s
  | .remI32Tz d a b p => Sys2Proof.Machine.execRemI32Tz d a b p s
  | .remN32Tz d a b p => Sys2Proof.Machine.execRemN32Tz d a b p s
  | .cmp d c m a b t p => Sys2Proof.Machine.execCmp d c m a b t p s
  | .fcmp d c m a b t p => Sys2Proof.Machine.execFcmp d c m a b t p s
  | .fclass d m a k t p => Sys2Proof.Machine.execFclass d m a k t p s
  | .pand d a b p => Sys2Proof.Machine.execPand d a b p s
  | .por d a b p => Sys2Proof.Machine.execPor d a b p s
  | .pxor d a b p => Sys2Proof.Machine.execPxor d a b p s
  | .pnot d a p => Sys2Proof.Machine.execPnot d a p s
  | .pmov d a p => Sys2Proof.Machine.execPmov d a p s
  | .pmovFromScalar d a p => Sys2Proof.Machine.execPmovFromScalar d a p s
  | .pmovToScalar d a => Sys2Proof.Machine.execPmovToScalar d a s
  | .sel d a b n p => Sys2Proof.Machine.execSel d a b n p s
  | .fadd d a b t p => Sys2Proof.Machine.execFadd d a b t p s
  | .fsub d a b t p => Sys2Proof.Machine.execFsub d a b t p s
  | .fmul d a b t p => Sys2Proof.Machine.execFmul d a b t p s
  | .fmin d a b t p => Sys2Proof.Machine.execFmin d a b t p s
  | .fmax d a b t p => Sys2Proof.Machine.execFmax d a b t p s
  | .fabs d a t p => Sys2Proof.Machine.execFabs d a t p s
  | .fneg d a t p => Sys2Proof.Machine.execFneg d a t p s
  | .fma d a b t p => Sys2Proof.Machine.execFma d a b t p s
  | .fms d a b t p => Sys2Proof.Machine.execFms d a b t p s
  | .fnma d a b t p => Sys2Proof.Machine.execFnma d a b t p s
  | .fmad d a b t p => Sys2Proof.Machine.execFmad d a b t p s
  | .rcp d a t p => Sys2Proof.Machine.execRcp d a t p s
  | .rsq d a t p => Sys2Proof.Machine.execRsq d a t p s
  | .sqrt d a t p => Sys2Proof.Machine.execSqrt d a t p s
  | .exp2 d a t p => Sys2Proof.Machine.execExp2 d a t p s
  | .log2 d a t p => Sys2Proof.Machine.execLog2 d a t p s
  | .sin d a t p => Sys2Proof.Machine.execSin d a t p s
  | .cos d a t p => Sys2Proof.Machine.execCos d a t p s
  | .tanh d a t p => Sys2Proof.Machine.execTanh d a t p s
  | .cvt d a t rs p => Sys2Proof.Machine.execCvt d a t rs p s
  | .cvts d a t rs => Sys2Proof.Machine.execCvts d a t rs s
  | .qblk d a t l p => Sys2Proof.Machine.execQblk d a t l p s
  | .dqblk d a t l p => Sys2Proof.Machine.execDqblk d a t l p s
  | .pack6 d a t p => Sys2Proof.Machine.execPack6 d a t p s
  | .unpk6 d a t p => Sys2Proof.Machine.execUnpk6 d a t p s
  | .lgenc d a p => Sys2Proof.Machine.execLgenc d a p s
  | .lgdec d a p => Sys2Proof.Machine.execLgdec d a p s
  | .shflIdx d a b p => Sys2Proof.Machine.execShflIdx d a b p s
  | .shflUp d a c p => Sys2Proof.Machine.execShflUp d a c p s
  | .shflDown d a c p => Sys2Proof.Machine.execShflDown d a c p s
  | .shflXor d a c p => Sys2Proof.Machine.execShflXor d a c p s
  | .bcast d a l p => Sys2Proof.Machine.execBcast d a l p s
  | .ballot d a => Sys2Proof.Machine.execBallot d a s
  | .matchLanes d a p => Sys2Proof.Machine.execMatchLanes d a p s
  | .movsr d rs p => Sys2Proof.Machine.execMovsr d rs p s
  | .red d a o p => Sys2Proof.Machine.execRed d a o p s
  | .scan d a o p => Sys2Proof.Machine.execScan d a o p s
  | .mov d a p => Sys2Proof.Machine.execMov d a p s
  | .movi d imm p => Sys2Proof.Machine.execMovi d imm p s
  | .movhi d imm p => Sys2Proof.Machine.execMovhi d imm p s
  | .movx d x imm p => Sys2Proof.Machine.execMovx d x imm p s
  | .movxw x a imm p => Sys2Proof.Machine.execMovxw x a imm p s
  | .xset x a imm p => Sys2Proof.Machine.execXset x a imm p s
  | .xadd x imm p => Sys2Proof.Machine.execXadd x imm p s
  | .movv2s d a l => Sys2Proof.Machine.execMovv2s d a l s
  | .movs2v d a p => Sys2Proof.Machine.execMovs2v d a p s
  | .sadd d a b => Sys2Proof.Machine.execSadd d a b s
  | .ssub d a b => Sys2Proof.Machine.execSsub d a b s
  | .smul d a b => Sys2Proof.Machine.execSmul d a b s
  | .sand d a b => Sys2Proof.Machine.execSand d a b s
  | .sor d a b => Sys2Proof.Machine.execSor d a b s
  | .sxor d a b => Sys2Proof.Machine.execSxor d a b s
  | .sshl d a b => Sys2Proof.Machine.execSshl d a b s
  | .sshr d a b => Sys2Proof.Machine.execSshr d a b s
  | .sminI64 d a b => Sys2Proof.Machine.execSminI64 d a b s
  | .sminN64 d a b => Sys2Proof.Machine.execSminN64 d a b s
  | .smaxI64 d a b => Sys2Proof.Machine.execSmaxI64 d a b s
  | .smaxN64 d a b => Sys2Proof.Machine.execSmaxN64 d a b s
  | .smov d a => Sys2Proof.Machine.execSmov d a s
  | .scmpI64 d a b c => Sys2Proof.Machine.execScmpI64 d a b c s
  | .scmpN64 d a b c => Sys2Proof.Machine.execScmpN64 d a b c s
  | .saddi d a imm => Sys2Proof.Machine.execSaddi d a imm s
  | .sandi d a imm => Sys2Proof.Machine.execSandi d a imm s
  | .sshli d a imm => Sys2Proof.Machine.execSshli d a imm s
  | .sshri d a imm => Sys2Proof.Machine.execSshri d a imm s
  | .smovi d imm => Sys2Proof.Machine.execSmovi d imm s
  | .sld d a b p => Sys2Proof.Machine.execSld d a b p s
  | .sst d a b p => Sys2Proof.Machine.execSst d a b p s
  | .scmp d a b p => Sys2Proof.Machine.execScmp d a b p s
  | .sfindb d a b p => Sys2Proof.Machine.execSfindb d a b p s
  | .sfold d a p => Sys2Proof.Machine.execSfold d a p s
  | .smatch d a b p => Sys2Proof.Machine.execSmatch d a b p s
  | .hcrc d a b p => Sys2Proof.Machine.execHcrc d a b p s
  | .hmix d a p => Sys2Proof.Machine.execHmix d a p s
  | .rhash d a b p => Sys2Proof.Machine.execRhash d a b p s
  | .pbin d a b p => Sys2Proof.Machine.execPbin d a b p s
  | .bez rs o => Sys2Proof.Machine.execBez rs o s
  | .bnz rs o => Sys2Proof.Machine.execBnz rs o s
  | .bltz rs o => Sys2Proof.Machine.execBltz rs o s
  | .bgez rs o => Sys2Proof.Machine.execBgez rs o s
  | .bgtz rs o => Sys2Proof.Machine.execBgtz rs o s
  | .blez rs o => Sys2Proof.Machine.execBlez rs o s
  | .loopW rs o => Sys2Proof.Machine.execLoopW rs o s
  | .jmp o => Sys2Proof.Machine.execJmp o s
  | .callW l o => Sys2Proof.Machine.execCallW l o s
  | .jmpi rs => Sys2Proof.Machine.execJmpi rs s
  | .trapW c => Sys2Proof.Machine.execTrapW c s
  | .brp p o => Sys2Proof.Machine.execBrp p o s
  | .regang o => Sys2Proof.Machine.execRegang o s
  | .ld d b o w y p => Sys2Proof.Machine.execLd d b o w y p s
  | .ldAcq d b o w rs p => Sys2Proof.Machine.execLdAcq d b o w rs p s
  | .st d b o w y p => Sys2Proof.Machine.execSt d b o w y p s
  | .stRel d b o w rs p => Sys2Proof.Machine.execStRel d b o w rs p s
  | .lds d o w y t p => Sys2Proof.Machine.execLds d o w y t p s
  | .sts d o w y t p => Sys2Proof.Machine.execSts d o w y t p s
  | .atomAdd d b o a t p => Sys2Proof.Machine.execAtomAdd d b o a t p s
  | .atomMin d b o a t p => Sys2Proof.Machine.execAtomMin d b o a t p s
  | .atomMax d b o a t p => Sys2Proof.Machine.execAtomMax d b o a t p s
  | .atomAnd d b o a t p => Sys2Proof.Machine.execAtomAnd d b o a t p s
  | .atomOr d b o a t p => Sys2Proof.Machine.execAtomOr d b o a t p s
  | .atomXor d b o a t p => Sys2Proof.Machine.execAtomXor d b o a t p s
  | .atomXchg d b o a t p => Sys2Proof.Machine.execAtomXchg d b o a t p s
  | .atomCas d b o a t p => Sys2Proof.Machine.execAtomCas d b o a t p s
  | .atomFadd d b o a t p => Sys2Proof.Machine.execAtomFadd d b o a t p s
  | .atomg d b o a t p => Sys2Proof.Machine.execAtomg d b o a t p s
  | .atomsAdd d o a t p => Sys2Proof.Machine.execAtomsAdd d o a t p s
  | .atomsMin d o a t p => Sys2Proof.Machine.execAtomsMin d o a t p s
  | .atomsMax d o a t p => Sys2Proof.Machine.execAtomsMax d o a t p s
  | .atomsAnd d o a t p => Sys2Proof.Machine.execAtomsAnd d o a t p s
  | .atomsOr d o a t p => Sys2Proof.Machine.execAtomsOr d o a t p s
  | .atomsXor d o a t p => Sys2Proof.Machine.execAtomsXor d o a t p s
  | .atomsXchg d o a t p => Sys2Proof.Machine.execAtomsXchg d o a t p s
  | .atomsCas d o a t p => Sys2Proof.Machine.execAtomsCas d o a t p s
  | .atomsFadd d o a t p => Sys2Proof.Machine.execAtomsFadd d o a t p s
  | .atomgScratch d o a t p => Sys2Proof.Machine.execAtomgScratch d o a t p s
  | .sdist d b o p => Sys2Proof.Machine.execSdist d b o p s
  | .spin d b o p => Sys2Proof.Machine.execSpin d b o p s
  | .sunpin b o p => Sys2Proof.Machine.execSunpin b o p s
  | .sbyp b o p => Sys2Proof.Machine.execSbyp b o p s
  | .sclr b o p => Sys2Proof.Machine.execSclr b o p s
  | .stouch b o p => Sys2Proof.Machine.execStouch b o p s
  | .bset n rs => Sys2Proof.Machine.execBset n rs s
  | .blim n rs => Sys2Proof.Machine.execBlim n rs s
  | .lduB32 d n => Sys2Proof.Machine.execLduB32 d n s
  | .lduB64 d n => Sys2Proof.Machine.execLduB64 d n s
  | .waitc l rs b t => Sys2Proof.Machine.execWaitc l rs b t s
  | .waitb rs => Sys2Proof.Machine.execWaitb rs s
  | .waitv b rs => Sys2Proof.Machine.execWaitv b rs s
  | .binit rs w => Sys2Proof.Machine.execBinit rs w s
  | .barv w => Sys2Proof.Machine.execBarv w s
  | .bexp rs w => Sys2Proof.Machine.execBexp rs w s
  | .bwait rs w => Sys2Proof.Machine.execBwait rs w s
  | .btest d w => Sys2Proof.Machine.execBtest d w s
  | .fence rs => Sys2Proof.Machine.execFence rs s
  | .cpy rs w q => Sys2Proof.Machine.execCpy rs w q s
  | .cpyg rs w q => Sys2Proof.Machine.execCpyg rs w q s
  | .cpys rs w q => Sys2Proof.Machine.execCpys rs w q s
  | .cpyc rs w q => Sys2Proof.Machine.execCpyc rs w q s
  | .close d => Sys2Proof.Machine.execClose d s
  | .emit a b => Sys2Proof.Machine.execEmit a b s
  | .emitNb a b n => Sys2Proof.Machine.execEmitNb a b n s
  | .rdsys d n => Sys2Proof.Machine.execRdsys d n s
  | .wrsys rs n => Sys2Proof.Machine.execWrsys rs n s
  | .tick d => Sys2Proof.Machine.execTick d s
  | .cyc d => Sys2Proof.Machine.execCyc d s
  | .timerRes rs => Sys2Proof.Machine.execTimerRes rs s
  | .timerWall rs => Sys2Proof.Machine.execTimerWall rs s
  | .haltx c => Sys2Proof.Machine.execHaltx c s
  | .shoot rs => Sys2Proof.Machine.execShoot rs s
  | .mmq c a o f r k p => Sys2Proof.Machine.execMmq c a o f r k p s
  | .mms c a o f r k p => Sys2Proof.Machine.execMms c a o f r k p s
  | .obres rs o => Sys2Proof.Machine.execObres rs o s
  | .obrel o => Sys2Proof.Machine.execObrel o s
  | .obld rs t o => Sys2Proof.Machine.execObld rs t o s
  | .scfifo rs o => Sys2Proof.Machine.execScfifo rs o s
  | .scpush rs t => Sys2Proof.Machine.execScpush rs t s
  | .sccache rs t => Sys2Proof.Machine.execSccache rs t s
  | .accz c => Sys2Proof.Machine.execAccz c s
  | .accld rs c => Sys2Proof.Machine.execAccld rs c s
  | .accst rs c => Sys2Proof.Machine.execAccst rs c s
  | .accrst imm => Sys2Proof.Machine.execAccrst imm s
  | .snput d a b => Sys2Proof.Machine.execSnput d a b s
  | .snfind d a b => Sys2Proof.Machine.execSnfind d a b s
  | .snget d a => Sys2Proof.Machine.execSnget d a s
  | .snrel a => Sys2Proof.Machine.execSnrel a s
  | .kvmap d a b p => Sys2Proof.Machine.execKvmap d a b p s
  | .kvapp d a b p => Sys2Proof.Machine.execKvapp d a b p s
  | .kvcommit a b => Sys2Proof.Machine.execKvcommit a b s
  | .kvfree a => Sys2Proof.Machine.execKvfree a s
  | .himm p => Sys2Proof.Machine.execHimm p s
  | .hoff p => Sys2Proof.Machine.execHoff p s
  | .hsched m rs y => Sys2Proof.Machine.execHsched m rs y s
  | .hmod imm f rs m => Sys2Proof.Machine.execHmod imm f rs m s
  | .hreg r => Sys2Proof.Machine.execHreg r s
  | .hscope o rs => Sys2Proof.Machine.execHscope o rs s
  | .hareg a o => Sys2Proof.Machine.execHareg a o s
  | .hmark m => Sys2Proof.Machine.execHmark m s
  | .ret => Sys2Proof.Machine.execRet s
  | .exitW => Sys2Proof.Machine.execExitW s
  | .rcv => Sys2Proof.Machine.execRcv s
  | .yieldW => Sys2Proof.Machine.execYieldW s
  | .fencex => Sys2Proof.Machine.execFencex s
  | .loadReturn op slice => Sys2Proof.Machine.execLoadReturn op slice s
  | .matrixWordComplete core => Sys2Proof.Machine.execMatrixWordComplete core s
  | .joinComplete team g => Sys2Proof.Machine.execJoinComplete team g s
  | .rcvRelease team g at_ => Sys2Proof.Machine.execRcvRelease team g at_ s
  | .timerFire team g => Sys2Proof.Machine.execTimerFire team g s
  | .yieldExpire team g => Sys2Proof.Machine.execYieldExpire team g s
  | .handlerFormation team => Sys2Proof.Machine.execHandlerFormation team s
  | .trapRelease team g slices => Sys2Proof.Machine.execTrapRelease team g slices s
  | .jobAccept team job => Sys2Proof.Machine.execJobAccept team job s
  | .jobLand team job row lo n => Sys2Proof.Machine.execJobLand team job row lo n s
  | .jobComplete team job => Sys2Proof.Machine.execJobComplete team job s
  | .jobStop team job => Sys2Proof.Machine.execJobStop team job s
  | .engineStep polder op => Sys2Proof.Machine.execEngineStep polder op s
  | .admission q => Sys2Proof.Machine.execAdmission q s
  | .fillLands q tile => Sys2Proof.Machine.execFillLands q tile s
  | .writeBackAtHome entry => Sys2Proof.Machine.execWriteBackAtHome entry s
  | .drainRequest home q => Sys2Proof.Machine.execDrainRequest home q s
  | .maskDrain home q => Sys2Proof.Machine.execMaskDrain home q s
  | .backInvalidation line => Sys2Proof.Machine.execBackInvalidation line s
  | .hostSnoop line => Sys2Proof.Machine.execHostSnoop line s
  | .hostRead pa n => Sys2Proof.Machine.execHostRead pa n s
  | .hostWrite pa n value => Sys2Proof.Machine.execHostWrite pa n value s
  | .peerRequest link kind asid va n value => Sys2Proof.Machine.execPeerRequest link kind asid va n value s
  | .flitReceive link seq good => Sys2Proof.Machine.execFlitReceive link seq good s
  | .replay link => Sys2Proof.Machine.execReplay link s
  | .linkRetrain link => Sys2Proof.Machine.execLinkRetrain link s
  | .hold link => Sys2Proof.Machine.execHold link s
  | .go link => Sys2Proof.Machine.execGo link s
  | .poolLinkLost port expander => Sys2Proof.Machine.execPoolLinkLost port expander s
  | .degradedService region => Sys2Proof.Machine.execDegradedService region s
  | .serviceRestored region => Sys2Proof.Machine.execServiceRestored region s
  | .online region => Sys2Proof.Machine.execOnline region s
  | .regionFence region => Sys2Proof.Machine.execRegionFence region s
  | .rehome region => Sys2Proof.Machine.execRehome region s
  | .discard region => Sys2Proof.Machine.execDiscard region s
  | .closeRefuse polder => Sys2Proof.Machine.execCloseRefuse polder s
  | .closeDrain polder => Sys2Proof.Machine.execCloseDrain polder s
  | .openSluice polder => Sys2Proof.Machine.execOpenSluice polder s
  | .sluiceClosed polder => Sys2Proof.Machine.execSluiceClosed polder s
  | .pshapeWrite q v => Sys2Proof.Machine.execPshapeWrite q v s
  | .biasFlip polder v => Sys2Proof.Machine.execBiasFlip polder v s
  | .qtailWrite polder queue v => Sys2Proof.Machine.execQtailWrite polder queue v s
  | .qcfgWrite polder queue v => Sys2Proof.Machine.execQcfgWrite polder queue v s
  | .tokenWrite polder token v => Sys2Proof.Machine.execTokenWrite polder token v s
  | .noOperation polder queue => Sys2Proof.Machine.execNoOperation polder queue s
  | .kernelLaunch polder queue => Sys2Proof.Machine.execKernelLaunch polder queue s
  | .signalOnly polder queue => Sys2Proof.Machine.execSignalOnly polder queue s
  | .prefixLookup launch => Sys2Proof.Machine.execPrefixLookup launch s
  | .launchComplete launch => Sys2Proof.Machine.execLaunchComplete launch s
  | .placeTeam polder q => Sys2Proof.Machine.execPlaceTeam polder q s
  | .candidateReserved team => Sys2Proof.Machine.execCandidateReserved team s
  | .forwardProgressSwap core => Sys2Proof.Machine.execForwardProgressSwap core s
  | .dispatchRecord polder => Sys2Proof.Machine.execDispatchRecord polder s
  | .nodeTeamCreate launch node => Sys2Proof.Machine.execNodeTeamCreate launch node s
  | .nodeTimeout launch node => Sys2Proof.Machine.execNodeTimeout launch node s
  | .create polder ctx => Sys2Proof.Machine.execCreate polder ctx s
  | .quota polder ctx => Sys2Proof.Machine.execQuota polder ctx s
  | .sync polder ctx => Sys2Proof.Machine.execSync polder ctx s
  | .preempt polder ctx => Sys2Proof.Machine.execPreempt polder ctx s
  | .resume polder ctx => Sys2Proof.Machine.execResume polder ctx s
  | .teardown polder ctx => Sys2Proof.Machine.execTeardown polder ctx s
  | .shootall polder ctx => Sys2Proof.Machine.execShootall polder ctx s
  | .retry polder index => Sys2Proof.Machine.execRetry polder index s
  | .deny polder index => Sys2Proof.Machine.execDeny polder index s
  | .dupfill polder index frame => Sys2Proof.Machine.execDupfill polder index frame s
  | .spflush q v => Sys2Proof.Machine.execSpflush q v s
  | .broleWrite core v => Sys2Proof.Machine.execBroleWrite core v s
  | .pipeRatioWrite core v => Sys2Proof.Machine.execPipeRatioWrite core v s
  | .thset v => Sys2Proof.Machine.execThset v s
  | .featonWrite polder n v => Sys2Proof.Machine.execFeatonWrite polder n v s
  | .sensorSample region temp => Sys2Proof.Machine.execSensorSample region temp s
  | .refresh channel length => Sys2Proof.Machine.execRefresh channel length s
  | .thermalWindow => Sys2Proof.Machine.execThermalWindow s
  | .scrub unit => Sys2Proof.Machine.execScrub unit s
  | .retentionEntry core => Sys2Proof.Machine.execRetentionEntry core s
  | .retentionExit core parityOk => Sys2Proof.Machine.execRetentionExit core parityOk s
  | .reset => Sys2Proof.Machine.execReset s
  | .powerLoss => Sys2Proof.Machine.execPowerLoss s
  | .releaseFromReset ok0 ok1 svn0 svn1 => Sys2Proof.Machine.execReleaseFromReset ok0 ok1 svn0 svn1 s
  | .readySet bits => Sys2Proof.Machine.execReadySet bits s
  | .getVersion fn => Sys2Proof.Machine.execGetVersion fn s
  | .getCapabilities fn => Sys2Proof.Machine.execGetCapabilities fn s
  | .negotiateAlgorithms fn => Sys2Proof.Machine.execNegotiateAlgorithms fn s
  | .getDigests fn => Sys2Proof.Machine.execGetDigests fn s
  | .getCertificate fn => Sys2Proof.Machine.execGetCertificate fn s
  | .challenge fn => Sys2Proof.Machine.execChallenge fn s
  | .getMeasurements fn => Sys2Proof.Machine.execGetMeasurements fn s
  | .keyExchange fn => Sys2Proof.Machine.execKeyExchange fn s
  | .finish fn => Sys2Proof.Machine.execFinish fn s
  | .keyLoad fn slot data tweak => Sys2Proof.Machine.execKeyLoad fn slot data tweak s
  | .stopTick => Sys2Proof.Machine.execStopTick s
  | .execWords core v => Sys2Proof.Machine.execExecWords core v s
  | .dbgResume core => Sys2Proof.Machine.execDbgResume core s
  | .halt core => Sys2Proof.Machine.execHalt core s
  | .clr core => Sys2Proof.Machine.execClr core s
  | .regWrite space num v => Sys2Proof.Machine.execRegWrite space num v s
  | .notAnInstruction word => Sys2Proof.Machine.execNotAnInstruction word s
  | .lineFill team g line => Sys2Proof.Machine.execLineFill team g line s
  | .motionEnd q tile => Sys2Proof.Machine.execMotionEnd q tile s
  | .cycleEnd => Sys2Proof.Machine.execCycleEnd s
  | .poolLinkUp port => Sys2Proof.Machine.execPoolLinkUp port s
  | .linkTrained link => Sys2Proof.Machine.execLinkTrained link s
  | .sncfgWrite polder v => Sys2Proof.Machine.execSncfgWrite polder v s
  | .fqheadWrite polder v => Sys2Proof.Machine.execFqheadWrite polder v s
  | .fqcfgWrite polder v => Sys2Proof.Machine.execFqcfgWrite polder v s
  | .readClear space num => Sys2Proof.Machine.execReadClear space num s
  | .serviceKernel core code len kdata kconst producer matrix vector budget scratch => Sys2Proof.Machine.execServiceKernel core code len kdata kconst producer matrix vector budget scratch s

end Sys2Proof.Machine
end

