-- ==== Sys2Proof/Machine/Issue.lean ====
section
/-! DEFINITION. The turn of a group: its offered word fetched, tested against what holds it, and run (02 R45, R48, R72, 03 R81, R116,
23 R518), and the turn of a word stuffed by the debug agent (23 R524). -/
namespace Sys2Proof.Machine

/-! ## The meaning of a word's bits -/

/-- A word of major 0x3F: the hint word it decodes to, run. -/
def runHint (w : Word) (s : State) : Out :=
  if fx w 4 22 = 1572864 then execHareg (fb w 2 2) (fb w 0 2) s
  else if fx w 6 20 = 196608 then execHmod (fb w 5 1) (fb w 4 1) (fb w 3 1) (fb w 0 3) s
  else if fx w 6 20 = 262144 then execHreg (fb w 0 6) s
  else if fx w 6 20 = 327680 then execHscope (fb w 4 2) (fb w 0 4) s
  else if fx w 7 19 = 65536 then execHsched (fb w 5 2) (fb w 1 4) (fb w 0 1) s
  else if fx w 16 10 = 448 then execHmark (fb w 0 16) s
  else if fx w 22 4 = 0 then execHimm (fb w 0 22) s
  else if fx w 22 4 = 1 then execHoff (fb w 0 22) s
  else execNotAnInstruction (some w) s

/-- A word run for the issuing group: the instruction it decodes to, or none (R115). -/
def runWord (w : Word) (s : State) : Out :=
  if fx w 26 6 = 0x3F then runHint w s
  else
    match plainOf w with
    | some i => exec i s
    | none => execNotAnInstruction (some w) s

/-- The errors in the lane words that a word about to issue reads (02 R66): those of its source lines, whole; none for a word that
fails a check of R116. -/
def State.lineErrsOf (s : State) (w : Word) : List LineErr :=
  if fx w 26 6 = 0x3F then []
  else
    match plainOf w, cxOf s with
    | some i, some c =>
      if (precheck s c i).isSome then [] else c.grp.lineErrs.filter (fun e => (c.reads s i).contains e.line)
    | _, _ => []

/-- Errors of a group's lines corrected and counted (R66). -/
def State.correct (s : State) (core : Nat) (r : GRef) (es : List LineErr) : State :=
  (s.modGroup r (fun g => { g with lineErrs := g.lineErrs.filter (fun e => !es.contains e) })).modCore core
    (fun k => { k with regs := { k.regs with eccFix := satAdd k.regs.eccFix es.length } })

/-- A word issued after a read of its source lines (R66, log 40): correctable errors are corrected, and an uncorrectable one halts the
team before the word has any effect. -/
def State.runRead (s : State) (w : Word) : Out :=
  match s.lineErrsOf w, cxOf s with
  | e :: es, some c =>
    (match (e :: es).find? LineErr.bad with
    | some b => .next (raiseOp c s 0x16 (BitVec.ofNat 56 b.line))
    | none => runWord w (s.correct c.core c.ref (e :: es)))
  | _, _ => runWord w s

/-! ## Issue -/

/-- What holds the word about to issue; a word that fails a check of R116 is held by nothing. -/
def State.holdNow (s : State) (w : Word) : Option Hold :=
  if fx w 26 6 = 0x3F then none
  else
    match plainOf w, cxOf s with
    | some i, some c => if (precheck s c i).isSome then none else s.holdOf c i
    | _, _ => none

/-- A wall timer whose deadline passed while its group was out fires at the group's first issue after the restore, before the word acts
(08 R291); a wait that the firing may end begins first. -/
def State.fireLate (s : State) (r : GRef) (w : Word) : State :=
  match s.group? r with
  | some g =>
    let timed := fx w 26 6 != 0x3F && (match plainOf w with
      | some (.waitb ..) | some (.waitv ..) | some (.bwait ..) => true
      | _ => false)
    if !g.started && g.ctl.timer.armed && g.ctl.timer.late && !timed then s.modGroup r Group.fireTimer else s
  | none => s

/-- A word fetched for a sub-gang that is not inside a wait word. One that is ready meets a breakpoint, a hold, or issues; one that is not
goes inside its word, which takes no pipe (R45). `s0` is the state before the fetch. A landing is tested by a fetch of the word before it (R93): where that one's page is missing the group parks with a fetch fault
there, and where it may not be fetched it counts as no hint word (DESIGN CHOICE, log 65): the spec does not say how the word before is
seen. -/
def State.issueFetched (s0 s : State) (t : Team) (core : Nat) (r : GRef) (slices : BitVec 8) (sl : Slice) (skip ready : Bool) (w : Word) : Out :=
  let run (s : State) : Out :=
    let s1 := s.issuing r slices w none
    if !ready then runWord w s1
    else
      match s1.holdNow w with
      | some h => .next (s0.noteHold core h)
      | none => (s1.fireLate r w).runRead w
  match (if sl.bundle.isSome || skip || !ready then none else s.breakpoint t core sl.pc) with
  | some n => .next (s.halt r 0x15 sl.pc (BitVec.ofNat 56 n))
  | none =>
    if !sl.landed then run s
    else
      match s.landsInBundle t core sl.pc with
      | (_, .hold) => .next s0
      | (s1, .park va kind) => .next (s1.parkFetch t core r slices sl.resume va kind)
      | (s1, .word v) => if wordMajor v = 0x3F then run s1 else run (s1.landed r slices)
      | (s1, _) => run (s1.landed r slices)

/-- A word fetched for a sub-gang inside a wait word (R274, R413). Where its condition still does not hold the wait goes on; once it holds
the word issues as any does: it meets a breakpoint (23 R518), or a hold. `s0` is the state before the fetch. -/
def State.issueWaiting (s0 s : State) (t : Team) (core : Nat) (r : GRef) (slices : BitVec 8) (sl : Slice) (skip : Bool) (w : Word) : Out :=
  let s1 := s.issuing r slices w none
  match runWord w s1 with
  | .next s2 =>
    if s2.inside r slices then .next s2
    else
      match (if sl.bundle.isSome || skip then none else s.breakpoint t core sl.pc) with
      | some n => .next (s.halt r 0x15 sl.pc (BitVec.ofNat 56 n))
      | none =>
        match s1.holdNow w with
        | some h => .next (s0.noteHold core h)
        | none => .next s2
  | out => out

/-- A word fetched for an offer. The first issue at the PC at which a RESUME left the group meets no breakpoint (23 R519). -/
def State.offerWord (s s1 : State) (r : GRef) (t : Team) (core : Nat) (g : Group) (o : Offer) (ready : Bool) (w : Word) : Out :=
  let sl := g.slice (lowestSlice o.1)
  let skip := g.ctl.bpSkip == some sl.pc
  if o.2 then s.issueWaiting s1 t core r o.1 sl skip w else s.issueFetched s1 t core r o.1 sl skip ready w

/-- One offer of a group. -/
def State.tryOffer (s : State) (r : GRef) (t : Team) (core : Nat) (g : Group) (o : Offer) (ready : Bool) : Out :=
  let sl := g.slice (lowestSlice o.1)
  match s.fetch t core sl.pc with
  | (_, .hold) => .next s
  | (s1, .bad code oper true) => s.offerWord (s1.noteFetch r core t code oper) r t core g o ready 0xFFFFFFFF
  | (s1, .bad code oper false) => .next (s1.noteFetch r core t code oper)
  | (s1, .park va kind) => .next (s1.parkFetch t core r o.1 sl.resume va kind)
  | (s1, .deny va) => .next (s1.halt r 0x18 sl.resume (BitVec.ofNat 56 va))
  | (s1, .past) => execNotAnInstruction none (s1.issuing r o.1 0 none)
  | (s1, .word w) => s.offerWord s1 r t core g o ready w

/-- A group that cannot offer anything more in this cycle: it waits for a page, or its team has halted. -/
def State.groupStops (s s1 : State) (r : GRef) : Bool :=
  match s1.group? r with
  | some g => g.ctl.park.isSome || (((s1.team? r.team).map (fun t => t.fr.halted)).getD true && !((s.team? r.team).map (fun t => t.fr.halted)).getD true)
  | none => true

/-- The offers of a group in order, up to the first that is ready (R45): those before it stand inside their wait words. -/
def State.tryOffers (s : State) (r : GRef) (t : Team) (core : Nat) (g : Group) : List Offer → Out
  | [] => .next s
  | o :: rest =>
    let ready := s.ready r t core g o
    let out := s.tryOffer r t core g o ready
    if ready then out
    else
      match out with
      | .next s1 => if s.groupStops s1 r then out else State.tryOffers (if s1.inside r o.1 then s1 else s) r t core g rest
      | _ => out

/-- The next state of an outcome changed. -/
def mapNext (f : State → State) : Out → Out
  | .next s => .next (f s)
  | x => x

/-- A group's record after a turn during its skid (R390): the words it has issued in the cycles after the halt's, its PC and state. -/
def State.noteSkid (words : Nat) (after : Bool) (r : GRef) (s : State) : State :=
  s.modGroup r (fun g =>
    if g.flt.stopped then g
    else g.modFlt (fun f => { f with
      skid := f.skid + (if after then g.ctl.words - words else 0), stopPc := g.stopPcNow, state := g.stopState }))

/-! ## Stuffed words (23 R524) -/

/-- A control word, which an EXEC does not issue. -/
def isControl (w : Word) : Bool := decide (0x18 ≤ wordMajor w ∧ wordMajor w ≤ 0x1B) && (plainOf w).isSome

/-- The core whose agent runs an EXEC on a group of a halted team. -/
def State.stuffer (s : State) (t : Team) (r : GRef) : Option Nat :=
  if !t.fr.halted then none else (List.range s.cores.length).find? (fun k => (s.core k).dbg.busy && s.dbgTarget k == some r)

/-- The next stuffed word of the EXEC at a core, once the one before it has completed and where its group has issued nothing in the
cycle. -/
def State.stuffedWord (s : State) (agent : Nat) (t : Team) (r : GRef) : Option Word :=
  let d := (s.core agent).dbg
  let issued := match t.core? with
    | some core => (s.core core).clk.issued.any (fun w => w.team == t.id && w.group == r.g)
    | none => true
  if d.words ≤ d.done.toNat || !s.countersZero r || issued then none else some (d.buf.getD d.done.toNat 0)

/-- The state in which a stuffed word issues for every live slice of its group. -/
def State.stuffing (s : State) (agent : Nat) (r : GRef) (g : Group) (w : Word) : State :=
  s.issuing r g.liveSlices w (some ⟨(s.core agent).dbg.level, agent⟩)

/-- A stuffed word in its group's issue slot: held as any word is, or issued. -/
def State.issueStuffed (s : State) (agent : Nat) (t : Team) (r : GRef) (g : Group) : Out :=
  match s.stuffedWord agent t r, t.core? with
  | some w, some core =>
    if isControl w then .next (s.endExec ⟨(s.core agent).dbg.level, agent⟩ 2 0)
    else
      let s1 := s.stuffing agent r g w
      (match s1.holdNow w with
      | some h => .next (s.noteHold core h)
      | none => mapNext (fun s => s.dbgSettle agent) (s1.runRead w))
  | _, _ => .next s

/-- The EXEC at a core ends once its words have completed. -/
def State.runStuffed (s : State) (core : Nat) : Out := .next (s.dbgSettle core)

/-! ## The turn of a group -/

/-- A state in which the words issued at the tick of a stop have completed their issue stage and nothing more (23 R520; DESIGN CHOICE, log 89): the
accounts of their cores. -/
def State.issueStage (s s1 : State) : State :=
  { s with cores := s.cores.zipWith (fun (c c1 : Core) => { c with clk := c1.clk }) s1.cores }

/-- The turn of a group: at most one word of it issues. -/
def State.issueTurn (s : State) (r : GRef) : Out :=
  match s.team? r.team, s.group? r with
  | some t, some g =>
    (match t.core?, s.stuffer t r with
    | some _, some agent => s.issueStuffed agent t r g
    | some core, none =>
      if !s.mayIssue t g r.g then .next s
      else if t.fr.halted then
        mapNext (State.noteSkid g.ctl.words (decide (t.fr.haltedAt < s.cycle)) r) (s.tryOffers r t core g g.offers)
      else s.tryOffers r t core g g.offers
    | none, _ => .next s)
  | _, _ => .next s

/-- The turn of a group in a cycle; that of a tick at which the device stops goes no further than the issue stage. -/
def State.issue (s : State) (r : GRef) : Out :=
  if s.stopDue then mapNext s.issueStage (s.issueTurn r) else s.issueTurn r

end Sys2Proof.Machine
end

