-- ==== Sys2Proof/Machine/Policy.lean ====
section
/-! DEFINITION. What the machine does of itself when the agenda is empty (log 2): each thing that is due has one turn in a cycle, and
then the cycle ends. Words issue in the order of 15 R413. -/
namespace Sys2Proof.Machine

/-! ## What is due -/

/-- The first of some turns that has not been taken in this cycle. -/
def State.pick (s : State) (ds : List Due) : Option Due := ds.find? (fun d => !s.tried.contains d)

/-- The cores that answer to something. -/
def State.coresWhere (s : State) (f : Core → Bool) : List Nat :=
  (s.cores.mapIdx (fun i (c : Core) => (i, c))).filterMap (fun e => if f e.2 then some e.1 else none)

/-- The cores on which a team is resident. -/
def State.occupied (s : State) : List Nat := s.teams.filterMap Team.core?

/-- Every group of every resident team. -/
def State.groupRefs (s : State) : List GRef :=
  (s.teams.filter (fun t => t.core?.isSome && !t.ended)).flatMap (fun t =>
    (List.range t.groups.length).map (fun g => ⟨t.id, g⟩) ++ (if t.handler.isSome then [⟨t.id, 32⟩] else []))

/-- What is due of the groups themselves: timers, yields, joins, RCVs, traps. -/
def State.groupDues (s : State) : List Due :=
  s.groupRefs.flatMap (fun r =>
    match s.group? r with
    | none => []
    | some g =>
      (if g.timerDue s.tick then [.timerFire r.team r.g] else []) ++
      (if (g.ctl.yieldUntil.map (fun u => decide (u ≤ s.cycle))).getD false then [.yieldExpire r.team r.g] else []) ++
      (if g.joinReady then [.joinComplete r.team r.g] else []) ++
      (((sliceNums g.liveSlices).filter (fun k => (g.slice k).wait == .atRcv && (g.rcvReady (g.slice k).pc) != 0)).map
        (fun k => .rcvRelease r.team r.g (g.slice k).pc)) ++
      (if s.haltedTeam r.team then []
      else (g.substMissing s.cycle).map (Due.lineFill r.team r.g) ++
        (if g.releasable s.cycle = 0 then [] else [.trapRelease r.team r.g])))

/-- Handler groups that can be formed. -/
def State.handlerDues (s : State) : List Due :=
  (s.teams.filter (fun t => t.core?.isSome && !t.fr.halted && !t.ended && t.collects s.cycle)).map (fun t => .handlerFormation t.id)

/-- Results that can be written. -/
def State.returnDues (s : State) : List Due :=
  s.ops.flatMap (fun o =>
    if !o.kind.hasResult then []
    else if o.kind.isUniform then
      (if (o.sel &&& ~~~o.served) = 0 ∧ o.written ≠ o.sel then [.loadReturn o.id 0] else [])
    else
      ((List.range 8).filter (fun k =>
        let lanes : Lanes := o.sel &&& (0xF#32 <<< (4 * k))
        lanes != 0 && (lanes &&& ~~~o.served) == 0 && (lanes &&& ~~~o.written) != 0)).map (fun k => .loadReturn o.id k))

/-- What is due of the spiral: write-backs on their way, motions, fills, drains. -/
def State.spiralDues (s : State) : List Due :=
  (if s.wbq.isEmpty then [] else [.writeBack 0]) ++
  ((List.range 4).flatMap (fun q =>
    let k := s.quarter q
    let copies := k.chain ++ k.bay.filterMap (fun e => e.map Prod.fst)
    ((copies.filter (fun c => (c.motion.map (fun m => decide (m ≤ s.cycle))).getD false)).map (fun c => .motionEnd q c.tile)) ++
    ((copies.filter (fun c => c.filling && !s.fillHeld q c.tile)).map (fun c => .fillLands q c.tile)) ++
    (((List.range 4).filter (fun j => k.masks.getLsbD j && decide (k.maskAge.getD j 0 + 65536 ≤ s.cycle))).map (fun j => .maskDrain q j))))

/-- The fronts at which the words of the cycle stand (09 R306). -/
def State.frontDues (s : State) : List Due :=
  (List.range 4).flatMap (fun q =>
    if !(s.quarter q).frontDone && ((s.cores.drop (64 * q)).take 64).any (fun (c : Core) => !c.reqs.isEmpty) then [.admission q] else [])

/-- What is due of copy jobs: the first row that has not landed. -/
def Job.nextRow (j : Job) : Option Nat := (List.range j.rows).find? (fun r => j.rowMask r != 2 ^ j.rowLen - 1)

/-- What is due of the units: matrix words, copy jobs, tree and store words. -/
def State.unitDues (s : State) : List Due :=
  ((s.coresWhere (fun k => !k.mx.isEmpty)).map Due.matrixWord) ++
  ((s.teams.filter (fun t => t.core?.isSome)).flatMap (fun t => t.jobs.flatMap (fun j =>
    match j.state with
    | .issued => [.jobAccept t.id j.id]
    | .running => (if j.mayRun s t then [match j.nextRow with
        | some r => .jobLand t.id j.id r
        | none => .jobComplete t.id j.id] else [])
    | .done => []))) ++
  ((s.ops.filter (fun o => o.kind.isEngine && (o.sel &&& ~~~o.served) != 0)).filterMap (fun o =>
    ((s.team? o.team).bind Team.core?).map (fun c => .engineStep (s.polderOf (quarterOf c)) o.id)))

/-- The polders there are. -/
def State.polderNums (s : State) : List Nat := (List.range 4).filter (fun q => s.polderOf q == q)

/-- What is due of the launch queues and the dispatcher. -/
def State.launchDues (s : State) : List Due :=
  (s.polderNums.flatMap (fun p =>
    (if s.emits.any (fun e => s.polderOf (quarterOf e.core) == p) then [.dispatchRecord p] else []) ++
    ((List.range 128).filter (fun q => s.offers p q)).map (fun q =>
      if s.packetType p q = 0 then .noOperation p q else if s.packetType p q = 2 then .signalOnly p q else .kernelLaunch p q))) ++
  (s.launches.flatMap (fun l =>
    (if l.flag 2 && !l.looked && !l.torn then [.prefixLookup l.id] else []) ++
    (l.nodes.flatMap (fun n =>
      (if s.nodeLate l n then [.nodeTimeout l.id n.num] else []) ++ (if s.nodeDue l n ≠ 0 then [.nodeTeamCreate l.id n.num] else []))) ++
    (if !l.torn && (l.state == .complete || s.completes l false) then [.launchComplete l.id] else [])))

/-- What is due of the distributor (15 R409 to R411, R416, 21 R505, R506). -/
def State.placeDues (s : State) : List Due :=
  (s.polderNums.flatMap (fun p =>
    let cs := s.candidates p
    ((cs.filter (fun t => decide (65536 ≤ t.skipped) && !t.reserved)).map (fun t => .candidateReserved t.id)) ++
    ((cs.filterMap (fun t => (s.choose p t).map (fun c => (t, c)))).flatMap (fun (e : Team × Nat) =>
      ((blockOf e.2 e.1.shape.cluster).filter (fun k => (s.core k).regs.asleep)).map Due.retentionExit)) ++
    (if s.launches.any (fun l => l.polder == p) then (s.polderQuarters p).map (fun q => .placeTeam p q) else []) ++
    (s.occupied.eraseDups.filter (fun c =>
      s.polderOf (quarterOf c) == p && ((s.swapping c).isSome || ((s.core c).clk.progress == 4096 && !cs.isEmpty)))).map Due.swap ++
    (((s.coresWhere (fun k => k.clk.swapFor.isSome)).filter (fun c => s.polderOf (quarterOf c) == p && (s.swapping c).isNone)).map Due.swap))) ++
  (((s.coresWhere (fun k => k.regs.retEnable)).filter (fun c => s.mayRetire c)).map Due.retentionEntry)

/-- What is due of the polders' registers: a command in progress, a sluice that may close. -/
def State.commandDues (s : State) : List Due :=
  s.polderNums.flatMap (fun p =>
    let x := s.polder p
    (if x.cmdBusy then
      (match x.cmdOp.toNat with
      | 1 | 2 | 3 => if s.tableReady p x.cmdCtx.toNat then [.ctxCommand p] else []
      | 4 => [.preempt p x.cmdCtx.toNat]
      | 6 => [.teardown p x.cmdCtx.toNat]
      | 7 => [.shootall p x.cmdCtx.toNat]
      | _ => [])
    else []) ++
    (if x.sluice = 1 ∧ x.sluiceIdle then [.sluiceClosed p] else []))

/-- Samples, writes of the thermal policy and refreshes that are due (21 R501, R502, R504), links that must be trained again (19 R495), and the debug
agents at work. -/
def State.otherDues (s : State) : List Due :=
  ((List.range s.dev.sensors.length).filter s.sampleDue).map Due.sensorSample ++
  ((List.range s.dev.sensors.length).filter s.policyDue).map Due.thset ++
  (s.dev.channels.mapIdx (fun n (x : Channel) => (n, x))).filterMap (fun e => if e.2.nextRefresh ≤ s.tick.toNat then some (Due.refresh e.1) else none) ++
  (s.links.mapIdx (fun n (l : Link) => (n, l))).filterMap (fun e => if e.2.up && decide (8 ≤ e.2.tries) then some (Due.linkRetrain e.1) else none) ++
  (s.coresWhere (fun k => k.dbg.busy)).map Due.stuffed

/-! ## The choice of words (R413) -/

/-- What a group offers: its issuing context, and its instruction where it is no hint word. -/
structure Offered where
  cx : Cx
  instr : Option Instr
  deriving DecidableEq, Repr

/-- What a state in which a word issues offers. -/
def offeredIn (s : State) (w : Word) : Option Offered :=
  (cxOf s).map (fun c => { cx := c, instr := if fx w 26 6 = 0x3F then none else plainOf w })

/-- The word a group offers: of its first ready sub-gang (R45), else of its first. Of itself a group stops with the
cycle of its team's halt; an agenda may give it the turns of a longer skid (13 R389, log 10). A group for which an EXEC issues offers
the next word of it (23 R524). -/
def State.offered (s : State) (r : GRef) : Option Offered :=
  match s.team? r.team, s.group? r with
  | some t, some g =>
    (match t.core?, s.stuffer t r with
    | some _, some agent => (s.stuffedWord agent t r).bind (fun w => offeredIn (s.stuffing agent r g w) w)
    | some core, none =>
      if !s.mayIssue t g r.g || (t.fr.halted && t.fr.haltedAt != s.cycle) then none
      else
        (match s.firstReady r t core g with
        | some o =>
          let w : Word := match (s.fetch t core (g.slice (lowestSlice o.1)).pc).2 with
            | .word w => w
            | _ => 0
          offeredIn (s.issuing r o.1 w none) w
        | none => none)
    | none, _ => none)
  | _, _ => none

/-- A sparse partner (R69). -/
def Offered.sparse (o : Offered) : Bool :=
  match o.instr with
  | none => false
  | some _ =>
    let pair := ((hintOf o.cx.hs 2).map (fun p => p.toNat / 32 % 4)).getD 0
    pair == 1 || (pair == 0 && decide ((laneNums o.cx.act).length ≤ 8))

/-- The rank of an offered word on its core, the smallest first: pipe, level, age class, sparse partner, round-robin. A hint word, or
one that takes no pipe, goes before all. -/
def Offered.rank (o : Offered) (s : State) : List Nat :=
  let k := (s.core o.cx.core).clk
  let pipe := match o.instr with
    | some i => k.pipeFor i
    | none => 6
  let heavy := k.issued.any (fun w => w.heavy && decide (w.pipe < pipe))
  [if 6 ≤ pipe then 0 else pipe + 1, 7 - o.cx.team.shape.level, 7 - min 7 ((s.cycle - o.cx.team.placedAt) / 4096),
   if heavy && o.sparse then 0 else 1, (o.cx.groupSlot s + 33 - k.rr.getD pipe 0) % 33]

/-- The first of some offered words by rank. -/
def bestOffered (s : State) (os : List Offered) : Option Offered :=
  os.foldl (fun (best : Option Offered) o => match best with
    | none => some o
    | some b => if lexLt (o.rank s) (b.rank s) then some o else best) none

/-- Groups of a core whose turn of this cycle is still to come. -/
def State.turnsLeft (s : State) (core : Nat) : List Offered :=
  (((s.residents core).flatMap (fun t =>
    (List.range t.groups.length).map (fun g => (⟨t.id, g⟩ : GRef)) ++ (if t.handler.isSome then [⟨t.id, 32⟩] else []))).filter
      (fun r => !s.tried.contains (.issue r))).filterMap s.offered

/-- Lines that offered words lack (R64). -/
def lineDues (s : State) (os : List Offered) : List Due :=
  os.flatMap (fun o => match o.instr with
    | some i => ((o.cx.lines s i).filter (fun n => !o.cx.grp.resident.getD n false)).map
        (fun n => .lineFill o.cx.ref.team o.cx.ref.g n)
    | none => [])

/-- The cores in the order in which a cycle serves them: those of a quarter from its pointer (R70). -/
def State.coreOrder (s : State) : List Nat :=
  let occ := s.occupied
  ((List.range 4).flatMap (fun q => (List.range 64).map (fun i => 64 * q + ((s.quarter q).drawPtr + i) % 64))).filter
    (fun c => occ.contains c)

/-- The next word to issue, or a line it lacks. -/
def State.issueDue (s : State) : Option Due :=
  s.coreOrder.findSome? (fun c =>
    let os := s.turnsLeft c
    match s.pick (lineDues s os) with
    | some d => some d
    | none => (bestOffered s os).map (fun o => .issue o.cx.ref))

/-! ## The turn -/

/-- What is due next. -/
def State.nextDue (s : State) : Due :=
  if s.windowDue then .thermalWindow
  else
    (((((((((((s.pick s.otherDues).or (s.pick s.commandDues)).or (s.pick s.groupDues)).or (s.pick s.handlerDues)).or
      (s.pick s.spiralDues)).or (s.pick s.returnDues)).or (s.pick s.unitDues)).or (s.pick s.launchDues)).or (s.pick s.placeDues)).or
      s.issueDue).or (s.pick s.frontDues)).getD (if s.stopDue then .stopTick else .cycleEnd)

/-- The missing bytes of a row a job lands next: first byte, count. -/
def Job.gap (j : Job) (row : Nat) : Nat × Nat :=
  let m := j.rowMask row
  let lo := ((List.range j.rowLen).find? (fun b => m / 2 ^ b % 2 == 0)).getD 0
  let hi := ((List.range j.rowLen).find? (fun b => decide (lo < b) && m / 2 ^ b % 2 == 1)).getD j.rowLen
  (lo, hi - lo)

/-- A row of a job lands as far as it can at once. -/
def State.landRow (s : State) (team job row : Nat) : Out :=
  match (s.team? team).bind (fun t => t.jobs.find? (fun j => j.id == job)) with
  | some j => execJobLand team job row (j.gap row).1 (j.gap row).2 s
  | none => .next s

/-- A command of a polder that waited for its context table (16 R426, 21 R512). -/
def State.ctxCommand (s : State) (p : Nat) : Out :=
  let x := (s.polder p).cmdCtx.toNat
  match (s.polder p).cmdOp.toNat with
  | 1 => execCreate p x s
  | 2 => execQuota p x s
  | _ => execSync p x s

/-- A refresh that is due, of a length that nothing gives (log 78). -/
def State.takeRefresh (s : State) (channel : Nat) : Out := execRefresh channel (Config.refreshTicks s.draw.1) s.draw.2

/-- What is due, done. -/
def Due.run (d : Due) (s : State) : Out :=
  match d with
  | .issue r => s.issue r
  | .loadReturn op k => execLoadReturn op k s
  | .matrixWord c => execMatrixWordComplete c s
  | .joinComplete t g => execJoinComplete t g s
  | .rcvRelease t g a => execRcvRelease t g a s
  | .timerFire t g => execTimerFire t g s
  | .yieldExpire t g => execYieldExpire t g s
  | .handlerFormation t => execHandlerFormation t s
  | .trapRelease t g => execTrapRelease t g 0xFF s
  | .jobAccept t j => execJobAccept t j s
  | .jobLand t j row => s.landRow t j row
  | .jobComplete t j => execJobComplete t j s
  | .engineStep p o => execEngineStep p o s
  | .admission q => execAdmission q s
  | .fillLands q t => execFillLands q t s
  | .motionEnd q t => execMotionEnd q t s
  | .writeBack e => execWriteBackAtHome e s
  | .maskDrain h q => execMaskDrain h q s
  | .dispatchRecord p => execDispatchRecord p s
  | .kernelLaunch p q => execKernelLaunch p q s
  | .noOperation p q => execNoOperation p q s
  | .signalOnly p q => execSignalOnly p q s
  | .prefixLookup l => execPrefixLookup l s
  | .launchComplete l => execLaunchComplete l s
  | .placeTeam p q => execPlaceTeam p q s
  | .candidateReserved t => execCandidateReserved t s
  | .swap c => execForwardProgressSwap c s
  | .nodeTeamCreate l n => execNodeTeamCreate l n s
  | .nodeTimeout l n => execNodeTimeout l n s
  | .retentionEntry c => execRetentionEntry c s
  | .retentionExit c => execRetentionExit c true s
  | .preempt p x => execPreempt p x s
  | .teardown p x => execTeardown p x s
  | .shootall p x => execShootall p x s
  | .sluiceClosed p => execSluiceClosed p s
  | .lineFill t g n => execLineFill t g n s
  | .ctxCommand p => s.ctxCommand p
  | .refresh n => s.takeRefresh n
  | .sensorSample r => .next (s.takeSample r)
  | .thset r => execThset (s.policyValue r) s
  | .linkRetrain n => execLinkRetrain n s
  | .stuffed c => s.runStuffed c
  | .thermalWindow => execThermalWindow s
  | .stopTick => execStopTick s
  | .cycleEnd => execCycleEnd s

/-- The requests that a DOE mailbox takes (21 R514). -/
def isSpdm : Instr → Bool
  | .getVersion .. | .getCapabilities .. | .negotiateAlgorithms .. | .getDigests .. | .getCertificate .. | .challenge .. | .getMeasurements .. |
    .keyExchange .. | .finish .. => true
  | _ => false

/-- What a host does to the registers in BAR0 over CXL.io (15 R400 to R403, R422, 16 R426, R435, 17 R446, 19 R489). -/
def isBar : Instr → Bool
  | .regWrite space .. | .readClear space .. => decide (256 ≤ space)
  | .qtailWrite .. | .qcfgWrite .. | .tokenWrite .. | .create .. | .quota .. | .sync .. | .preempt .. | .resume .. | .teardown .. | .shootall .. |
    .retry .. | .deny .. | .dupfill .. | .fqcfgWrite .. | .fqheadWrite .. | .sncfgWrite .. | .biasFlip .. => true
  | _ => false

/-- Which events act (00 R13, 21 R513, 23 R520): on a stopped device reset and power loss alone; before the release from reset also that
release and the passing of cycles, since no state of the power-on span exists yet; in recovery mode also CXL.io, which reaches BAR0, and the requests of
the DOE mailbox. -/
def State.mayAct (s : State) : Instr → Bool
  | .reset => true
  | .powerLoss => true
  | .releaseFromReset .. => !s.stopped
  | .cycleEnd => !s.stopped
  | e => !s.stopped && s.dev.booted && (!s.dev.recov || isSpdm e || isBar e)

/-- The machine's own turn: before the release from reset and in recovery mode cycles pass and nothing else. -/
def State.ownTurn (s : State) : Out :=
  let d := if s.dev.booted && !s.dev.recov then s.nextDue else if s.windowDue then .thermalWindow else .cycleEnd
  d.run { s with tried := d :: s.tried }

end Sys2Proof.Machine
end

