-- ==== Sys2Proof/Machine/Step.lean ====
section
/-! DEFINITION. One step of the machine, and the placement of one word where the next step fetches it. -/
namespace Sys2Proof.Machine

/-- One turn of the agenda: a group's, or an event. An instruction word is no event: it acts for the group whose turn it is. -/
def Turn.run (t : Turn) (s : State) : Host.Outcome State Fault Refusal :=
  match t with
  | .issue r => if s.stopped || !s.dev.booted then .next s else s.issue r
  | .event e => if s.mayAct e then exec e { s with iss := none } else .next s

/-- One step (log 2): the turn at the head of the agenda; with none, the machine's own. -/
def step (s : State) : Host.Outcome State Fault Refusal :=
  match s.agenda with
  | t :: rest => t.run { s with agenda := rest }
  | [] => if s.stopped then .next s else s.ownTurn

/-- The role of the group that a placed word runs in: matrix for the majors of the matrix unit, producer for copies, else vector. -/
def roleFor (w : Word) : Nat × Nat × Nat :=
  if 0x30 ≤ wordMajor w ∧ wordMajor w ≤ 0x34 then (0, 1, 0) else if wordMajor w = 0x2B then (1, 0, 0) else (0, 0, 1)

/-- A group whose lines are all resident. -/
def Group.allResident (g : Group) : Group := { g with resident := g.resident.map (fun _ => true) }

/-- The state in which the next step fetches and runs a word (log 4): the device released from
reset; a service kernel of one group on core 0 (20 R497) whose code
section, at physical address 0, begins with the word; local memory laid out and ready, the matrix units ready, the feature bits of
the polder set, the group's lines resident; and the group's turn at the head of the agenda. -/
def State.withFetchWord (s : State) (_nbits w : Nat) : State :=
  let v : Word := BitVec.ofNat 32 w
  let role := roleFor v
  let s1 := { s with
    stopped := false, iss := none,
    parts := s.parts.map (fun (p : Part) => { p with irBase := p.irBase.set 0 1, irCfg := p.irCfg.set 0 0x10F0 }),
    polders := s.polders.map (fun (p : Polder) => { p with featOn := (0xFFFFF, 0) }),
    dev := { s.dev with booted := true, recov := false, readyDram := 0xFFFF, readyMatrix := 0xF },
    home := s.home.setNatAs s.keys none 0 4 v.toNat }
  let id := s1.dev.nextId
  let s2 := s1.placeService 0 (serviceShape 0 64 role.1 role.2.1 role.2.2 64 1) (serviceVals 0 0)
  { s2.modTeam id (fun t => { t with groups := t.groups.map Group.allResident }) with agenda := [.issue ⟨id, 0⟩] }

end Sys2Proof.Machine
end

