-- ==== Sys2Proof/Safety.lean ====
section
/-! DEFINITION. The terms in which claims are made: what must hold whatever runs, what an issuing word leaves alone, and how a group
stands after a word. -/
namespace Sys2Proof.Safety
open Sys2Proof.Machine

/-! ## Invariants -/

/-- Home memory is in canonical form (log 1). -/
def memoryWf (s : State) : Prop := Memory.wf s.home.cells = true

/-- The polder masks of the four quarters (19 R476). -/
def masks (s : State) : List (BitVec 4) := s.parts.map (fun p => p.mask)

/-- The quarters form polders (19 R476): each lies in its own, and two that share a polder name the same quarters. -/
def poldersLegal (s : State) : Prop :=
  (masks s).length = 4 ∧
  (∀ q, q < 4 → ((masks s).getD q 0).getLsbD q = true) ∧
  (∀ a b, a < 4 → b < 4 → ((masks s).getD a 0).getLsbD b = true → (masks s).getD b 0 = (masks s).getD a 0)

/-! ## One byte of memory -/

/-- The byte of a physical address that quarter q sees: its own copy's where that holds it, else the home's. -/
def byteAt (s : State) (q pa : Nat) : Byte :=
  match (s.quarter q).copy? (pa / 4096) with
  | some c => if c.valid.getLsbD (pa % 4096) then BitVec.ofNat 8 (c.read (pa % 4096) 1) else s.home.byte pa
  | none => s.home.byte pa

/-! ## The word that issues -/

/-- The state's issuing word is i, in the context c, and passes every check of 03 R116. -/
structure Issues (s : State) (c : Cx) (i : Instr) : Prop where
  here : cxOf s = some c
  allowed : precheck s c i = none

/-- A team without its groups and the cycle of its last counted word (15 R413). -/
def teamRest (t : Team) : Team := { t with groups := [], handler := none, lastCounted := 0 }

/-- A core without its issue accounts (02 R48, R67), the markers noted for its trace (23 R521) and the words its EXEC has completed
(23 R524). -/
def coreRest (k : Core) : Core := { k with clk := Core.reset.clk, dbg := { k.dbg with trcOut := [], done := 0 } }

/-- What a word that acts on its own group's registers leaves as it was: every other group, the teams' other state with their
scratchpads, the operations in flight, every register outside the issue accounts, and every byte of memory. -/
structure Elsewhere (s t : State) (c : Cx) : Prop where
  groups : ∀ r, r ≠ c.ref → t.group? r = s.group? r
  teams : t.teams.map teamRest = s.teams.map teamRest
  cores : t.cores.map coreRest = s.cores.map coreRest
  bytes : ∀ q pa, byteAt t q pa = byteAt s q pa
  home : t.home = s.home
  rest : { t with teams := [], cores := [], home := Home.reset } = { s with teams := [], cores := [], home := Home.reset }

/-- A slice without its waiting. -/
def sliceRest (sl : Slice) : Slice := { sl with wait := .running }

/-- A slice that stands at the armed join label waits there (05 R198); any other waits as given. -/
def waitAt (g : Group) (sl : Slice) (w : SliceWait) : SliceWait :=
  match g.ctl.joins with
  | [] => w
  | (label, _) :: _ => if sl.live = true ∧ w = .running ∧ sl.pc = label then .atJoin else w

/-- The slices of the issuing sub-gang after a word of it (02 R45, R47, 05 R189), from a group g to g': each at its next PC, its hints
spent, inside no word; the others where they were. A stuffed word moves no slice (23 R524). `next` gives the next PC of each and
whether a transfer reached it. -/
structure Advanced (c : Cx) (g g' : Group) (next : Nat → Word × Bool) : Prop where
  count : g'.slices.length = g.slices.length
  issued : ∀ k, k < g.slices.length → c.slices.getLsbD k = true →
    sliceRest (g'.slice k) =
      if c.stuffed.isSome then sliceRest { g.slice k with hints := [], bundle := none }
      else sliceRest { g.slice k with pc := (next k).1, landed := (next k).2, hints := [], bundle := none }
  others : ∀ k, k < g.slices.length → c.slices.getLsbD k = false → sliceRest (g'.slice k) = sliceRest (g.slice k)
  waits : ∀ k, k < g.slices.length →
    (g'.slice k).wait = waitAt g' (g'.slice k)
      (if c.slices.getLsbD k = true ∧ c.stuffed = none ∧ ((g.slice k).wait = .inWord ∨ (g.slice k).wait = .inTimed)
       then .running else (g.slice k).wait)

/-- The next word, reached by no transfer. -/
def onward (c : Cx) : Nat → Word × Bool := fun _ => (c.pc + 4, false)

/-- Control state without what every issue moves: the slice pointer, the breakpoint skip, yielding, the HSCHED stall, the count of its
words, the marks up to which BWAIT, WAITB and rejoins order its reads (11 R337, R341), and the translations kept for a replay (13 R377). -/
def ctlRest (k : Ctl) : Ctl := { k with ptr := 0, bpSkip := none, yielding := false, stallUntil := 0, words := 0, readsTo := 0, joinTo := 0, kept := [] }

/-- A group's registers without its slices, its first-issue mark and what every issue moves. -/
def regsOf (g : Group) : Group := { g with slices := [], started := false, ctl := ctlRest g.ctl }

/-- Line j, lane l of a group. -/
def lane (g : Group) (j l : Nat) : Word := Line.at (g.line j) l

/-- The lines of a group after a write of k registers from register d in the lanes sel, register d + n of lane l taking f n l: no
other line, and no other lane, changes (05 R149). A line that the group does not have takes nothing. -/
def LinesWritten (g g' : Group) (d k : Nat) (sel : Lanes) (f : Nat → Nat → Word) : Prop :=
  g'.lines.length = g.lines.length ∧
  ∀ j l, l < 32 → lane g' j l =
    if g.ctl.base + d ≤ j ∧ j < g.ctl.base + d + k ∧ j < g.lines.length ∧ sel.getLsbD l = true then f (j - (g.ctl.base + d)) l
    else lane g j l

/-- The scalars of a group after a write of s(n). -/
def ScalarWritten (g g' : Group) (n : Nat) (x : DWord) : Prop :=
  g'.scalars.length = g.scalars.length ∧ ∀ k, g'.s k = if k = n ∧ n < g.scalars.length then x else g.s k

/-- The predicates of a group after a write of p(n) in the lanes sel (02 R59): p0 reads as all ones and takes nothing. -/
def PredWritten (g g' : Group) (n : Nat) (sel bits : Lanes) : Prop :=
  g'.preds.length = g.preds.length ∧
  ∀ k, g'.p k = if k = n ∧ n ≠ 0 ∧ n < g.preds.length then (g.p n &&& ~~~sel) ||| (bits &&& sel) else g.p k

/-- The index registers of a group after a write of x(n) in the lanes sel (02 R58). -/
def IndexWritten (g g' : Group) (n : Nat) (sel : Lanes) (f : Nat → BitVec 16) : Prop :=
  g'.index.length = g.index.length ∧
  ∀ k l, l < 32 → g'.x k l = if k = n ∧ n < g.index.length ∧ sel.getLsbD l = true then f l else g.x k l

/-! ## What a word makes of its group -/

/-- The issuing word of the context c took the state s to t: its group is g' afterwards, its slices stand at `next`, and nothing
outside the group has changed. -/
structure Moved (s : State) (c : Cx) (t : State) (g' : Group) (next : Nat → Word × Bool) : Prop where
  group : t.group? c.ref = some g'
  elsewhere : Elsewhere s t c
  advanced : Advanced c c.grp g' next

/-- Vector registers from d on, in the lanes sel, are all that a word writes. -/
structure WritesLines (g g' : Group) (d k : Nat) (sel : Lanes) (f : Nat → Nat → Word) : Prop where
  lines : LinesWritten g g' d k sel f
  others : regsOf g' = { regsOf g with lines := g'.lines, dirty := g'.dirty, latch := g'.latch, lineErrs := g'.lineErrs }

/-- Vector registers and the rounding generator (04 R130) are all that a word writes. -/
structure WritesDrawn (g g' : Group) (d k : Nat) (sel : Lanes) (f : Nat → Nat → Word) (lfsr : Word) : Prop where
  lines : LinesWritten g g' d k sel f
  others : regsOf g' = { regsOf g with lines := g'.lines, dirty := g'.dirty, latch := g'.latch, lineErrs := g'.lineErrs, ctl := { ctlRest g.ctl with lfsr := lfsr } }

/-- s(n) is all that a word writes. -/
structure WritesScalar (g g' : Group) (n : Nat) (x : DWord) : Prop where
  scalars : ScalarWritten g g' n x
  others : regsOf g' = { regsOf g with scalars := g'.scalars }

/-- p(n) in the lanes sel is all that a word writes. -/
structure WritesPred (g g' : Group) (n : Nat) (sel bits : Lanes) : Prop where
  preds : PredWritten g g' n sel bits
  others : regsOf g' = { regsOf g with preds := g'.preds }

/-- x(n) in the lanes sel is all that a word writes. -/
structure WritesIndex (g g' : Group) (n : Nat) (sel : Lanes) (f : Nat → BitVec 16) : Prop where
  index : IndexWritten g g' n sel f
  others : regsOf g' = { regsOf g with index := g'.index }

/-! ## The values of register words -/

/-- u(n) of lane l (01 R41). -/
abbrev reg (c : Cx) (n : BitVec 6) (l : Nat) : Word := c.grp.v n.toNat l

/-- The pair of n in lane l (02 R57). -/
abbrev pair (c : Cx) (n : BitVec 6) (l : Nat) : DWord := c.grp.v64 n.toNat l

/-- x clamped to w bits, signed (05 R150, R153). -/
def satI (w : Nat) (x : Int) : BitVec w := wrapI w (clampI x (-(2 ^ (w - 1))) (2 ^ (w - 1) - 1))

/-- x clamped to w bits, unsigned (05 R150, R153). -/
def satN (w : Nat) (x : Int) : BitVec w := wrapI w (clampI x 0 (2 ^ w - 1))

/-- The words that write one vector register d in the lanes of p, and what lane l takes. -/
inductive LaneWord (c : Cx) : Instr → BitVec 6 → BitVec 3 → (Nat → Word) → Prop
  | add (d a b p) : LaneWord c (.add d a b p) d p (fun l => reg c a l + reg c b l)
  | sub (d a b p) : LaneWord c (.sub d a b p) d p (fun l => reg c a l - reg c b l)
  | minI32 (d a b p) : LaneWord c (.minI32 d a b p) d p (fun l => if (reg c a l).toInt ≤ (reg c b l).toInt then reg c a l else reg c b l)
  | minN32 (d a b p) : LaneWord c (.minN32 d a b p) d p (fun l => if (reg c a l).toNat ≤ (reg c b l).toNat then reg c a l else reg c b l)
  | maxI32 (d a b p) : LaneWord c (.maxI32 d a b p) d p (fun l => if (reg c a l).toInt ≤ (reg c b l).toInt then reg c b l else reg c a l)
  | maxN32 (d a b p) : LaneWord c (.maxN32 d a b p) d p (fun l => if (reg c a l).toNat ≤ (reg c b l).toNat then reg c b l else reg c a l)
  | andB (d a b p) : LaneWord c (.andB d a b p) d p (fun l => reg c a l &&& reg c b l)
  | orB (d a b p) : LaneWord c (.orB d a b p) d p (fun l => reg c a l ||| reg c b l)
  | xorB (d a b p) : LaneWord c (.xorB d a b p) d p (fun l => reg c a l ^^^ reg c b l)
  | andn (d a b p) : LaneWord c (.andn d a b p) d p (fun l => reg c a l &&& ~~~(reg c b l))
  | absdI32 (d a b p) : LaneWord c (.absdI32 d a b p) d p (fun l => BitVec.ofNat 32 ((reg c a l).toInt - (reg c b l).toInt).natAbs)
  | absdN32 (d a b p) : LaneWord c (.absdN32 d a b p) d p
      (fun l => BitVec.ofNat 32 (((reg c a l).toNat : Int) - (reg c b l).toNat).natAbs)
  | addsatI32 (d a b p) : LaneWord c (.addsatI32 d a b p) d p (fun l => satI 32 ((reg c a l).toInt + (reg c b l).toInt))
  | addsatN32 (d a b p) : LaneWord c (.addsatN32 d a b p) d p (fun l => satN 32 (((reg c a l).toNat : Int) + (reg c b l).toNat))
  | subsatI32 (d a b p) : LaneWord c (.subsatI32 d a b p) d p (fun l => satI 32 ((reg c a l).toInt - (reg c b l).toInt))
  | subsatN32 (d a b p) : LaneWord c (.subsatN32 d a b p) d p (fun l => satN 32 (((reg c a l).toNat : Int) - (reg c b l).toNat))
  | addi (d a k p) : LaneWord c (.addi d a k p) d p (fun l => reg c a l + wrapI 32 (immVI c.hs k))
  | muli (d a k p) : LaneWord c (.muli d a k p) d p (fun l => reg c a l * wrapI 32 (immVI c.hs k))
  | andi (d a k p) : LaneWord c (.andi d a k p) d p (fun l => reg c a l &&& wrapI 32 (immVI c.hs k))
  | ori (d a k p) : LaneWord c (.ori d a k p) d p (fun l => reg c a l ||| wrapI 32 (immVI c.hs k))
  | xori (d a k p) : LaneWord c (.xori d a k p) d p (fun l => reg c a l ^^^ wrapI 32 (immVI c.hs k))
  | shli (d a k p) : LaneWord c (.shli d a k p) d p (fun l => reg c a l <<< (immVI c.hs k).toNat)
  | shri (d a k p) : LaneWord c (.shri d a k p) d p (fun l => reg c a l >>> (immVI c.hs k).toNat)
  | sari (d a k p) : LaneWord c (.sari d a k p) d p (fun l => (reg c a l).sshiftRight (immVI c.hs k).toNat)
  | shl (d a b p) : LaneWord c (.shl d a b p) d p (fun l => reg c a l <<< (reg c b l).toNat)
  | shr (d a b p) : LaneWord c (.shr d a b p) d p (fun l => reg c a l >>> (reg c b l).toNat)
  | sar (d a b p) : LaneWord c (.sar d a b p) d p (fun l => (reg c a l).sshiftRight (reg c b l).toNat)
  | rol (d a b p) : LaneWord c (.rol d a b p) d p (fun l => (reg c a l).rotateLeft ((reg c b l).toNat % 32))
  | ror (d a b p) : LaneWord c (.ror d a b p) d p (fun l => (reg c a l).rotateRight ((reg c b l).toNat % 32))
  | popc (d a p) : LaneWord c (.popc d a p) d p (fun l => BitVec.ofNat 32 (popCount (reg c a l)))
  | clz (d a p) : LaneWord c (.clz d a p) d p (fun l => BitVec.ofNat 32 (clzCount (reg c a l)))
  | ctz (d a p) : LaneWord c (.ctz d a p) d p (fun l => BitVec.ofNat 32 (ctzCount (reg c a l)))
  | brev (d a p) : LaneWord c (.brev d a p) d p (fun l => (reg c a l).reverse)
  | bfxN32 (d a b p) : LaneWord c (.bfxN32 d a b p) d p (fun l => bfx false (reg c a l) (reg c b l))
  | bfxI32 (d a b p) : LaneWord c (.bfxI32 d a b p) d p (fun l => bfx true (reg c a l) (reg c b l))
  | bfi (d a b p) : LaneWord c (.bfi d a b p) d p (fun l => bfi (reg c d l) (reg c a l) (reg c b l))
  | permb (d a b p) : LaneWord c (.permb d a b p) d p (fun l => permb (reg c d l) (reg c a l) (reg c b l))
  | mul (d a b p) : LaneWord c (.mul d a b p) d p (fun l => reg c a l * reg c b l)
  | mulhiI32 (d a b p) : LaneWord c (.mulhiI32 d a b p) d p (fun l => wrapI 32 ((reg c a l).toInt * (reg c b l).toInt / 2 ^ 32))
  | mulhiN32 (d a b p) : LaneWord c (.mulhiN32 d a b p) d p (fun l => BitVec.ofNat 32 ((reg c a l).toNat * (reg c b l).toNat / 2 ^ 32))
  | mad (d a b p) : LaneWord c (.mad d a b p) d p (fun l => reg c a l * reg c b l + reg c d l)
  | sel (d a b n p) : LaneWord c (.sel d a b n p) d p (fun l => if (c.grp.p n.toNat).getLsbD l then reg c a l else reg c b l)
  | shflIdx (d a b p) : LaneWord c (.shflIdx d a b p) d p
      (fun l => if (reg c b l).toNat < 32 then sourceLane c.grp a.toNat (reg c b l).toNat else reg c a l)
  | shflUp (d a k p) : LaneWord c (.shflUp d a k p) d p
      (fun l => if k.toNat ≤ l then sourceLane c.grp a.toNat (l - k.toNat) else reg c a l)
  | shflDown (d a k p) : LaneWord c (.shflDown d a k p) d p
      (fun l => if l + k.toNat < 32 then sourceLane c.grp a.toNat (l + k.toNat) else reg c a l)
  | shflXor (d a k p) : LaneWord c (.shflXor d a k p) d p (fun l => sourceLane c.grp a.toNat (l ^^^ k.toNat))
  | bcast (d a k p) : LaneWord c (.bcast d a k p) d p (fun _ => sourceLane c.grp a.toNat k.toNat)
  | matchLanes (d a p) : LaneWord c (.matchLanes d a p) d p
      (fun l => c.sel p.toNat &&& lanesWhere (fun j => reg c a j == reg c a l))
  | movsr (d n p) : LaneWord c (.movsr d n p) d p (fun l => movsrValue c n.toNat l)
  | mov (d a p) : LaneWord c (.mov d a p) d p (fun l => reg c a l)
  | movi (d k p) : LaneWord c (.movi d k p) d p (fun _ => wrapI 32 (immVI c.hs k))
  | movhi (d k p) : LaneWord c (.movhi d k p) d p (fun _ => wrapI 32 (immVI c.hs k * 65536))
  | movs2v (d a p) : LaneWord c (.movs2v d a p) d p (fun _ => (c.grp.s a.toNat).setWidth 32)
  | scmp (d a b p) : LaneWord c (.scmp d a b p) d p
      (fun l => BitVec.ofNat 32 (scmpResult (c.grp.str a.toNat l) (c.grp.str b.toNat l)))
  | sfindb (d a b p) : LaneWord c (.sfindb d a b p) d p (fun l =>
      BitVec.ofNat 32 (hitMask (fun j => c.grp.strByte a.toNat l j == (reg c b l).toNat % 256) +
        ((List.range 16).find? (fun j => c.grp.strByte a.toNat l j == (reg c b l).toNat % 256)).getD 16))
  | smatch (d a b p) : LaneWord c (.smatch d a b p) d p (fun l =>
      BitVec.ofNat 32 (hitMask (fun j => c.grp.strByte a.toNat l j == c.grp.strByte b.toNat l j) +
        firstDiff (c.grp.str a.toNat l) (c.grp.str b.toNat l)))
  | hcrc (d a b p) : LaneWord c (.hcrc d a b p) d p (fun l =>
      (List.range 4).foldl (fun x k => crcByte x ((reg c b l).toNat / 256 ^ k)) (reg c a l))
  | rhash (d a b p) : LaneWord c (.rhash d a b p) d p (fun l =>
      BitVec.ofNat 32 (((reg c a l).toNat % (2 ^ 31 - 1) * 48271 + (reg c b l).toNat + 1) % (2 ^ 31 - 1)))
  | pbin (d a b p) : LaneWord c (.pbin d a b p) d p (fun l => BitVec.ofNat 32 ((reg c a l).toNat * (reg c b l).toNat / 2 ^ 32))

/-- Functions of IOP on pairs, as 03 R100 numbers them. -/
inductive WideFn : BitVec 5 → (DWord → DWord → DWord) → Prop
  | add : WideFn 0 (fun x y => x + y)
  | sub : WideFn 1 (fun x y => x - y)
  | minI : WideFn 2 (fun x y => if x.toInt ≤ y.toInt then x else y)
  | minN : WideFn 3 (fun x y => if x.toNat ≤ y.toNat then x else y)
  | maxI : WideFn 4 (fun x y => if x.toInt ≤ y.toInt then y else x)
  | maxN : WideFn 5 (fun x y => if x.toNat ≤ y.toNat then y else x)
  | and : WideFn 6 (fun x y => x &&& y)
  | or : WideFn 7 (fun x y => x ||| y)
  | xor : WideFn 8 (fun x y => x ^^^ y)
  | andn : WideFn 9 (fun x y => x &&& ~~~y)
  | absdI : WideFn 10 (fun x y => BitVec.ofNat 64 (x.toInt - y.toInt).natAbs)
  | absdN : WideFn 11 (fun x y => BitVec.ofNat 64 ((x.toNat : Int) - y.toNat).natAbs)
  | addsatI : WideFn 12 (fun x y => satI 64 (x.toInt + y.toInt))
  | addsatN : WideFn 13 (fun x y => satN 64 ((x.toNat : Int) + y.toNat))
  | subsatI : WideFn 14 (fun x y => satI 64 (x.toInt - y.toInt))
  | subsatN : WideFn 15 (fun x y => satN 64 ((x.toNat : Int) - y.toNat))

/-- The words that write the pair d in the lanes of p, and what lane l takes. -/
inductive PairWord (c : Cx) : Instr → BitVec 6 → BitVec 3 → (Nat → DWord) → Prop
  | iopw (d a b p fn op) : WideFn fn op → PairWord c (.iopw d a b fn p) d p (fun l => op (pair c a l) (pair c b l))
  | shlB64 (d a b p) : PairWord c (.shlB64 d a b p) d p (fun l => pair c a l <<< (reg c b l).toNat)
  | shrB64 (d a b p) : PairWord c (.shrB64 d a b p) d p (fun l => pair c a l >>> (reg c b l).toNat)
  | sarB64 (d a b p) : PairWord c (.sarB64 d a b p) d p (fun l => (pair c a l).sshiftRight (reg c b l).toNat)
  | rolB64 (d a b p) : PairWord c (.rolB64 d a b p) d p (fun l => (pair c a l).rotateLeft ((reg c b l).toNat % 64))
  | rorB64 (d a b p) : PairWord c (.rorB64 d a b p) d p (fun l => (pair c a l).rotateRight ((reg c b l).toNat % 64))
  | popcB64 (d a p) : PairWord c (.popcB64 d a p) d p (fun l => BitVec.ofNat 64 (popCount (pair c a l)))
  | clzB64 (d a p) : PairWord c (.clzB64 d a p) d p (fun l => BitVec.ofNat 64 (clzCount (pair c a l)))
  | ctzB64 (d a p) : PairWord c (.ctzB64 d a p) d p (fun l => BitVec.ofNat 64 (ctzCount (pair c a l)))
  | brevB64 (d a p) : PairWord c (.brevB64 d a p) d p (fun l => (pair c a l).reverse)
  | mulwI32 (d a b p) : PairWord c (.mulwI32 d a b p) d p (fun l => (reg c a l).signExtend 64 * (reg c b l).signExtend 64)
  | mulwN32 (d a b p) : PairWord c (.mulwN32 d a b p) d p (fun l => (reg c a l).setWidth 64 * (reg c b l).setWidth 64)
  | hmix (d a p) : PairWord c (.hmix d a p) d p (fun l => hmix (pair c a l))

/-- The words that write k vector registers from d on from one number a lane, lowest register first, without drawing. -/
inductive RunWord (c : Cx) : Instr → BitVec 6 → Nat → BitVec 3 → (Nat → Nat) → Prop
  | sld (d a b p) : RunWord c (.sld d a b p) d 4 p (fun l => packElems 8 ((List.range 16).map (fun j =>
      if j < min ((reg c b l).toNat / 256 % 32) 16 ∧ (reg c b l).toNat % 32 + j < 32
      then c.grp.strByte a.toNat l ((reg c b l).toNat % 32 + j) else 0)))
  | sst (d a b p) : RunWord c (.sst d a b p) d 8 p (fun l => packElems 8 ((List.range 32).map (fun k =>
      if (reg c b l).toNat % 32 ≤ k ∧ k - (reg c b l).toNat % 32 < min ((reg c b l).toNat / 256 % 32) 16
      then c.grp.strByte a.toNat l (k - (reg c b l).toNat % 32) else c.grp.strByte d.toNat l k)))
  | sfold (d a p) : RunWord c (.sfold d a p) d 4 p (fun l => packElems 8 ((c.grp.str a.toNat l).map (fun x =>
      if 0x41 ≤ x ∧ x ≤ 0x5A then x + 0x20 else x)))
  | pack6 (d a t p) : RunWord c (.pack6 d a t p) d 4 p (fun l =>
      packElems 4 ((List.range 16).map (fun j => c.grp.strByte a.toNat l j / 4 % 16)) +
      2 ^ 64 * packElems 2 ((List.range 16).map (fun j => c.grp.strByte a.toNat l j % 4)))
  | unpk6 (d a t p) : RunWord c (.unpk6 d a t p) d 4 p (fun l => packElems 8 ((List.range 16).map (fun j =>
      c.grp.vN a.toNat l 2 / 16 ^ j % 16 * 4 + (c.grp.v (a.toNat + 2) l).toNat / 4 ^ j % 4)))
  | lgdec (d a p) : RunWord c (.lgdec d a p) d 4 p (fun l => packElems 32 ((List.range 4).map (fun e =>
      roundNum fmtF32 Mods.plain (lgDecode (c.grp.strByte a.toNat l e % 64)) 0)))

/-- The element codes that the lanes of p compute for a float word of type t from the registers of `srcs`, lane by lane and element by
element, and the generator after them (04 R130, 05 R166, R169). -/
def floatCodes (c : Cx) (t : BitVec 2) (p : BitVec 3) (srcs : List Nat) (op : Fmt → Mods → List Nat → Word → Nat × Word) :
    List (Nat × List Nat) × Word :=
  drawLanes (c.sel p.toNat) c.grp.ctl.lfsr (fun l st =>
    drawList st (List.range (if t.toNat < 2 then 1 else 2)) (fun e st =>
      op (vecFmt t.toNat) (modsOf c.hs) (srcs.map (fun n => (c.grp.codes t.toNat n l).getD e 0)) st))

/-- The value of a lane in a list of lanes with their element codes of a width. -/
def packedLane (w : Nat) (r : List (Nat × List Nat)) (l : Nat) : Nat := packElems w ((lookupNat r l).getD [])

/-- The float words of majors FOP, FMAC and FSPC: type, destination, guard, source registers and operation (05 R166 to R171). -/
inductive FloatWord (c : Cx) :
    Instr → BitVec 2 → BitVec 6 → BitVec 3 → List Nat → (Fmt → Mods → List Nat → Word → Nat × Word) → Prop
  | fadd (d a b t p) : FloatWord c (.fadd d a b t p) t d p [a.toNat, b.toNat] (fun f md xs st =>
      finish f md (Exact.add md.rm (source f md (xs.getD 0 0)) (source f md (xs.getD 1 0))) st)
  | fsub (d a b t p) : FloatWord c (.fsub d a b t p) t d p [a.toNat, b.toNat] (fun f md xs st =>
      finish f md (Exact.add md.rm (source f md (xs.getD 0 0)) (source f md (xs.getD 1 0)).neg) st)
  | fmul (d a b t p) : FloatWord c (.fmul d a b t p) t d p [a.toNat, b.toNat] (fun f md xs st =>
      finish f md ((source f md (xs.getD 0 0)).mul (source f md (xs.getD 1 0))) st)
  | fmin (d a b t p) : FloatWord c (.fmin d a b t p) t d p [a.toNat, b.toNat] (fopExact (Exact.minMax false))
  | fmax (d a b t p) : FloatWord c (.fmax d a b t p) t d p [a.toNat, b.toNat] (fopExact (Exact.minMax true))
  | fabs (d a t p) : FloatWord c (.fabs d a t p) t d p [a.toNat] (fopExact (fun x _ => x.abs))
  | fneg (d a t p) : FloatWord c (.fneg d a t p) t d p [a.toNat] (fopExact (fun x _ => x.neg))
  | fma (d a b t p) : FloatWord c (.fma d a b t p) t d p [a.toNat, b.toNat, d.toNat] (fmacOp false false)
  | fms (d a b t p) : FloatWord c (.fms d a b t p) t d p [a.toNat, b.toNat, d.toNat] (fmacOp false true)
  | fnma (d a b t p) : FloatWord c (.fnma d a b t p) t d p [a.toNat, b.toNat, d.toNat] (fmacOp true false)
  | fmad (d a b t p) : FloatWord c (.fmad d a b t p) t d p [a.toNat, b.toNat, hregOf c.hs] (fmacOp false false)
  | rcp (d a t p) : FloatWord c (.rcp d a t p) t d p [a.toNat] (fun f md xs st => fspcCode f t.toNat 0 md (xs.getD 0 0) st)
  | rsq (d a t p) : FloatWord c (.rsq d a t p) t d p [a.toNat] (fun f md xs st => fspcCode f t.toNat 1 md (xs.getD 0 0) st)
  | sqrt (d a t p) : FloatWord c (.sqrt d a t p) t d p [a.toNat] (fun f md xs st => fspcCode f t.toNat 2 md (xs.getD 0 0) st)
  | exp2 (d a t p) : FloatWord c (.exp2 d a t p) t d p [a.toNat] (fun f md xs st => fspcCode f t.toNat 3 md (xs.getD 0 0) st)
  | log2 (d a t p) : FloatWord c (.log2 d a t p) t d p [a.toNat] (fun f md xs st => fspcCode f t.toNat 4 md (xs.getD 0 0) st)
  | sin (d a t p) : FloatWord c (.sin d a t p) t d p [a.toNat] (fun f md xs st => fspcCode f t.toNat 5 md (xs.getD 0 0) st)
  | cos (d a t p) : FloatWord c (.cos d a t p) t d p [a.toNat] (fun f md xs st => fspcCode f t.toNat 6 md (xs.getD 0 0) st)
  | tanh (d a t p) : FloatWord c (.tanh d a t p) t d p [a.toNat] (fun f md xs st => fspcCode f t.toNat 7 md (xs.getD 0 0) st)

/-- The five levels of a RED over the leaves of its selected lanes, and the generator after them (04 R134, 05 R175). -/
def redTree (c : Cx) (a : BitVec 6) (o p : BitVec 3) : List (Option Word) × Word :=
  (List.range 5).foldl (fun acc _ => redLevel o.toNat (modsOf c.hs) acc.1 acc.2)
    (laneList.map (fun l => if (c.sel p.toNat).getLsbD l then some (redLeaf o.toNat (modsOf c.hs) (reg c a l)) else none), c.grp.ctl.lfsr)

/-- The prefixes of a SCAN: each selected lane with its result, the running value, the generator (04 R134, 05 R175). -/
def scanPrefixes (c : Cx) (a : BitVec 6) (o p : BitVec 3) : List (Nat × Word) × Option Word × Word :=
  (laneNums (c.sel p.toNat)).foldl (fun acc l =>
    let x := redLeaf o.toNat (modsOf c.hs) (reg c a l)
    match acc.2.1 with
    | none => (acc.1 ++ [(l, x)], some x, acc.2.2)
    | some y =>
      let z := redOp o.toNat (modsOf c.hs) y x acc.2.2
      (acc.1 ++ [(l, z.1)], some z.1, z.2)) ([], none, c.grp.ctl.lfsr)

/-- The blocks of a QBLK, one a quarter of the group with a selected lane: code and scale word of each lane, and the generator
(04 R144). -/
def qblkLanes (c : Cx) (a : BitVec 6) (t : BitVec 4) (m : Nat) (p : BitVec 3) : List (Nat × Nat × Nat) × Word :=
  (List.range 4).foldl (fun acc q =>
    let ls := (laneNums (c.sel p.toNat)).filter (fun l => l / 8 == q)
    if ls.isEmpty then acc
    else
      let b := qblkQuarter t.toNat (modsOf c.hs) (ls.map (fun l => (l, (List.range m).map (fun e =>
        let x := source fmtF32 (modsOf c.hs) (c.grp.v (a.toNat + e) l).toNat
        if (modsOf c.hs).sat then satNum x else x)))) acc.2
      (acc.1 ++ b.2.1.map (fun x => (x.1, packElems (fmtBits t.toNat) x.2, b.1)), b.2.2)) ([], c.grp.ctl.lfsr)

/-- Other words that write k vector registers from d on from one number a lane, drawing as they round. -/
inductive DrawWord (c : Cx) : Instr → BitVec 6 → Nat → BitVec 3 → (Nat → Nat) → Word → Prop
  | cvt (d a t rs p r) :
      r = drawLanes (c.sel p.toNat) c.grp.ctl.lfsr (fun l st => drawList st
        ((List.range (cvtCount t.toNat rs.toNat)).map (fun e => c.grp.elem a.toNat l e (fmtBits rs.toNat)))
        (cvtElem t.toNat rs.toNat (modsOf c.hs))) →
      DrawWord c (.cvt d a t rs p) d (cvtCount t.toNat rs.toNat * fmtBits t.toNat / 32) p (packedLane (fmtBits t.toNat) r.1) r.2
  | qblk (d a t k p r) : r = qblkLanes c a t (if k = 1 then 4 else 2) p →
      DrawWord c (.qblk d a t k p) d 2 p (fun l =>
        ((lookupNat r.1 l).getD (0, 0)).1 % 2 ^ 32 + 2 ^ 32 * ((lookupNat r.1 l).getD (0, 0)).2) r.2
  | dqblk (d a t k p r) :
      r = drawLanes (c.sel p.toNat) c.grp.ctl.lfsr (fun l st => drawList st (List.range (if k = 1 then 4 else 2)) (fun e st =>
        finish fmtF32 { modsOf c.hs with inf := false }
          (if (c.grp.v (a.toNat + 1) l).toNat % 256 = 255 then .nan
           else scaleBy (qntDecode t.toNat ((reg c a l).toNat / 2 ^ (e * fmtBits t.toNat) % 2 ^ fmtBits t.toNat))
             (((c.grp.v (a.toNat + 1) l).toNat % 256 : Nat) - 127 : Int)) st)) →
      DrawWord c (.dqblk d a t k p) d (if k = 1 then 4 else 2) p (packedLane 32 r.1) r.2
  | lgenc (d a p r) :
      r = drawLanes (c.sel p.toNat) c.grp.ctl.lfsr (fun l st =>
        drawList st ((List.range 4).map (fun e => (c.grp.v (a.toNat + e) l).toNat)) (lgEncode (modsOf c.hs))) →
      DrawWord c (.lgenc d a p) d 1 p (packedLane 8 r.1) r.2
  | red (d a o p r) : r = redTree c a o p →
      DrawWord c (.red d a o p) d 1 p (fun _ => ((r.1.getD 0 none).getD 0).toNat) r.2
  | scan (d a o p r) : r = scanPrefixes c a o p →
      DrawWord c (.scan d a o p) d 1 p (fun l => ((lookupNat r.1 l).getD 0).toNat) r.2.2

/-- s(n) (02 R60). -/
abbrev sc {w : Nat} (c : Cx) (n : BitVec w) : DWord := c.grp.s n.toNat

/-- The words that write one scalar register, and its value. -/
inductive ScalarWord (c : Cx) : Instr → Nat → DWord → Prop
  | sadd (d a b) : ScalarWord c (.sadd d a b) d.toNat (sc c a + sc c b)
  | ssub (d a b) : ScalarWord c (.ssub d a b) d.toNat (sc c a - sc c b)
  | smul (d a b) : ScalarWord c (.smul d a b) d.toNat (sc c a * sc c b)
  | sand (d a b) : ScalarWord c (.sand d a b) d.toNat (sc c a &&& sc c b)
  | sor (d a b) : ScalarWord c (.sor d a b) d.toNat (sc c a ||| sc c b)
  | sxor (d a b) : ScalarWord c (.sxor d a b) d.toNat (sc c a ^^^ sc c b)
  | sshl (d a b) : ScalarWord c (.sshl d a b) d.toNat (sc c a <<< (sc c b).toNat)
  | sshr (d a b) : ScalarWord c (.sshr d a b) d.toNat (sc c a >>> (sc c b).toNat)
  | sminI64 (d a b) : ScalarWord c (.sminI64 d a b) d.toNat (if (sc c a).toInt ≤ (sc c b).toInt then sc c a else sc c b)
  | sminN64 (d a b) : ScalarWord c (.sminN64 d a b) d.toNat (if (sc c a).toNat ≤ (sc c b).toNat then sc c a else sc c b)
  | smaxI64 (d a b) : ScalarWord c (.smaxI64 d a b) d.toNat (if (sc c a).toInt ≤ (sc c b).toInt then sc c b else sc c a)
  | smaxN64 (d a b) : ScalarWord c (.smaxN64 d a b) d.toNat (if (sc c a).toNat ≤ (sc c b).toNat then sc c b else sc c a)
  | smov (d a) : ScalarWord c (.smov d a) d.toNat (sc c a)
  | scmpI64 (d a b cc) : ScalarWord c (.scmpI64 d a b cc) d.toNat
      (if ccHolds cc.toNat (compare (sc c a).toInt (sc c b).toInt) then 1 else 0)
  | scmpN64 (d a b cc) : ScalarWord c (.scmpN64 d a b cc) d.toNat
      (if ccHolds cc.toNat (compare (sc c a).toNat (sc c b).toNat) then 1 else 0)
  | saddi (d a k) : ScalarWord c (.saddi d a k) d.toNat (sc c a + wrapI 64 (immSI c.hs k))
  | sandi (d a k) : ScalarWord c (.sandi d a k) d.toNat (sc c a &&& wrapI 64 (immSI c.hs k))
  | sshli (d a k) : ScalarWord c (.sshli d a k) d.toNat (sc c a <<< (immSI c.hs k).toNat)
  | sshri (d a k) : ScalarWord c (.sshri d a k) d.toNat (sc c a >>> (immSI c.hs k).toNat)
  | smovi (d k) : ScalarWord c (.smovi d k) d.toNat (wrapI 64 (immSI c.hs k))
  | ballot (d a) : ScalarWord c (.ballot d a) d.toNat ((c.act &&& c.grp.p a.toNat).setWidth 64)
  | pmovToScalar (d a) : ScalarWord c (.pmovToScalar d a) d.toNat ((c.act &&& c.grp.p a.toNat).setWidth 64)
  | movv2s (d a l) : ScalarWord c (.movv2s d a l) d.toNat ((sourceLane c.grp a.toNat l.toNat).setWidth 64)

/-- The words that write one predicate register in the lanes of p, and its bits. -/
inductive PredWord (c : Cx) : Instr → Nat → BitVec 3 → Lanes → Prop
  | cmp (d cc m a b t p) : PredWord c (.cmp d cc m a b t p) d.toNat p (lanesWhere (fun l =>
      combine m.toNat ((c.grp.p d.toNat).getLsbD l)
        (if t.toNat < 2 then icmp cc.toNat t.toNat (reg c a l) (reg c b l) else icmp cc.toNat t.toNat (pair c a l) (pair c b l))))
  | fcmp (d cc m a b t p) : PredWord c (.fcmp d cc m a b t p) d.toNat p (lanesWhere (fun l =>
      combine m.toNat ((c.grp.p d.toNat).getLsbD l)
        (Machine.fcmp cc.toNat ((fcmpFmt t.toNat).decode (cmpCode c.grp t a.toNat l)) ((fcmpFmt t.toNat).decode (cmpCode c.grp t b.toNat l)))))
  | fclass (d m a k t p) : PredWord c (.fclass d m a k t p) d.toNat p (lanesWhere (fun l =>
      combine m.toNat ((c.grp.p d.toNat).getLsbD l) (Machine.fclass (fcmpFmt t.toNat) k (cmpCode c.grp t a.toNat l))))
  | pand (d a b p) : PredWord c (.pand d a b p) d.toNat p (c.grp.p a.toNat &&& c.grp.p b.toNat)
  | por (d a b p) : PredWord c (.por d a b p) d.toNat p (c.grp.p a.toNat ||| c.grp.p b.toNat)
  | pxor (d a b p) : PredWord c (.pxor d a b p) d.toNat p (c.grp.p a.toNat ^^^ c.grp.p b.toNat)
  | pnot (d a p) : PredWord c (.pnot d a p) d.toNat p (~~~(c.grp.p a.toNat))
  | pmov (d a p) : PredWord c (.pmov d a p) d.toNat p (c.grp.p a.toNat)
  | pmovFromScalar (d a p) : PredWord c (.pmovFromScalar d a p) d.toNat p ((sc c a).setWidth 32)

/-- The words that divide: each lane's result, DZ set where a selected lane divides by 0 (05 R160). -/
inductive DivideWord (c : Cx) : Instr → BitVec 6 → BitVec 6 → BitVec 3 → (Nat → Word) → Prop
  | divI32 (d a b p) : DivideWord c (.divI32 d a b p) d b p (fun l => wrapI 32 ((reg c a l).toInt.tdiv (reg c b l).toInt))
  | divN32 (d a b p) : DivideWord c (.divN32 d a b p) d b p (fun l => BitVec.ofNat 32 ((reg c a l).toNat / (reg c b l).toNat))
  | remI32 (d a b p) : DivideWord c (.remI32 d a b p) d b p (fun l => wrapI 32 ((reg c a l).toInt.tmod (reg c b l).toInt))
  | remN32 (d a b p) : DivideWord c (.remN32 d a b p) d b p (fun l => BitVec.ofNat 32 ((reg c a l).toNat % (reg c b l).toNat))

/-- The forms of them that trap the lanes that divide by 0 (05 R161): the others' results. -/
inductive DivideTrap (c : Cx) : Instr → BitVec 6 → BitVec 6 → BitVec 6 → BitVec 3 → (Nat → Word) → Prop
  | divI32Tz (d a b p) : DivideTrap c (.divI32Tz d a b p) d a b p (fun l => wrapI 32 ((reg c a l).toInt.tdiv (reg c b l).toInt))
  | divN32Tz (d a b p) : DivideTrap c (.divN32Tz d a b p) d a b p (fun l => BitVec.ofNat 32 ((reg c a l).toNat / (reg c b l).toNat))
  | remI32Tz (d a b p) : DivideTrap c (.remI32Tz d a b p) d a b p (fun l => wrapI 32 ((reg c a l).toInt.tmod (reg c b l).toInt))
  | remN32Tz (d a b p) : DivideTrap c (.remN32Tz d a b p) d a b p (fun l => BitVec.ofNat 32 ((reg c a l).toNat % (reg c b l).toNat))

/-! ## Words that act on more than registers -/

/-- t is s with the issuing word gone from its sub-gang: its slices stand at `next`, and nothing else has changed (02 R45, R47). -/
def Retired (s t : State) (c : Cx) (next : Nat → Word × Bool) : Prop :=
  ∃ g g', s.group? c.ref = some g ∧ t.group? c.ref = some g' ∧ Elsewhere s t c ∧ Advanced c g g' next ∧ regsOf g' = regsOf g

/-- t is s with the issuing word still inside its sub-gang (02 R45): nothing changes but the waiting of its slices, and for a stuffed word
(23 R524) nothing at all. -/
def Waits (s t : State) (c : Cx) (how : SliceWait) : Prop :=
  if c.stuffed.isSome then t = s
  else t = s.modGroup c.ref (fun g => { g with
    started := true, slices := g.slices.mapIdx (fun k sl => if c.slices.getLsbD k then { sl with wait := how } else sl) })

/-- Branches on a scalar, and when each is taken (05 R190). -/
inductive BranchWord (c : Cx) : Instr → BitVec 18 → Bool → Prop
  | bez (a o) : BranchWord c (.bez a o) o (decide ((sc c a).toInt = 0))
  | bnz (a o) : BranchWord c (.bnz a o) o (decide ((sc c a).toInt ≠ 0))
  | bltz (a o) : BranchWord c (.bltz a o) o (decide ((sc c a).toInt < 0))
  | bgez (a o) : BranchWord c (.bgez a o) o (decide (0 ≤ (sc c a).toInt))
  | bgtz (a o) : BranchWord c (.bgtz a o) o (decide (0 < (sc c a).toInt))
  | blez (a o) : BranchWord c (.blez a o) o (decide ((sc c a).toInt ≤ 0))

/-- The address of a label (03 R89): an offset in words from the issuing word. -/
def label {w : Nat} (c : Cx) (o : BitVec w) : Int := (c.pc.toNat : Int) + 4 * o.toInt

/-- An address is a word of the kernel's code section (03 R89). -/
def InCode (c : Cx) (a : Int) : Prop := 0 ≤ a ∧ a % 4 = 0 ∧ a + 4 ≤ c.team.shape.codeLen

/-- The words that enter one memory operation at their issue, and what each asks for (08 R262, R264, R270 to R272). -/
inductive MemoryWord (c : Cx) : Instr → MemWord → Prop
  | ld (d b o w y p) : MemoryWord c (.ld d b o w y p) (lsWord c .load 1 d b o w p 0 0 (y == 1))
  | ldAcq (d b o w k p) : MemoryWord c (.ldAcq d b o w k p) (lsWord c .load 1 d b o w p 1 k.toNat false)
  | st (d b o w y p) : MemoryWord c (.st d b o w y p) (lsWord c .store 2 d b o w p 0 0 (y == 1))
  | stRel (d b o w k p) : MemoryWord c (.stRel d b o w k p) (lsWord c .store 2 d b o w p 2 k.toNat false)
  | atomAdd (d b o a t p) : MemoryWord c (.atomAdd d b o a t p) (atomMem c (.atomic 0 t.toNat) false d b o a t p)
  | atomMin (d b o a t p) : MemoryWord c (.atomMin d b o a t p) (atomMem c (.atomic 1 t.toNat) false d b o a t p)
  | atomMax (d b o a t p) : MemoryWord c (.atomMax d b o a t p) (atomMem c (.atomic 2 t.toNat) false d b o a t p)
  | atomAnd (d b o a t p) : MemoryWord c (.atomAnd d b o a t p) (atomMem c (.atomic 3 t.toNat) false d b o a t p)
  | atomOr (d b o a t p) : MemoryWord c (.atomOr d b o a t p) (atomMem c (.atomic 4 t.toNat) false d b o a t p)
  | atomXor (d b o a t p) : MemoryWord c (.atomXor d b o a t p) (atomMem c (.atomic 5 t.toNat) false d b o a t p)
  | atomXchg (d b o a t p) : MemoryWord c (.atomXchg d b o a t p) (atomMem c (.atomic 6 t.toNat) false d b o a t p)
  | atomCas (d b o a t p) : MemoryWord c (.atomCas d b o a t p) (atomMem c (.atomic 7 t.toNat) true d b o a t p)
  | atomFadd (d b o a t p) : MemoryWord c (.atomFadd d b o a t p) (atomMem c (.atomic 8 t.toNat) false d b o a t p)
  | atomg (d b o a t p) : MemoryWord c (.atomg d b o a t p) (atomMem c (.aggregate t.toNat) false d b o a t p)
  | sdist (d b o p) : MemoryWord c (.sdist d b o p) (splMem c .dist d.toNat b o p)
  | spin (d b o p) : MemoryWord c (.spin d b o p) (splMem c .pin d.toNat b o p)
  | sunpin (b o p) : MemoryWord c (.sunpin b o p) (splMem c .unpin 0 b o p)
  | sbyp (b o p) : MemoryWord c (.sbyp b o p) (splMem c .setByp 0 b o p)
  | sclr (b o p) : MemoryWord c (.sclr b o p) (splMem c .clrByp 0 b o p)
  | stouch (b o p) : MemoryWord c (.stouch b o p) (splMem c .touch 0 b o p)
  | lduB32 (d n) : MemoryWord c (.lduB32 d n) (lduMem c false d n)
  | lduB64 (d n) : MemoryWord c (.lduB64 d n) (lduMem c true d n)

/-- No group waits for a fence to take effect (08 R278). -/
def NoFence (s : State) : Prop := ∀ t ∈ s.teams, ∀ g ∈ t.allGroups, g.ctl.fence = none

/-- The operation that a memory word enters, every lane in the machine's own memory (07 R251, 08 R264, R266): its requests wait at the
core's front, in the order of the lowest lane that names each tile. -/
def entered (s : State) (core : Nat) (o : MemOp) (lanes : Lanes) : State :=
  { s with
    ops := s.ops ++ [o], dev := { s.dev with nextId := s.dev.nextId + 1 },
    cores := modAt s.cores core (fun k => { k with reqs := k.reqs ++ o.requests core lanes }) }

/-- The line that an index register addresses in a lane (02 R58, 05 R177). -/
def indexed (c : Cx) (x : BitVec 2) (k : BitVec 8) (l : Nat) : Int :=
  (c.grp.ctl.base : Int) + (c.grp.x x.toNat l).toInt + immVI c.hs k

/-- A set of lanes given by a test. -/
def LanesAre (m : Lanes) (f : Nat → Prop) : Prop := ∀ l, l < 32 → (m.getLsbD l = true ↔ f l)

/-- The words that may trap lanes: the lanes that trap, the code, each lane's operand, the destination recorded (05 R161, R177, R193). -/
inductive TrapWord (c : Cx) : Instr → Lanes → Nat → (Nat → Word) → Option Nat → Prop
  | divide (i d a b p f m) : DivideTrap c i d a b p f → LanesAre m (fun l => (c.sel p.toNat).getLsbD l = true ∧ reg c b l = 0) →
      TrapWord c i m 0x02 (reg c a) (some d.toNat)
  | movx (d x k p m) : LanesAre m (fun l => (c.sel p.toNat).getLsbD l = true ∧ ¬ (0 ≤ indexed c x k l ∧ indexed c x k l < c.grp.budget)) →
      TrapWord c (.movx d x k p) m 0x01 (fun l => wrapI 32 (indexed c x k l)) (some d.toNat)
  | movxw (x a k p m) : LanesAre m (fun l => (c.sel p.toNat).getLsbD l = true ∧ ¬ (0 ≤ indexed c x k l ∧ indexed c x k l < c.grp.budget)) →
      TrapWord c (.movxw x a k p) m 0x01 (fun l => wrapI 32 (indexed c x k l)) none
  | trap (code) : TrapWord c (.trapW code) c.act 0x03 (fun _ => code.setWidth 32) none

/-- The entry of a trapping lane in its team's collector (13 R380, R381). -/
def trapEntry (s : State) (c : Cx) (code : Nat) (oper : Nat → Word) (dest : Option Nat) (l : Nat) : TrapEntry :=
  { cycle := s.cycle, group := c.ref.g, lane := l, pc := c.pc, code := code, operand := oper l, dest := dest, dbase := c.grp.ctl.base,
    seq := c.grp.ctl.words + 1, issuedTo := s.dev.nextId }

/-- A team halted by one of its groups (13 R389, R390): every group stops, and FRPC, FRCODE and FROPER hold the stop's record. -/
structure Halted (s t : State) (c : Cx) (code : Nat) (pc : Word) (oper : BitVec 56) : Prop where
  record : ∃ u, t.team? c.ref.team = some u ∧ u.fr.halted = true ∧ u.fr.code = code ∧ u.fr.pc = pc ∧ u.fr.oper = oper ∧
    u.fr.group = BitVec.ofNat 6 c.ref.g ∧ u.fr.sib = false ∧ u.traps = []
  groups : ∀ n g, s.group? ⟨c.ref.team, n⟩ = some g → ∃ g', t.group? ⟨c.ref.team, n⟩ = some g' ∧
    g'.lines = g.lines ∧ g'.scalars = g.scalars ∧ g'.preds = g.preds ∧ g'.index = g.index ∧
    ∀ k, k < g.slices.length → (g'.slice k).pc = (g.slice k).resume ∧ (g'.slice k).hints = []

/-- A slice of the issuing sub-gang. -/
def Issuing (c : Cx) (k : Nat) : Prop := k < c.grp.slices.length ∧ c.slices.getLsbD k = true

/-- The active lanes of a slice for which p(n) holds (05 R195). -/
def takes (c : Cx) (n : BitVec 3) (k : Nat) : BitVec 4 := (c.grp.slice k).active &&& (c.grp.p n.toNat).extractLsb' (4 * k) 4

/-- Whether BRP sends a slice to its target (05 R195). -/
def goes (c : Cx) (n : BitVec 3) (k : Nat) : Prop := takes c n k = (c.grp.slice k).active ∨ takes c n k ≠ 0

/-- A slice at an RCV after R196 (05), its stack, active mask and PC: `sl` before, `at_` the address of the RCV. -/
def Reconverged (sl sl' : Slice) (at_ : Word) : Prop :=
  match sl.stack with
  | [] => sl'.stack = [] ∧ sl'.active = sl.active ∧ sl'.pc = at_ + 4
  | e :: rest =>
    if e.pend ≠ 0 then sl'.stack = { e with pend := 0, resumePc := at_ + 4 } :: rest ∧ sl'.active = e.pend ∧ sl'.pc = e.pendPc
    else sl'.stack = rest ∧ sl'.active = e.full ∧ sl'.pc = at_ + 4

/-- A group's registers, and the masks, stacks and PCs of the slices outside a mask, are as they were. -/
def OnlySlices (g g' : Group) (m : BitVec 8) : Prop :=
  regsOf g' = regsOf g ∧ g'.slices.length = g.slices.length ∧
  ∀ k, k < g.slices.length → m.getLsbD k = false →
    (g'.slice k).pc = (g.slice k).pc ∧ (g'.slice k).active = (g.slice k).active ∧ (g'.slice k).stack = (g.slice k).stack ∧
    (g'.slice k).live = (g.slice k).live ∧ (g'.slice k).hints = (g.slice k).hints

/-- Byte k of a number. -/
def byteOf (v k : Nat) : Nat := v / 256 ^ k % 256

/-- Scratchpad atomics and the operation each applies (08 R270). -/
inductive ScratchAtomic : Instr → BitVec 6 → BitVec 4 → BitVec 4 → BitVec 2 → BitVec 3 → Nat → Prop
  | add (d o a t p) : ScratchAtomic (.atomsAdd d o a t p) d o a t p 0
  | min (d o a t p) : ScratchAtomic (.atomsMin d o a t p) d o a t p 1
  | max (d o a t p) : ScratchAtomic (.atomsMax d o a t p) d o a t p 2
  | and (d o a t p) : ScratchAtomic (.atomsAnd d o a t p) d o a t p 3
  | or (d o a t p) : ScratchAtomic (.atomsOr d o a t p) d o a t p 4
  | xor (d o a t p) : ScratchAtomic (.atomsXor d o a t p) d o a t p 5
  | xchg (d o a t p) : ScratchAtomic (.atomsXchg d o a t p) d o a t p 6
  | cas (d o a t p) : ScratchAtomic (.atomsCas d o a t p) d o a t p 7
  | fadd (d o a t p) : ScratchAtomic (.atomsFadd d o a t p) d o a t p 8

/-- Operand k of an atomic in lane l (03 R96, 08 R270). -/
def atomArg (c : Cx) (a : BitVec 4) (t : BitVec 2) (k l : Nat) : Nat :=
  if 2 ≤ t.toNat then (c.grp.v64 (haregA c.hs a + 2 * k) l).toNat else (c.grp.v (haregA c.hs a + k) l).toNat

/-- The team that an LDS or STS reaches (08 R267): the issuer's own, or with .sib that of a rank of its cluster. -/
def Reaches (s : State) (c : Cx) (y : BitVec 1) (t : BitVec 3) (u : Team) : Prop :=
  (y = 0 ∧ u = c.team) ∨ (y = 1 ∧ t.toNat < c.team.shape.cluster ∧ s.rankTeam c.team t.toNat = some u)

/-- The scratchpad bytes that the selected lanes name are aligned and inside the scratchpad (08 R267). -/
def ScratchOk (c : Cx) (u : Team) (o n : Nat) (sel : Lanes) : Prop :=
  ∀ l, l < 32 → sel.getLsbD l = true →
    c.scratchOff o l % n = 0 ∧ 0 ≤ c.scratchOff o l ∧ c.scratchOff o l + n ≤ u.scratchSize

/-- The first check of 08 R267 that the selected lanes of a scratchpad word fail, alignment over every lane and then the range, fails first in lane l. -/
def ScratchFails (c : Cx) (u : Team) (o n : Nat) (sel : Lanes) (l : Nat) : Prop :=
  l < 32 ∧ sel.getLsbD l = true ∧
  ((c.scratchOff o l % n ≠ 0 ∧ ∀ k, k < l → sel.getLsbD k = true → c.scratchOff o k % n = 0) ∨
   ((∀ k, k < 32 → sel.getLsbD k = true → c.scratchOff o k % n = 0) ∧ ¬ (0 ≤ c.scratchOff o l ∧ c.scratchOff o l + n ≤ u.scratchSize) ∧
    ∀ k, k < l → sel.getLsbD k = true → 0 ≤ c.scratchOff o k ∧ c.scratchOff o k + n ≤ u.scratchSize))

/-- An operation whose result registers wait to be written: served in its lanes, with their values (07 R251). -/
def Answered (o : MemOp) (c : Cx) (sel : Lanes) (dst : Nat) (f : Nat → Nat) : Prop :=
  o.team = c.ref.team ∧ o.group = c.ref.g ∧ o.sel = sel ∧ o.served = sel ∧ o.written = 0 ∧ o.dst = dst ∧ o.slices = c.slices ∧
  ∀ l, l < 32 → sel.getLsbD l = true → o.vals.getD l 0 = BitVec.ofNat 256 (f l)

/-- s with one operation more, under the next identifier. -/
def withOp (s : State) (o : MemOp) : State :=
  { s with ops := s.ops ++ [o], dev := { s.dev with nextId := s.dev.nextId + 1 } }

/-- b(n) replaced. -/
def withBase (s : State) (c : Cx) (n : Nat) (b : BaseReg) : State := s.modGroup c.ref (fun g => { g with bases := g.bases.set n b })

/-- A WAITC holds for a slice (07 R254): the group's st, bt and tl and the slice's ld have come down to the word's counts. -/
def Met (s : State) (c : Cx) (l st : BitVec 6) (b : BitVec 4) (t : BitVec 5) (k : Nat) : Prop :=
  s.stCount c.ref ≤ st.toNat ∧ s.btCount c.ref ≤ b.toNat ∧ s.tlCount c.ref ≤ t.toNat ∧ s.lds c.ref k ≤ l.toNat

/-- Batch n of a team has been given out and it and all before it are complete (07 R252, R253): numbers compare within half their range. -/
def BatchesDone (t : Team) (n : BitVec 32) : Prop :=
  (n = t.lastBatch ∨ 2 ^ 31 ≤ (n - t.lastBatch).toNat) ∧ ∀ b ∈ t.batches, 2 ^ 31 ≤ (n - b).toNat

/-- A timer after a TIMER word (08 R291). -/
def timerFor (wall : Bool) (now v : Nat) : Timer :=
  { armed := decide (v ≠ 0), wall := wall && decide (v ≠ 0), deadline := if v = 0 then 0 else now + v, late := false }

/-- The words that add an event to a barrier register of their team, with what they need (07 R247, R250, 08 R277). -/
inductive BarrierWord (c : Cx) : Instr → BitVec 4 → BarEvent → Prop → Prop
  | binit (a w) : BarrierWord c (.binit a w) w (.binit c.ref.g (BitVec.ofNat 6 (sc c a).toNat)) (1 ≤ (sc c a).toNat ∧ (sc c a).toNat ≤ 63)
  | barv (w) : BarrierWord c (.barv w) w .arrive (c.wholeGroup = true)
  | bexp (a w) : BarrierWord c (.bexp a w) w (.declare (sc c a).toNat) ((sc c a).toNat < 2 ^ 32)

/-- Nothing of the issuing group is outstanding, as FENCEX and EXIT wait for it (08 R279). -/
def AllDone (s : State) (c : Cx) : Prop :=
  s.groupOps c.ref = [] ∧ s.tlCount c.ref = 0 ∧ s.btCount c.ref = 0 ∧ c.grp.ctl.fence = none

/-- Where a slice goes on once its active lanes have ended (05 R194): its lanes, its stack and its PC, if lanes are left. -/
inductive GoesOn (gone : BitVec 4) : List MaskEntry → BitVec 4 → List MaskEntry → Word → Prop
  | pend (e rest) : e.pend &&& ~~~gone ≠ 0 →
      GoesOn gone (e :: rest) (e.pend &&& ~~~gone)
        ({ e with full := e.full &&& ~~~gone, pend := 0 } :: rest.map (fun x => { x with full := x.full &&& ~~~gone, pend := x.pend &&& ~~~gone }))
        e.pendPc
  | full (e rest) : e.pend &&& ~~~gone = 0 → e.full &&& ~~~gone ≠ 0 →
      GoesOn gone (e :: rest) (e.full &&& ~~~gone)
        (rest.map (fun x => { x with full := x.full &&& ~~~gone, pend := x.pend &&& ~~~gone })) e.resumePc
  | skip (e rest m st pc) : e.pend &&& ~~~gone = 0 → e.full &&& ~~~gone = 0 → GoesOn gone rest m st pc → GoesOn gone (e :: rest) m st pc

/-- Copy words: form, scalar with the card's address, barrier register to post to (08 R280, R282). -/
inductive CopyWord : Instr → Nat → BitVec 5 → BitVec 4 → BitVec 1 → Prop
  | cpy (a w q) : CopyWord (.cpy a w q) 0 a w q
  | cpyg (a w q) : CopyWord (.cpyg a w q) 1 a w q
  | cpys (a w q) : CopyWord (.cpys a w q) 2 a w q
  | cpyc (a w q) : CopyWord (.cpyc a w q) 3 a w q

/-- Hint words: kind and payload, where 03 R90 allocates it. -/
inductive HintWord : Instr → Nat → BitVec 22 → Prop
  | himm (p) : HintWord (.himm p) 0 p
  | hoff (p) : HintWord (.hoff p) 1 p
  | hsched (m n y) : m ≠ 3 → HintWord (.hsched m n y) 2 (BitVec.ofNat 22 (y.toNat + 2 * n.toNat + 32 * m.toNat))
  | hmod (i f t m) : m.toNat ≤ 4 → HintWord (.hmod i f t m) 3 (BitVec.ofNat 22 (m.toNat + 8 * t.toNat + 16 * f.toNat + 32 * i.toNat))
  | hreg (r) : HintWord (.hreg r) 4 (BitVec.ofNat 22 r.toNat)
  | hscope (o k) : k.toNat < 10 → HintWord (.hscope o k) 5 (BitVec.ofNat 22 (k.toNat + 16 * o.toNat))
  | hareg (a o) : HintWord (.hareg a o) 6 (BitVec.ofNat 22 (o.toNat + 4 * a.toNat))
  | hmark (m) : HintWord (.hmark m) 7 (BitVec.ofNat 22 m.toNat)

/-- Words of the matrix unit that carry scalars, with the scalars they capture (06 R203, R212 to R214, R220, R222, R231). -/
inductive QueueWord : Instr → Nat → Nat → Prop
  | obres (a o) : QueueWord (.obres a o) a.toNat 0
  | obrel (o) : QueueWord (.obrel o) 0 0
  | obld (a b o) : QueueWord (.obld a b o) a.toNat b.toNat
  | scfifo (a o) : QueueWord (.scfifo a o) a.toNat 0
  | scpush (a b) : QueueWord (.scpush a b) a.toNat b.toNat
  | sccache (a b) : QueueWord (.sccache a b) a.toNat b.toNat
  | accz (k) : QueueWord (.accz k) 0 0
  | accld (a k) : QueueWord (.accld a k) a.toNat 0
  | accst (a k) : QueueWord (.accst a k) a.toNat 0

/-- The bytes of memory that a word of the matrix unit accesses lie behind no access of its group, and nothing holds it there. -/
def MatrixFree (s : State) (c : Cx) (i : Instr) (a b : Nat) : Prop :=
  ∀ lo n, (c.mxEntry i a b).region? = some (lo, n) → accessHeld s c false false 0 = false ∧ opsBehind c s lo n = false

/-- MMQ and MMS: the A registers' base, format, reuse bit and, sparse, the metadata registers' base (06 R226 to R228). -/
inductive MatrixMultiply (c : Cx) : Instr → BitVec 6 → BitVec 4 → BitVec 1 → Option Nat → Prop
  | mmq (k a o f r n p) : MatrixMultiply c (.mmq k a o f r n p) a f r none
  | mms (k a o f r n p) : MatrixMultiply c (.mms k a o f r n p) a f r (some (hregOf c.hs))

/-- s with an entry more in its core's matrix queue, numbered as the next of the device's accesses. -/
def queued (s : State) (core : Nat) (e : MxEntry) : State :=
  ({ s with dev := { s.dev with nextId := s.dev.nextId + 1 } }).modCore core (fun k => { k with mx := k.mx ++ [{ e with id := s.dev.nextId }] })

/-- The latch of a group holds what a word that names these lines, this format and these lanes reads (06 R228). -/
def Latched (g : Group) (lines : List Nat) (fmt : Nat) (sel : Lanes) : Prop :=
  ∃ x, g.latch = some x ∧ x.lines = lines ∧ x.fmt = fmt ∧ x.sel = sel

/-- A group's latch after a word of the matrix unit (06 R228): with reuse what the word read, else nothing. -/
def latched (reuse : BitVec 1) (lines : List Nat) (fmt : Nat) (e : MxEntry) : Option Latch :=
  if reuse = 1 then some { lines := lines, fmt := fmt, sel := e.sel, rows := e.rows, metas := e.metas } else none

/-- The lines that MMQ or MMS reads its A, its scales and its metadata from (06 R202, R217, R227). -/
def matrixLines (c : Cx) (a : Nat) (m : Option Nat) : List Nat :=
  (List.range (if 48 < a then 8 else 9)).map (fun k => c.grp.ctl.base + a + k) ++
  (match m with
  | some n => (List.range 8).map (fun k => c.grp.ctl.base + n + k)
  | none => [])

/-- MMQ and MMS of a record whose scales are read through the cache are held as an access of the group is (06 R223, 08 R265, R278). -/
def ScalesFree (s : State) (c : Cx) (i : Instr) : Prop := c.readsScales s (c.mxEntry i 0 0) = true → accessHeld s c false false 0 = false

/-- A group with the restart that ACCRST records (06 R232): its label, the depth of its join stack and its live lanes. -/
def restarting (label : Word) (g : Group) : Group :=
  { g with restart := some { label := label, depth := g.ctl.joins.length, lanes := g.activeLanes g.liveSlices, scaled := false } }

/-- The oldest word of a core's matrix queue is e, of the team u, and no page holds it (06 R204, R224). -/
structure AtUnit (s : State) (core : Nat) (e : MxEntry) (u : Team) : Prop where
  head : ∃ rest, (s.core core).mx = e :: rest
  team : s.team? e.team = some u
  free : s.waitsFault (.matrix core u.id) = false

/-- t is s1 with the word e gone from its queue, and with it the operations that are done (06 R204). -/
def Performed (s1 t : State) (core : Nat) (e : MxEntry) : Prop := t = (s1.mxDone core e).sweep

/-- s with record n of a team replaced. -/
def withRec (s : State) (team n : Nat) (r : ObRec) : State := s.modTeam team (fun u => { u with obs := modAt u.obs n (fun _ => r) })

/-- Element (quarter q, row r, column k) of the 32-bit tile in slot ac of a group's accumulators (06 R208). -/
def tile (g : Group) (ac q r k : Nat) : Word := (g.acc.getD ac []).getD (64 * q + 8 * r + k) 0

/-- The terms that a dense 32-bit multiply adds at row r of quarter q, column n (06 R208, R211, R217): A's element, B's element, and the
scales the record's source gives. -/
def denseTerms (e : MxEntry) (d : DWord) (range : List Word) (blk : Nat) (scale : Nat → Exact) (q r n : Nat) :
    List (Nat × Exact × Nat × Exact) :=
  (List.range (descK d)).map (fun k =>
    (if e.sel.getLsbD (8 * q + r) then rowElem e.rows (descFmt d) (8 * q + r) k else 0,
     if e.sel.getLsbD (8 * q + r) then aScale d e.rows (8 * q + r) k else .fin false 1 0,
     bElem range (blk * descUnit d) (descFmt d) (descK d) k n,
     scale (n * (descK d / descBlen d) + k / descBlen d)))

/-- Element (quarter q, row r, column k) of the FP64 tile in the slots ac and ac + 1 of a group's accumulators (06 R208). -/
def tile64 (g : Group) (ac q r k : Nat) : DWord :=
  let slot := g.acc.getD (ac + r / 4) []
  let i := 64 * q + 2 * (8 * (r % 4) + k)
  BitVec.ofNat 64 ((slot.getD i 0).toNat + 2 ^ 32 * (slot.getD (i + 1) 0).toNat)

/-- The indices of every run of a lane's metadata ascend strictly (06 R227, 04 R128). -/
def RunsAscend (e : MxEntry) (d : DWord) (l : Nat) : Prop :=
  ∀ t j, t < descK d / 16 → j + 1 < descSparse d → metaIndex e.metas (descSparse d) l t j < metaIndex e.metas (descSparse d) l t (j + 1)

/-- The terms that a sparse multiply adds at row r of quarter q, column n (06 R227): stored value t·N + j of A's row stands at dense position 16·t plus the
index that its metadata give; a lane that is not selected has a row of zeros there (log 72). -/
def sparseTerms (e : MxEntry) (d : DWord) (range : List Word) (blk : Nat) (scale : Nat → Exact) (q r n : Nat) :
    List (Nat × Exact × Nat × Exact) :=
  (List.range (descK d / 16)).flatMap (fun t => (List.range (descSparse d)).map (fun j =>
    let k := 16 * t + metaIndex e.metas (descSparse d) (8 * q + r) t j
    (if e.sel.getLsbD (8 * q + r) then rowElem e.rows (descFmt d) (8 * q + r) (t * descSparse d + j) else 0,
     if e.sel.getLsbD (8 * q + r) then aScale d e.rows (8 * q + r) k else .fin false 1 0,
     bElem range (blk * descUnit d) (descFmt d) (descK d) k n,
     scale (n * (descK d / descBlen d) + k / descBlen d))))

/-- A queued MMQ or MMS: its A registers' base, format, block, record, and whether it is sparse (06 R226, R227). -/
inductive MultiplyAt (e : MxEntry) : Nat → Nat → Nat → Nat → Bool → Prop
  | mmq (k a o f x n p) : e.instr = .mmq k a o f x n p →
      MultiplyAt e a.toNat f.toNat (((hintOf e.hints 0).getD 0).toNat * 32 + n.toNat) o.toNat false
  | mms (k a o f x n p) : e.instr = .mms k a o f x n p →
      MultiplyAt e a.toNat f.toNat (((hintOf e.hints 0).getD 0).toNat * 32 + n.toNat) o.toNat true

/-- What a record must be for a multiply of these operands (06 R226, R227). -/
structure MultiplyOk (r : ObRec) (e : MxEntry) (a f blk : Nat) (sparse : Bool) : Prop where
  bound : r.bound = true
  fmt : descFmt r.desc = f
  sparse : sparse = true ↔ descSparse r.desc ≠ 0
  inside : (blk + 1) * descUnit r.desc ≤ 1024 * descSize r.desc
  scales : descAscale r.desc = true → a ≤ 48

/-- An operation stands at its engine in polder p with nothing before it (17 R451, R467). -/
structure AtEngine (s : State) (p id : Nat) (o : MemOp) (u : Team) (core : Nat) : Prop where
  op : s.op? id = some o
  name : o.id = id
  engine : o.kind.isEngine = true
  team : s.team? o.team = some u
  resident : u.core? = some core
  polder : s.polderOf (quarterOf core) = p
  ready : (s.polder p).snReady = true
  unserved : o.sel &&& ~~~o.served ≠ 0
  unwritten : o.written = 0
  present : o.page = none
  first : ∀ x ∈ s.groupOps o.ref, x.kind.isEngine = false → x.id < o.id → x.sel &&& ~~~x.served = 0
  loaded : s.engUnread p = false
  behind : (s.engStart p).behindSeq core u o = false
  alone : (s.engStart p).appending p o = false
  unit : ∀ a ∈ s.mxAccesses o.ref, o.id ≤ a.entry.id

/-- The status of a position of a head as KVMAP reports it (17 R459), and its page where it is OK: `on` says that the engine and the store
are enabled, `q` is the sequence where it is open and in range, `at_` the layer and head where they are. -/
inductive KvStatus (on : Bool) (maxPos : Nat) (q : Option Seq) (at_ : Option (Nat × Nat)) (pos : Nat) : Nat → Nat → Prop
  | unmapped : on = false ∨ q = none ∨ at_ = none → KvStatus on maxPos q at_ pos 1 0
  | beyond (x l h) : on = true → q = some x → at_ = some (l, h) → (x.head l h).next ≤ pos ∨ maxPos ≤ pos →
      KvStatus on maxPos q at_ pos 4 0
  | pending (x l h) : on = true → q = some x → at_ = some (l, h) → pos < (x.head l h).next → pos < maxPos → x.committed ≤ pos →
      KvStatus on maxPos q at_ pos 2 0
  | void (x l h) : on = true → q = some x → at_ = some (l, h) → pos < (x.head l h).next → pos < maxPos → pos < x.committed →
      ((x.head l h).entry (pos / 16)).2 ≤ pos % 16 → KvStatus on maxPos q at_ pos 3 0
  | ok (x l h) : on = true → q = some x → at_ = some (l, h) → pos < (x.head l h).next → pos < maxPos → pos < x.committed →
      pos % 16 < ((x.head l h).entry (pos / 16)).2 → KvStatus on maxPos q at_ pos 0 ((x.head l h).entry (pos / 16)).1

/-- The words that enter an engine with one scalar result: destination and the scalars they capture (17 R465 to R470, R474). -/
inductive TreeWord : Instr → Nat → Nat → Nat → Bool → Prop
  | snput (d a b) : TreeWord (.snput d a b) (d.toNat % 32) (a.toNat % 32) (b.toNat % 32) true
  | snfind (d a b) : TreeWord (.snfind d a b) (d.toNat % 32) (a.toNat % 32) (b.toNat % 32) false
  | snget (d a) : TreeWord (.snget d a) (d.toNat % 32) (a.toNat % 32) (d.toNat % 32) false
  | kvcommit (a b) : TreeWord (.kvcommit a b) (b.toNat % 32) (a.toNat % 32) (b.toNat % 32) true

/-! ## Events -/

/-- Nothing but one group differs. -/
structure OnlyGroup (s t : State) (r : GRef) : Prop where
  groups : ∀ x, x ≠ r → t.group? x = s.group? x
  teams : t.teams.map teamRest = s.teams.map teamRest
  rest : { t with teams := [] } = { s with teams := [] }

/-- Every live slice of a group waits at a label, and there is one (05 R198). -/
def JoinMet (g : Group) (lab : Word) : Prop :=
  (∃ k, k < 8 ∧ (g.slice k).live = true) ∧
  ∀ k, k < 8 → (g.slice k).live = true → (g.slice k).wait = .atJoin ∧ (g.slice k).pc = lab

/-- A slice may leave an RCV (05 R197): it waits there, and its live partners wait at an RCV or a join. -/
def RcvMet (g : Group) (at_ : Word) (k : Nat) : Prop :=
  k < 8 ∧ k < g.slices.length ∧ (g.slice k).live = true ∧ (g.slice k).wait = .atRcv ∧ (g.slice k).pc = at_ ∧
  ∀ j ∈ (g.slice k).partners, (g.slice j).live = true → (g.slice j).wait = .atRcv ∨ (g.slice j).wait = .atJoin

/-- The timer of a group fires (08 R291): its deadline has come, and for a wall timer that came late the group has issued. -/
def TimerMet (g : Group) (tick : DWord) : Prop :=
  g.ctl.timer.armed = true ∧
  (if g.ctl.timer.wall = true then g.ctl.timer.deadline ≤ tick.toNat ∧ (g.ctl.timer.late = true → g.started = true)
   else g.ctl.timer.deadline ≤ g.ctl.cyc.toNat)

/-- A state whose cores start at phase 0, with the pipe ratios that have been written in force (02 R49, R50). -/
def started (s : State) : State :=
  { s with cores := s.cores.map (fun k => { k with clk := { k.clk with phase := 0, ratio := k.clk.ratioNext.getD k.clk.ratio, ratioNext := none } }) }

/-- Every trapped lane of a slice that waits on its handler has its disposition (13 R387). -/
def Disposed (sl : Slice) : Prop :=
  sl.wait = .onTrap ∧ sl.live = true ∧ ∀ l, l < 4 → sl.trapped.getLsbD l = true → ∃ d ∈ sl.disps, d.1 = l

/-- No copy of a tile is in any quarter, and no write-back of it is on its way. -/
def Gone (t : State) (x : Nat) : Prop := (∀ q, q < 4 → (t.quarter q).copy? x = none) ∧ ∀ w ∈ t.wbq, w.tile ≠ x

/-- A region with a status (19 R492). -/
def withStatus (s : State) (n : Nat) (r : Region) (st : BitVec 8) : State := { s with regions := s.regions.set n { r with status := st } }

/-- A polder with its sluice and the status of its last command (19 R483). -/
def sluiced (s : State) (p : Nat) (x : Polder) (sluice : Nat) (st : BitVec 2) : State :=
  { s with polders := s.polders.set p { x with sluice := sluice, sluiceStatus := st } }

/-- A bias command of a polder recorded with its status (20 R500). -/
def biasDone (x : Polder) (v : DWord) (st : BitVec 2) : Polder :=
  { x with biasTo := v.getLsbD 62, biasPage := v.extractLsb' 16 36, biasStatus := st }

/-- A write to PSHAPE names no polder that can be (19 R484, WHY 1). -/
def ShapeIllegal (s : State) (q : Nat) (n : BitVec 4) : Prop :=
  n.getLsbD q = false ∨ n ∉ shapes ∨ ∃ k, k < 4 ∧ (s.part k).mask &&& n ≠ 0 ∧ (s.part k).mask &&& ~~~n ≠ 0 ∧ (s.part k).mask &&& ~~~n ∉ shapes

/-- A polder that a shape meets has its sluice open (19 R484, WHY 2). -/
def ShapeOpen (s : State) (n : BitVec 4) : Prop :=
  ∃ k, k < 4 ∧ (s.part k).mask &&& n ≠ 0 ∧ (s.polder (lowestQuarter (s.part k).mask)).sluice ≠ 2

/-- Queue q of polder p, which is x, replaced (15 R400). -/
def withQueue (s : State) (p : Nat) (x : Polder) (q : Nat) (k : Queue) : State :=
  { s with polders := s.polders.set p { x with queues := x.queues.set q k } }

/-- The signals of a token that the present cycle holds already (15 R403). -/
def signalled (s : State) (p n : Nat) : Nat := (s.regLog.filter (fun e => e == (0x8000 + 8 * n, 256 + p, 0))).length

/-- A launch refused at a check, or not (15 R405), of a queue, with its report and tokens. -/
structure LaunchOf (l : Launch) (p q v : Nat) (refused : Option (Nat × Nat)) : Prop where
  polder : l.polder = p
  queue : l.queue = q
  flags : l.flags = BitVec.ofNat 8 (natBytes v 1 1)
  report : l.report = BitVec.ofNat 56 (natBytes v 64 8 / 32 * 32)
  why : l.refused = refused
  state : l.state = if refused.isSome then .complete else .waiting
  fresh : l.made = 0 ∧ l.ended = 0 ∧ l.torn = false

/-- The commands of CTXCMD and their codes (16 R426). -/
inductive ContextCommand (p x : Nat) : Instr → Nat → Prop
  | create : ContextCommand p x (.create p x) 1
  | quota : ContextCommand p x (.quota p x) 2
  | sync : ContextCommand p x (.sync p x) 3
  | preempt : ContextCommand p x (.preempt p x) 4
  | resume : ContextCommand p x (.resume p x) 5
  | teardown : ContextCommand p x (.teardown p x) 6
  | shootall : ContextCommand p x (.shootall p x) 7

/-- CTXCMD of a polder after a command that has ended (16 R426). -/
def Ended (t : State) (p op x status : Nat) : Prop :=
  (t.polder p).cmdBusy = false ∧ (t.polder p).cmdOp = BitVec.ofNat 3 op ∧ (t.polder p).cmdCtx = BitVec.ofNat 6 x ∧
  (t.polder p).cmdStatus = BitVec.ofNat 8 status

/-- Two contexts that differ in their replicas alone, which the end of a shootdown takes from REPLUSED (16 R438). -/
def SameContext (a b : Ctx) : Prop := { b with replicas := [], replUsed := [] } = { a with replicas := [], replUsed := [] }

/-! ## Heat, boot, debug -/

/-- Nothing but one core differs. -/
def OnlyCore (s t : State) (core : Nat) : Prop :=
  (∀ k, k ≠ core → t.core k = s.core k) ∧ { t with cores := [] } = { s with cores := [] }

/-- s with a core replaced. -/
def withCore (s : State) (core : Nat) (k : Core) : State := { s with cores := s.cores.set core k }

/-- A core whose stored configuration (21 R505) is that of its registers, under the stored THALW it had. -/
def Stored (k k' : Core) : Prop := k'.regs.stored = (k.regs.stored.getD 0 0xFFFF) :: k'.config

/-- A context or a resident team is live in a polder (21 R511). -/
def PolderUsed (s : State) (p : Nat) : Prop :=
  (∃ u ∈ s.teams, u.ended = false ∧ ∃ c, u.core? = some c ∧ s.polderOf (quarterOf c) = p) ∨ ∃ x ∈ s.ctxs, x.live = true ∧ x.polder = p

/-- No team that was switched out from a core has lines left in its banks (16 R442): none need be written back. -/
def NoLinesLeft (s : State) (core : Nat) : Prop := ∀ u ∈ s.teams, u.linesAt = some core → u.ended = true ∨ ∃ c, u.core? = some c

/-- s with a sensor region replaced. -/
def withSensor (s : State) (n : Nat) (x : Sensor) : State := { s with dev := { s.dev with sensors := s.dev.sensors.set n x } }

/-- A thermal window begins at this tick and has not begun yet (02 R71). -/
def WindowDue (s : State) : Prop := s.dev.windowAt / 1400 ≠ s.tick.toNat / 1400

/-- Something must happen before the cycle may end: a window begins (02 R71), a sensor is sampled (21 R501), firmware writes the allowance of a
sample within 14,000 ticks of it (R504), a channel refreshes (R502). -/
def Overdue (s : State) : Prop :=
  WindowDue s ∨ s.dev.recov = false ∧
    ((∃ x ∈ s.dev.sensors, x.sampled < s.tick.toNat / 140000 ∨ ∃ at_, x.owed = some at_ ∧ at_ + 14000 < s.tick.toNat + 1 + s.slow.headD 0) ∨
      ∃ x ∈ s.dev.channels, x.nextRefresh ≤ s.tick.toNat)

/-- A core may enter retention (21 R505). -/
def MayRetire (s : State) (core : Nat) : Prop :=
  (s.core core).regs.retEnable = true ∧ s.feature (s.polderOf (quarterOf core)) 19 = true ∧ s.residents core = [] ∧
  (s.core core).regs.asleep = false ∧ max 1 (s.core core).regs.retIdle.toNat ≤ (s.core core).regs.idle

/-- An address lies in local memory (19 R481). -/
def IsLocal (s : State) (pa : Nat) : Prop := ∃ q, q < 4 ∧ (s.rangeAt q pa).isSome = true

/-- t is the machine after reset from s: every register as reset leaves it; the fuses, the agenda, what the images in memory hold, and memory's kind of state
apart from its bytes and the keys they lie under as they were. -/
structure AfterReset (s t : State) : Prop where
  rest : { t with home := Home.reset, agenda := [], slow := [], free := 0, dev := Dev.reset, saved := [] } = State.reset
  saved : t.saved = s.saved
  dev : t.dev = { Dev.reset with fuseSvn := s.dev.fuseSvn, nextId := s.dev.nextId }
  home : { t.home with cells := [] } = { s.home with cells := [], hostBias := [] }
  agenda : t.agenda = s.agenda
  slow : t.slow = s.slow
  free : t.free = s.free

/-- The mailbox of a function answers (21 R513, R514): it exists, and in recovery mode it is function 0. -/
def Answers (s : State) (fn : Nat) : Prop := fn < 4 ∧ s.polderOf fn = fn ∧ (s.dev.recov = true → fn = 0)

/-- The requests of 21 R514: number, how far the connection must have come, where it goes, and whether the session is secured (log 13). -/
inductive SpdmRequest (fn : Nat) : Instr → Nat → Nat → (Nat → Nat) → (Bool → Bool) → Prop
  | getVersion : SpdmRequest fn (.getVersion fn) 0 0 (fun _ => 1) (fun _ => false)
  | getCapabilities : SpdmRequest fn (.getCapabilities fn) 1 1 (fun k => max 2 k) id
  | negotiateAlgorithms : SpdmRequest fn (.negotiateAlgorithms fn) 2 2 (fun k => max 3 k) id
  | getDigests : SpdmRequest fn (.getDigests fn) 3 3 id id
  | getCertificate : SpdmRequest fn (.getCertificate fn) 4 3 id id
  | challenge : SpdmRequest fn (.challenge fn) 5 3 id id
  | getMeasurements : SpdmRequest fn (.getMeasurements fn) 6 3 id id
  | keyExchange : SpdmRequest fn (.keyExchange fn) 7 3 (fun _ => 4) (fun _ => false)
  | finish : SpdmRequest fn (.finish fn) 8 4 (fun _ => 3) (fun _ => true)

/-- s with the debug registers of a core replaced (23 R526). -/
def withDbg (s : State) (core : Nat) (k : Core) (d : CoreDbg) : State := withCore s core { k with dbg := d }

/-- A group with no hint state, each slice at its resume point (03 R95). -/
def Bare (g g' : Group) : Prop :=
  { regsOf g' with flt := { g'.flt with stopped := g.flt.stopped, pending := g.flt.pending } } = regsOf g ∧ g'.slices.length = g.slices.length ∧
  ∀ k, k < g.slices.length → (g'.slice k).hints = [] ∧ (g'.slice k).bundle = none ∧ (g'.slice k).pc = (g.slice k).resume ∧
    (g'.slice k).active = (g.slice k).active ∧ (g'.slice k).stack = (g.slice k).stack ∧ (g'.slice k).live = (g.slice k).live

/-! ## The step -/

/-- What is known of a fetched word that a transfer reached (03 R93): `s0` is the state after its fetch, s1 after a look at the word before it.
Where that word is a hint word, it may be part of a bundle, and the landing is remembered; else it is forgotten. -/
def Landing (s0 s1 : State) (t : Team) (core : Nat) (r : GRef) (slices : BitVec 8) (pc : Word) : Prop :=
  ∃ s2 f, s0.landsInBundle t core pc = (s2, f) ∧ f ≠ .hold ∧ (∀ va kind, f ≠ .park va kind) ∧
    ((∃ v, f = .word v ∧ wordMajor v = 0x3F) → s1 = s2) ∧ ((∀ v, f = .word v → wordMajor v ≠ 0x3F) → s1 = s2.landed r slices)

/-- At the head of the agenda stands the turn of a group whose first offer is a sub-gang that is not inside a wait word; its word w is
fetched, and the sub-gang is ready (02 R45) or not; of a ready one no breakpoint matches the word, but at the PC at which a RESUME left the group, and nothing
holds it; s1 is the state in which it issues; t, core and g are the team, its core and the group, `more` the offers behind the first; no EXEC runs on the
group (23 R524). -/
def Fetches (s s1 : State) (t : Team) (core : Nat) (g : Group) (r : GRef) (slices : BitVec 8) (more : List Offer) (w : Word) (ready : Bool) : Prop :=
  ∃ rest s0 sl, s.agenda = .issue r :: rest ∧ s.stopped = false ∧ s.dev.booted = true ∧
    State.team? { s with agenda := rest } r.team = some t ∧ State.group? { s with agenda := rest } r = some g ∧
    t.core? = some core ∧ State.stuffer { s with agenda := rest } t r = none ∧ State.mayIssue { s with agenda := rest } t g r.g = true ∧ g.offers = (slices, false) :: more ∧
    sl = g.slice (lowestSlice slices) ∧ State.ready { s with agenda := rest } r t core g (slices, false) = ready ∧
    State.fetch { s with agenda := rest } t core sl.pc = (s0, .word w) ∧
    (ready = true → sl.bundle.isSome = true ∨ g.ctl.bpSkip = some sl.pc ∨ s0.breakpoint t core sl.pc = none) ∧
    (if sl.landed = true then Landing s0 s1 t core r slices sl.pc else s1 = s0) ∧
    (ready = true → (s1.issuing r slices w none).holdNow w = none)

/-- The events that act before the release from reset (00 R13). -/
def BeforeBoot (e : Instr) : Prop :=
  e = .reset ∨ e = .powerLoss ∨ e = .cycleEnd ∨ ∃ ok0 ok1 svn0 svn1, e = .releaseFromReset ok0 ok1 svn0 svn1

/-- What reaches BAR0 of a polder's function over CXL.io (15 R400 to R403, 16 R426, R435, 17 R446, 19 R489). -/
def OverBar (e : Instr) : Prop :=
  (∃ sp n, 256 ≤ sp ∧ (e = .readClear sp n ∨ ∃ v, e = .regWrite sp n v)) ∨
  (∃ p n v, e = .qtailWrite p n v ∨ e = .qcfgWrite p n v ∨ e = .tokenWrite p n v) ∨
  (∃ p v, e = .fqcfgWrite p v ∨ e = .fqheadWrite p v ∨ e = .sncfgWrite p v ∨ e = .biasFlip p v) ∨
  (∃ p x, e = .create p x ∨ e = .quota p x ∨ e = .sync p x ∨ e = .preempt p x ∨ e = .resume p x ∨ e = .teardown p x ∨ e = .shootall p x ∨
    e = .retry p x ∨ e = .deny p x ∨ ∃ f, e = .dupfill p x f)

/-- The events that act in recovery mode (21 R513): those of a device before its release, what comes over CXL.io, and the requests of the DOE mailbox. -/
def InRecovery (e : Instr) : Prop :=
  BeforeBoot e ∨ OverBar e ∨ (∃ n, e = .getVersion n ∨ e = .getCapabilities n ∨ e = .negotiateAlgorithms n ∨ e = .getDigests n ∨ e = .getCertificate n ∨
    e = .challenge n ∨ e = .getMeasurements n ∨ e = .keyExchange n ∨ e = .finish n)

/-- What a group's turn makes of its outcome: in a halted team the skid is noted (13 R390, log 10), and at the tick of a stop the words go no further than
their issue stage (23 R520, log 89). -/
def turnOf (s : State) (t : Team) (g : Group) (r : GRef) (out : Out) : Out :=
  let s0 := { s with agenda := s.agenda.tail }
  let all := if t.fr.halted = true then mapNext (State.noteSkid g.ctl.words (decide (t.fr.haltedAt < s.cycle)) r) out else out
  if s0.stopDue = true then mapNext (State.issueStage s0) all else all

/-- What follows the word of a sub-gang that is not ready: its slices stand inside the word, and the group's next offers have the turn (02 R45), unless the
group parks or its team halts. -/
def nextOffers (s : State) (t : Team) (core : Nat) (g : Group) (r : GRef) (slices : BitVec 8) (more : List Offer) (out : Out) : Out :=
  let s0 := { s with agenda := s.agenda.tail }
  match out with
  | .next v => if s0.groupStops v r then .next v else State.tryOffers (if v.inside r slices then v else s0) r t core g more
  | x => x

/-- What every step keeps: home memory's canonical form and polders that are legal. -/
def Inv (s : State) : Prop := memoryWf s ∧ poldersLegal s

/-- No word of the instruction table stands on the agenda as an event: an event is one of the table's rows without an encoding. -/
def AgendaOk (s : State) : Prop := ∀ e rest, s.agenda = .event e :: rest → isEvent e = true ∧ ∀ w, e ≠ .notAnInstruction w

end Sys2Proof.Safety
end

