-- ==== Sys2Proof/Certificates/Slice0/Obligations.lean ====
section
/-! DEFINITION. The statements for the provers. -/
open Sys2Proof Sys2Proof.Machine Sys2Proof.Safety

/-- 05 R149, R153 to R159, R165, R172 to R178, R182 to R188: a word that writes one vector register completes; lane l of d takes the word's value in the
lanes its guard selects, and no other register, no other group and no byte of memory changes. -/
def Obligations.LaneWordsWriteOneRegister : Prop :=
  ∀ (s : State) (c : Cx) (i : Instr) (d : BitVec 6) (p : BitVec 3) (f : Nat → Word),
    LaneWord c i d p f → Issues s c i →
    ∃ t g', exec i s = .next t ∧ Moved s c t g' (onward c) ∧ WritesLines c.grp g' d.toNat 1 (c.sel p.toNat) (fun _ l => f l)

/-- 02 R57, 05 R153, R156, R159, R186: a word that writes a pair completes, and writes the pair d in the lanes its guard selects and
nothing else. -/
def Obligations.PairWordsWriteOnePair : Prop :=
  ∀ (s : State) (c : Cx) (i : Instr) (d : BitVec 6) (p : BitVec 3) (f : Nat → DWord),
    PairWord c i d p f → Issues s c i →
    ∃ t g', exec i s = .next t ∧ Moved s c t g' (onward c) ∧
      WritesLines c.grp g' d.toNat 2 (c.sel p.toNat) (fun n l => (f l).extractLsb' (32 * n) 32)

/-- 05 R181, R184, 04 R146, R147: the string words and the packing words complete, and write their run of registers in the lanes their
guard selects and nothing else. -/
def Obligations.RunWordsWriteTheirRegisters : Prop :=
  ∀ (s : State) (c : Cx) (i : Instr) (d : BitVec 6) (k : Nat) (p : BitVec 3) (f : Nat → Nat),
    RunWord c i d k p f → Issues s c i →
    ∃ t g', exec i s = .next t ∧ Moved s c t g' (onward c) ∧
      WritesLines c.grp g' d.toNat k (c.sel p.toNat) (fun n l => BitVec.ofNat 32 (f l / 2 ^ (32 * n)))

/-- 05 R166 to R171, 04 R130: the float words complete: each element of d takes its operation's code, the generator moves on by the
draws of the selected lanes in ascending order, and nothing else changes. -/
def Obligations.FloatWordsWriteTheirElements : Prop :=
  ∀ (s : State) (c : Cx) (i : Instr) (t : BitVec 2) (d : BitVec 6) (p : BitVec 3) (srcs : List Nat)
    (op : Fmt → Mods → List Nat → Word → Nat × Word),
    FloatWord c i t d p srcs op → Issues s c i →
    ∃ u g', exec i s = .next u ∧ Moved s c u g' (onward c) ∧
      WritesDrawn c.grp g' d.toNat (if t = 1 then 2 else 1) (c.sel p.toNat)
        (fun n l => BitVec.ofNat 32 (packedLane (vecFmt t.toNat).width (floatCodes c t p srcs op).1 l / 2 ^ (32 * n)))
        (floatCodes c t p srcs op).2

/-- 04 R134, R139 to R147, 05 R175: the conversions, the block formats, RED and SCAN complete, and write their registers and the
generator and nothing else. -/
def Obligations.DrawWordsWriteTheirRegisters : Prop :=
  ∀ (s : State) (c : Cx) (i : Instr) (d : BitVec 6) (k : Nat) (p : BitVec 3) (f : Nat → Nat) (lfsr : Word),
    DrawWord c i d k p f lfsr → Issues s c i →
    ∃ t g', exec i s = .next t ∧ Moved s c t g' (onward c) ∧
      WritesDrawn c.grp g' d.toNat k (c.sel p.toNat) (fun n l => BitVec.ofNat 32 (f l / 2 ^ (32 * n))) lfsr

/-- 02 R60, 05 R165, R173, R178, R179: a scalar word completes, and writes its scalar register and nothing else. -/
def Obligations.ScalarWordsWriteOneScalar : Prop :=
  ∀ (s : State) (c : Cx) (i : Instr) (n : Nat) (x : DWord),
    ScalarWord c i n x → Issues s c i →
    ∃ t g', exec i s = .next t ∧ Moved s c t g' (onward c) ∧ WritesScalar c.grp g' n x

/-- 04 R139 to R142: CVTS completes: one converted value to a scalar, and the generator. -/
def Obligations.ScalarConversion : Prop :=
  ∀ (s : State) (c : Cx) (d a : BitVec 6) (t rs : BitVec 4), Issues s c (.cvts d a t rs) →
    ∃ u g', exec (.cvts d a t rs) s = .next u ∧ Moved s c u g' (onward c) ∧
      ∃ r, r = cvtElem t.toNat rs.toNat (modsOf c.hs) ((c.grp.s a.toNat).toNat % 2 ^ fmtBits rs.toNat) c.grp.ctl.lfsr ∧
        ScalarWritten c.grp g' d.toNat (BitVec.ofNat 64 r.1) ∧
        regsOf g' = { regsOf c.grp with scalars := g'.scalars, ctl := { ctlRest c.grp.ctl with lfsr := r.2 } }

/-- 02 R59, 05 R162 to R165: a compare or predicate word completes, and writes its predicate in the lanes its guard selects and
nothing else; a write to p0 is discarded. -/
def Obligations.PredicateWordsWriteOnePredicate : Prop :=
  ∀ (s : State) (c : Cx) (i : Instr) (n : Nat) (p : BitVec 3) (bits : Lanes),
    PredWord c i n p bits → Issues s c i →
    ∃ t g', exec i s = .next t ∧ Moved s c t g' (onward c) ∧ WritesPred c.grp g' n (c.sel p.toNat) bits

/-- 02 R58, 05 R176: XSET and XADD complete, and write x(n) in the lanes their guard selects and nothing else. -/
def Obligations.IndexWordsWriteOneIndexRegister : Prop :=
  ∀ (s : State) (c : Cx) (x : BitVec 2) (a : BitVec 6) (k : BitVec 8) (p : BitVec 3),
    (Issues s c (.xset x a k p) →
      ∃ t g', exec (.xset x a k p) s = .next t ∧ Moved s c t g' (onward c) ∧
        WritesIndex c.grp g' x.toNat (c.sel p.toNat) (fun l => wrapI 16 ((reg c a l).toNat + immVI c.hs k))) ∧
    (Issues s c (.xadd x k p) →
      ∃ t g', exec (.xadd x k p) s = .next t ∧ Moved s c t g' (onward c) ∧
        WritesIndex c.grp g' x.toNat (c.sel p.toNat) (fun l => wrapI 16 ((c.grp.x x.toNat l).toInt + immVI c.hs k)))

/-- 05 R160: DIV and REM complete: a selected lane that divides by 0 takes all ones and sets DZ, every other the quotient truncated
toward zero or the remainder; DZ is never cleared, and nothing else changes. -/
def Obligations.DivideWordsWriteTheirRegister : Prop :=
  ∀ (s : State) (c : Cx) (i : Instr) (d b : BitVec 6) (p : BitVec 3) (f : Nat → Word),
    DivideWord c i d b p f → Issues s c i →
    ∃ t g', exec i s = .next t ∧ Moved s c t g' (onward c) ∧
      LinesWritten c.grp g' d.toNat 1 (c.sel p.toNat) (fun _ l => if reg c b l = 0 then BitVec.allOnes 32 else f l) ∧
      (g'.ctl.dz = true ↔ c.grp.ctl.dz = true ∨ ∃ l, l < 32 ∧ (c.sel p.toNat).getLsbD l = true ∧ reg c b l = 0) ∧
      regsOf g' = { regsOf c.grp with lines := g'.lines, dirty := g'.dirty, latch := g'.latch, lineErrs := g'.lineErrs, ctl := { ctlRest c.grp.ctl with dz := g'.ctl.dz } }

/-- 05 R161, R177: the forms that may trap complete as their others do where no lane traps: a .tz division whose selected divisors are not
0, and MOVX and MOVXW whose selected lanes stay inside the allocation. -/
def Obligations.WordsThatTrapNoLaneComplete : Prop :=
  ∀ (s : State) (c : Cx),
    (∀ i d a b p f, DivideTrap c i d a b p f → Issues s c i →
      (∀ l, l < 32 → (c.sel p.toNat).getLsbD l = true → reg c b l ≠ 0) →
      ∃ t g', exec i s = .next t ∧ Moved s c t g' (onward c) ∧ WritesLines c.grp g' d.toNat 1 (c.sel p.toNat) (fun _ l => f l)) ∧
    (∀ d x k p, Issues s c (.movx d x k p) →
      (∀ l, l < 32 → (c.sel p.toNat).getLsbD l = true → 0 ≤ indexed c x k l ∧ indexed c x k l < c.grp.budget) →
      ∃ t g', exec (.movx d x k p) s = .next t ∧ Moved s c t g' (onward c) ∧
        WritesLines c.grp g' d.toNat 1 (c.sel p.toNat) (fun _ l => lane c.grp (indexed c x k l).toNat l)) ∧
    (∀ x a k p, Issues s c (.movxw x a k p) →
      (∀ l, l < 32 → (c.sel p.toNat).getLsbD l = true → 0 ≤ indexed c x k l ∧ indexed c x k l < c.grp.budget) →
      ∃ t g', exec (.movxw x a k p) s = .next t ∧ Moved s c t g' (onward c) ∧
        g'.lines.length = c.grp.lines.length ∧
        (∀ j l, l < 32 → lane g' j l =
          if (c.sel p.toNat).getLsbD l = true ∧ indexed c x k l = j ∧ j < c.grp.lines.length then reg c a l else lane c.grp j l) ∧
        regsOf g' = { regsOf c.grp with lines := g'.lines, dirty := g'.dirty, latch := g'.latch, lineErrs := g'.lineErrs })

/-- 13 R380, R381, 05 R161, R177, R193: the lanes that trap outside a handler group enter the collector in lane order, each with its code,
operand and destination, and their slices wait on their handler; the word has left its sub-gang, and every selected lane that does not trap
has the word's result: of a .tz division, of MOVX and of MOVXW, whose other lines and lanes stay. TRAP so completes: every active lane of its sub-gang enters, and no
line changes. In a halted team the entries are discarded and counted (13 R388). -/
def Obligations.TrappingLanesEnterTheCollector : Prop :=
  (∀ (s : State) (c : Cx) (code : BitVec 16), Issues s c (.trapW code) → c.act ≠ 0 → c.grp.role ≠ .handler → c.stuffed = none →
    c.team.fr.halted = false →
    ∃ t u g', exec (.trapW code) s = .next t ∧ t.team? c.ref.team = some u ∧ t.group? c.ref = some g' ∧
      u.traps = c.team.traps ++ (laneNums c.act).map (trapEntry s c 0x03 (fun _ => code.setWidth 32) none) ∧
      (∀ k, Issuing c k → k < 8 → (g'.slice k).pc = c.pc + 4 ∧
        (c.act.extractLsb' (4 * k) 4 ≠ 0 → (g'.slice k).wait = .onTrap ∧ (g'.slice k).trapped = c.act.extractLsb' (4 * k) 4))) ∧
  ∀ (s : State) (c : Cx) (i : Instr) (bad : Lanes) (code : Nat) (oper : Nat → Word) (dest : Option Nat),
    TrapWord c i bad code oper dest → Issues s c i → bad ≠ 0 → c.grp.role ≠ .handler → c.stuffed = none →
    ∃ t u g', exec i s = .next t ∧ t.team? c.ref.team = some u ∧ t.group? c.ref = some g' ∧
      (c.team.fr.halted = false → u.traps = c.team.traps ++ (laneNums bad).map (trapEntry s c code oper dest)) ∧
      (c.team.fr.halted = true → u.traps = c.team.traps ∧ u.fr.pending = satAdd c.team.fr.pending (laneNums bad).length) ∧
      (∀ k, k < c.grp.slices.length → c.slices.getLsbD k = true →
        (g'.slice k).pc = c.pc + 4 ∧
        (bad.extractLsb' (4 * k) 4 ≠ 0 → k < 8 → (g'.slice k).wait = .onTrap ∧ (g'.slice k).trapped = bad.extractLsb' (4 * k) 4)) ∧
      (∀ j l, l < 32 → bad.getLsbD l = true → lane g' j l = lane c.grp j l) ∧
      (∀ d a b p f, DivideTrap c i d a b p f →
        LinesWritten c.grp g' d.toNat 1 (c.sel p.toNat &&& ~~~bad) (fun _ l => f l)) ∧
      (∀ d x k p, i = .movx d x k p →
        LinesWritten c.grp g' d.toNat 1 (c.sel p.toNat &&& ~~~bad) (fun _ l => lane c.grp (indexed c x k l).toNat l)) ∧
      (∀ x a k p, i = .movxw x a k p → g'.lines.length = c.grp.lines.length ∧ ∀ j l, l < 32 → lane g' j l =
        if (c.sel p.toNat &&& ~~~bad).getLsbD l = true ∧ indexed c x k l = j ∧ j < c.grp.lines.length then reg c a l else lane c.grp j l) ∧
      (∀ k, i = .trapW k → g'.lines = c.grp.lines) ∧
      g'.scalars = c.grp.scalars ∧ g'.preds = c.grp.preds ∧ g'.index = c.grp.index

/-- 13 R383, R389: a word that would trap lanes in a handler group halts its team with HNDTRAP instead, with no effect. -/
def Obligations.TrapsInAHandlerHaltTheTeam : Prop :=
  ∀ (s : State) (c : Cx) (i : Instr) (bad : Lanes) (code : Nat) (oper : Nat → Word) (dest : Option Nat),
    TrapWord c i bad code oper dest → Issues s c i → bad ≠ 0 → c.grp.role = .handler → c.stuffed = none → c.team.fr.halted = false →
    ∃ t l, exec i s = .next t ∧ (laneNums bad).head? = some l ∧
      Halted s t c 0x1F c.bundle (BitVec.ofNat 56 (code + 256 * (oper l).toNat))

/-- 05 R189, R190: a branch completes: taken, its sub-gang goes to its label, not taken to the next word, and no register changes. A branch
taken to an address outside the code section halts the team with ILLOP. -/
def Obligations.BranchesTransferOrGoOn : Prop :=
  ∀ (s : State) (c : Cx) (i : Instr) (o : BitVec 18) (taken : Bool), BranchWord c i o taken → Issues s c i →
    (taken = false → ∃ t, exec i s = .next t ∧ Retired s t c (onward c)) ∧
    (taken = true → InCode c (label c o) → ∃ t, exec i s = .next t ∧ Retired s t c (fun _ => (wrapI 32 (label c o), true))) ∧
    (taken = true → ¬ InCode c (label c o) → c.stuffed = none → c.team.fr.halted = false →
      ∃ t, exec i s = .next t ∧ Halted s t c 0x10 c.bundle (c.word.setWidth 56))

/-- 05 R189 to R192, 03 R89: LOOP decrements its scalar and transfers while it is not 0; JMP and JMPI transfer; CALL slides the window and
pushes its return; RET slides it back and returns. Each completes, and changes nothing else. A LOOP, JMP, JMPI, CALL or RET whose transfer would leave the code section,
CALL and RET of part of a group and RET without a return halt the team with ILLOP, and CALL past the allocation or
past 32 returns with WINOVF. -/
def Obligations.JumpsTransfer : Prop :=
  ∀ (s : State) (c : Cx),
    (∀ a o, Issues s c (.loopW a o) → (sc c a ≠ 1 → InCode c (label c o)) →
      ∃ t, exec (.loopW a o) s = .next t ∧
        Retired (s.modGroup c.ref (fun g => g.setS a.toNat (sc c a - 1))) t c
          (if sc c a = 1 then onward c else fun _ => (wrapI 32 (label c o), true))) ∧
    (∀ o, Issues s c (.jmp o) → InCode c (label c o) →
      ∃ t, exec (.jmp o) s = .next t ∧ Retired s t c (fun _ => (wrapI 32 (label c o), true))) ∧
    (∀ a, Issues s c (.jmpi a) → InCode c (sc c a).toNat →
      ∃ t, exec (.jmpi a) s = .next t ∧ Retired s t c (fun _ => (wrapI 32 (sc c a).toNat, true))) ∧
    (∀ k o, Issues s c (.callW k o) → c.wholeGroup = true → InCode c (label c o) →
      c.grp.ctl.base + 8 * k.toNat + 64 ≤ c.grp.lines.length → c.grp.ctl.links.length < 32 →
      ∃ t, exec (.callW k o) s = .next t ∧
        Retired (s.modGroup c.ref (fun g => { g with ctl := { g.ctl with
          base := g.ctl.base + 8 * k.toNat, links := (c.pc + 4, 8 * k.toNat) :: g.ctl.links } })) t c
          (fun _ => (wrapI 32 (label c o), true))) ∧
    (∀ pc slide rest, Issues s c .ret → c.wholeGroup = true → c.grp.ctl.links = (pc, slide) :: rest → InCode c pc.toNat →
      ∃ t, exec .ret s = .next t ∧
        Retired (s.modGroup c.ref (fun g => { g with ctl := { g.ctl with base := g.ctl.base - slide, links := rest } })) t c
          (fun _ => (pc, true))) ∧
    (c.stuffed = none → c.team.fr.halted = false →
      (∀ a, Issues s c (.jmpi a) → ¬ InCode c (sc c a).toNat →
        ∃ t, exec (.jmpi a) s = .next t ∧ Halted s t c 0x10 c.bundle (c.word.setWidth 56)) ∧
      (∀ k o, Issues s c (.callW k o) →
        ((c.wholeGroup = false ∨ ¬ InCode c (label c o)) →
          ∃ t, exec (.callW k o) s = .next t ∧ Halted s t c 0x10 c.bundle (c.word.setWidth 56)) ∧
        (c.wholeGroup = true → InCode c (label c o) →
          (c.grp.lines.length < c.grp.ctl.base + 8 * k.toNat + 64 ∨ 32 ≤ c.grp.ctl.links.length) →
          ∃ t, exec (.callW k o) s = .next t ∧ Halted s t c 0x14 c.bundle (BitVec.ofNat 56 (c.grp.ctl.base + 8 * k.toNat)))) ∧
      (∀ a o, Issues s c (.loopW a o) → sc c a ≠ 1 → ¬ InCode c (label c o) →
        ∃ t, exec (.loopW a o) s = .next t ∧ Halted s t c 0x10 c.bundle (c.word.setWidth 56)) ∧
      (∀ o, Issues s c (.jmp o) → ¬ InCode c (label c o) →
        ∃ t, exec (.jmp o) s = .next t ∧ Halted s t c 0x10 c.bundle (c.word.setWidth 56)) ∧
      (Issues s c .ret → (c.wholeGroup = false ∨ c.grp.ctl.links = [] ∨
          ∃ pc slide rest, c.grp.ctl.links = (pc, slide) :: rest ∧ ¬ InCode c pc.toNat) →
        ∃ t, exec .ret s = .next t ∧ Halted s t c 0x10 c.bundle (c.word.setWidth 56)))

/-- 05 R195, 02 R44: BRP completes while no slice's mask stack is full: each slice pushes its masks and goes to the target or on, and where
the sub-gang divides each part takes the tag of its lowest slice, which is a slice of that part. Where a stack holds 8 entries, it halts the team with ILLOP. -/
def Obligations.BranchOnPredicateDividesSlices : Prop :=
  ∀ (s : State) (c : Cx) (p : BitVec 3) (o : BitVec 18), Issues s c (.brp p o) → c.stuffed = none →
   ((∀ k, k < 8 → c.slices.getLsbD k = true → (c.grp.slice k).stack.length < 8) →
    ((∃ k, k < 8 ∧ c.slices.getLsbD k = true ∧ goes c p k) → InCode c (label c o)) → ∃ t, exec (.brp p o) s = .next t) ∧
   ((∃ k, k < 8 ∧ c.slices.getLsbD k = true ∧ 8 ≤ (c.grp.slice k).stack.length) → c.team.fr.halted = false →
      ∃ t, exec (.brp p o) s = .next t ∧ Halted s t c 0x10 c.bundle (c.word.setWidth 56)) ∧
   ((∀ k, k < 8 → c.slices.getLsbD k = true → (c.grp.slice k).stack.length < 8) →
    ((∃ k, k < 8 ∧ c.slices.getLsbD k = true ∧ goes c p k) → InCode c (label c o)) →
    ∃ t g', exec (.brp p o) s = .next t ∧ t.group? c.ref = some g' ∧ Elsewhere s t c ∧ OnlySlices c.grp g' c.slices ∧
      (∀ k, Issuing c k →
        ((goes c p k → (g'.slice k).pc = wrapI 32 (label c o)) ∧ (¬ goes c p k → (g'.slice k).pc = c.pc + 4)) ∧
        (g'.slice k).active = (if takes c p k = 0 then (c.grp.slice k).active else takes c p k) ∧
        (g'.slice k).stack =
          { full := (c.grp.slice k).active,
            pend := if takes c p k = 0 then 0 else (c.grp.slice k).active &&& ~~~(takes c p k),
            pendPc := c.pc + 4, resumePc := c.pc + 4 } :: (c.grp.slice k).stack) ∧
      (∀ j k, Issuing c j → Issuing c k → goes c p j → ¬ goes c p k →
        (g'.slice j).tag ≠ (g'.slice k).tag ∧
        (Issuing c (g'.slice j).tag ∧ goes c p (g'.slice j).tag ∧
          ∀ n, Issuing c n → goes c p n → (g'.slice n).tag = (g'.slice j).tag ∧ (g'.slice j).tag ≤ n) ∧
        (Issuing c (g'.slice k).tag ∧ ¬ goes c p (g'.slice k).tag ∧
          ∀ n, Issuing c n → ¬ goes c p n → (g'.slice n).tag = (g'.slice k).tag ∧ (g'.slice k).tag ≤ n)))

/-- 05 R196 to R198: REGANG arms a join with the depth of every slice's stack, and a fifth arming halts the team with ILLOP; a slice at an RCV that no wave split has parted from a live
slice applies it and goes on; one that has such partners waits there. Each completes. -/
def Obligations.ReconvergenceWords : Prop :=
  ∀ (s : State) (c : Cx),
    (∀ o, Issues s c (.regang o) → c.grp.ctl.joins.length < 4 →
      ∃ t, exec (.regang o) s = .next t ∧
        Retired (s.modGroup c.ref (fun g => { g with ctl := { g.ctl with
          joins := (wrapI 32 (label c o), g.slices.map (fun sl => sl.stack.length)) :: g.ctl.joins } })) t c (onward c)) ∧
    (∀ o, Issues s c (.regang o) → 4 ≤ c.grp.ctl.joins.length → c.stuffed = none → c.team.fr.halted = false →
      ∃ t, exec (.regang o) s = .next t ∧ Halted s t c 0x10 c.bundle (c.word.setWidth 56)) ∧
    (Issues s c .rcv → c.stuffed = none →
      ∃ t g', exec .rcv s = .next t ∧ t.group? c.ref = some g' ∧ Elsewhere s t c ∧ OnlySlices c.grp g' c.slices ∧
        ∀ k, Issuing c k → k < 8 →
          (c.grp.livePartners k = [] → Reconverged (c.grp.slice k) (g'.slice k) c.pc) ∧
          (c.grp.livePartners k ≠ [] → (g'.slice k).wait = .atRcv ∧ (g'.slice k).pc = c.pc ∧
            (g'.slice k).active = (c.grp.slice k).active ∧ (g'.slice k).stack = (c.grp.slice k).stack))

/-- 08 R257, R260, R262, R264 to R266, R270 to R272, 07 R251: a memory word that nothing holds, whose base, alignment, range, translation
and permission are in order, completes its issue: one operation enters with its addresses and operands captured, its requests wait at the
core's front, the word leaves its sub-gang, and no register and no byte of memory changes. One that selects no lane only goes on. -/
def Obligations.MemoryWordsEnterOneOperation : Prop :=
  ∀ (s s1 : State) (c : Cx) (i : Instr) (m : MemWord) (locs : List (Nat × Loc)) (g1 : Group),
    MemoryWord c i m → Issues s c i → m.held s c = false → m.fault c = none → s.placeLanes c m = (s1, .ok locs) →
    s1.group? c.ref = some g1 →
    (m.sel = 0 → ∃ t, exec i s = .next t ∧ Retired s1 t c (onward c)) ∧
    (m.sel ≠ 0 → NoFence s1 → (∀ x ∈ locs, ∃ pa leaf, x.2 = .phys pa leaf) →
      ∃ t u, exec i s = .next t ∧ Retired (entered s1 c.core (m.op c i s1.dev.nextId locs) m.checked) u c (onward c) ∧
        t = { u with ops := u.ops.filter (fun o => !o.done) } ∧ m.op c i s1.dev.nextId locs ∈ t.ops)

/-- 08 R257: the checks of a memory word before its translation halt the team: an invalid or scratchpad base BASEFLT, then a misaligned
lane ACCFLT, then an address outside the virtual space ACCFLT, each with its operand. -/
def Obligations.MemoryWordsCheckInOrder : Prop :=
  ∀ (s : State) (c : Cx) (i : Instr) (m : MemWord), MemoryWord c i m → Issues s c i → m.held s c = false → m.checked ≠ 0 →
    c.stuffed = none → c.team.fr.halted = false →
    (((c.bn m.base).valid = false ∨ (c.bn m.base).space ≠ .virtual) →
      ∃ t, exec i s = .next t ∧ Halted s t c 0x19 c.bundle (BitVec.ofNat 56 m.base)) ∧
    ((c.bn m.base).valid = true → (c.bn m.base).space = .virtual →
      (∃ l, l < 32 ∧ m.checked.getLsbD l = true ∧ m.addr c l % m.align ≠ 0) →
      ∃ t l, exec i s = .next t ∧ m.checked.getLsbD l = true ∧ m.addr c l % m.align ≠ 0 ∧
        (∀ k, k < l → m.checked.getLsbD k = true → m.addr c k % m.align = 0) ∧
        Halted s t c 0x18 c.bundle (wrapI 56 (m.addr c l))) ∧
    ((c.bn m.base).valid = true → (c.bn m.base).space = .virtual →
      (∀ l, l < 32 → m.checked.getLsbD l = true → m.addr c l % m.align = 0) →
      (∃ l, l < 32 ∧ m.checked.getLsbD l = true ∧ (m.addr c l < 0 ∨ 2 ^ 56 < m.addr c l + (m.width / 8 : Nat))) →
      ∃ t l, exec i s = .next t ∧ m.checked.getLsbD l = true ∧ (m.addr c l < 0 ∨ 2 ^ 56 < m.addr c l + (m.width / 8 : Nat)) ∧
        (∀ k, k < l → m.checked.getLsbD k = true → 0 ≤ m.addr c k ∧ m.addr c k + (m.width / 8 : Nat) ≤ 2 ^ 56) ∧
        Halted s t c 0x18 c.bundle (wrapI 56 (m.addr c l)))

/-- 08 R264, 09 R306, 11 R332: a store of one lane performed in a quarter's copy of its tile writes the lane's bytes, little-endian, and leaves every
other byte of the tile, every other tile and quarter, and home memory as they were; the operation's lane is served. -/
def Obligations.StoresWriteExactlyTheirBytes : Prop :=
  ∀ (s : State) (q tile : Nat) (o : MemOp) (l : Nat) (c : Copy),
    q < s.quarters.length → (s.quarter q).copy? tile = some c → o.kind = .store → l < 32 →
    o.pa l % 4096 + o.bytes ≤ 4096 → o.pa l / 4096 = tile →
    ∃ c', ((s.perform q tile o ((1#32) <<< l) true).quarter q).copy? tile = some c' ∧
      (∀ b, b < 4096 → c'.read b 1 =
        if o.pa l % 4096 ≤ b ∧ b < o.pa l % 4096 + o.bytes then byteOf (o.arg l) (b - o.pa l % 4096) else c.read b 1) ∧
      (∀ b, b < 4096 → o.pa l % 4096 ≤ b → b < o.pa l % 4096 + o.bytes → c'.valid.getLsbD b = true ∧ c'.dirty.getLsbD b = true) ∧
      (∀ x, x ≠ tile → ((s.perform q tile o ((1#32) <<< l) true).quarter q).copy? x = (s.quarter q).copy? x) ∧
      (∀ k, k ≠ q → (s.perform q tile o ((1#32) <<< l) true).quarter k = s.quarter k) ∧
      (s.perform q tile o ((1#32) <<< l) true).home = s.home ∧
      (s.perform q tile o ((1#32) <<< l) true).teams = s.teams ∧
      (∀ x, s.op? o.id = some x → ((s.perform q tile o ((1#32) <<< l) true).op? o.id).map (fun y => y.served.getLsbD l) = some true)

/-- 09 R309, 11 R332, 08 R264: a store of one lane performed at the home of its tile, where no write-back of the tile is under way and no
key is in use, writes the lane's bytes, little-endian, and no other byte of home memory. -/
def Obligations.StoresAtHomeWriteExactlyTheirBytes : Prop :=
  ∀ (s : State) (q tile : Nat) (o : MemOp) (l : Nat),
    memoryWf s → (∀ w ∈ s.wbq, w.tile ≠ tile) → o.kind = .store → l < 32 → s.keyFor q o.ctx (o.leaf l) = none →
    (∀ k ∈ s.home.keys, k.1 / 64 ≠ tile) → o.pa l / 4096 = tile → o.pa l % 4096 + o.bytes ≤ 4096 →
    let t := s.perform q tile o ((1#32) <<< l) false
    (∀ a, t.home.byte a =
      if o.pa l ≤ a ∧ a < o.pa l + o.bytes then BitVec.ofNat 8 (byteOf (o.arg l) (a - o.pa l)) else s.home.byte a) ∧
    memoryWf t ∧ t.teams = s.teams ∧ t.cores = s.cores

/-- 08 R264, 09 R306: a load of one lane performed in a copy that holds its bytes, none of them poisoned, and no unit of which has an error (21 R507), takes them, zero-extended, and
changes nothing but its own operation. -/
def Obligations.LoadsReadTheirBytes : Prop :=
  ∀ (s : State) (q tile : Nat) (o : MemOp) (l : Nat) (c : Copy),
    (s.quarter q).copy? tile = some c → o.kind = .load → l < 32 → o.pa l / 4096 = tile → o.pa l % 4096 + o.bytes ≤ 4096 →
    (∀ b, b < o.bytes → c.valid.getLsbD (o.pa l % 4096 + b) = true) → c.poison.getLsbD (o.pa l % 4096 / 64) = false →
    c.errs = [] →
    { s.perform q tile o ((1#32) <<< l) true with ops := [] } = { s with ops := [] } ∧
    ∀ x, s.op? o.id = some x → l < x.vals.length → ∃ y, (s.perform q tile o ((1#32) <<< l) true).op? o.id = some y ∧
      y.served.getLsbD l = true ∧ y.vals.getD l 0 = BitVec.ofNat 256 (c.read (o.pa l % 4096) o.bytes)

/-- 02 R52, 07 R251, R254, 08 R262: LOAD_RETURN writes the results of one slice, once every lane of it has its value: each register of the run takes its 32 bits
of the lane's value, and no other register, lane or group changes; or one register of one lane alone; a uniform load writes its scalar. -/
def Obligations.LoadReturnWritesOneSlice : Prop :=
  ∀ (s : State) (id k : Nat) (o : MemOp) (g : Group),
    s.op? id = some o → s.group? o.ref = some g → NoFence s →
    (o.kind.isUniform = false → o.kind.hasResult = true → k < 8 →
      (o.sel &&& (0xF#32 <<< (4 * k))) ≠ 0 → (o.sel &&& (0xF#32 <<< (4 * k))) &&& ~~~o.served = 0 →
      (o.sel &&& (0xF#32 <<< (4 * k))) &&& ~~~o.written ≠ 0 → o.parts = [] →
      ∃ t g', exec (.loadReturn id k) s = .next t ∧ t.group? o.ref = some g' ∧
        g'.lines.length = g.lines.length ∧
        (∀ j l, l < 32 → lane g' j l =
          if o.dst ≤ j ∧ j < o.dst + max 1 (o.width / 32) ∧ j < g.lines.length ∧ l / 4 = k ∧ o.sel.getLsbD l = true
          then BitVec.ofNat 32 ((o.vals.getD l 0).toNat / 2 ^ (32 * (j - o.dst))) else lane g j l) ∧
        g' = { g with lines := g'.lines, dirty := g'.dirty, latch := g'.latch, lineErrs := g'.lineErrs } ∧
        (∀ r, r ≠ o.ref → t.group? r = s.group? r) ∧ t.home = s.home ∧ t.quarters = s.quarters ∧ t.cores = s.cores) ∧
    (∀ j l, o.kind.isUniform = false → o.kind.hasResult = true → j < max 1 (o.width / 32) → l < 32 →
      (o.sel &&& o.served).getLsbD l = true → o.written.getLsbD l = false → (j, l) ∉ o.parts →
      ∃ t g', exec (.loadReturn id (8 + 32 * j + l)) s = .next t ∧ t.group? o.ref = some g' ∧
        (∀ i m, m < 32 → lane g' i m = if i = o.dst + j ∧ i < g.lines.length ∧ m = l
          then BitVec.ofNat 32 ((o.vals.getD l 0).toNat / 2 ^ (32 * j)) else lane g i m) ∧
        g' = { g with lines := g'.lines, dirty := g'.dirty, latch := g'.latch, lineErrs := g'.lineErrs } ∧
        (∀ r, r ≠ o.ref → t.group? r = s.group? r) ∧ t.home = s.home ∧ t.quarters = s.quarters ∧ t.cores = s.cores) ∧
    (o.kind.isUniform = true → o.sel &&& ~~~o.served = 0 → o.written ≠ o.sel →
      ∃ t, exec (.loadReturn id k) s = .next t ∧
        t.group? o.ref = some (g.setS o.dst (BitVec.ofNat 64 (o.vals.getD 0 0).toNat)) ∧
        (∀ r, r ≠ o.ref → t.group? r = s.group? r) ∧ t.home = s.home ∧ t.quarters = s.quarters ∧ t.cores = s.cores)

/-- 08 R267, R268: LDS completes: its lanes' bytes are read at its issue, little-endian, and wait as the results of one operation. STS
completes: its lanes write their bytes to the scratchpad, in some order of the lanes (log 8), the ascending one where no two overlap. A rank past the
cluster halts the team with ILLOP; then a misaligned lane does with ACCFLT (0x18), and then one outside the scratchpad with SPRANGE (0x1A), each with the first such lane's
address. -/
def Obligations.ScratchpadWordsComplete : Prop :=
  (∀ (s : State) (c : Cx) (d o : BitVec 6) (w : BitVec 3) (y : BitVec 1) (t p : BitVec 3) (u : Team),
    Reaches s c y t u → ScratchOk c u o.toNat (2 ^ w.toNat) (c.sel p.toNat) →
    (Issues s c (.lds d o w y t p) → accessHeld s c true false 0 = false → c.sel p.toNat ≠ 0 →
      ∃ x op, exec (.lds d o w y t p) s = .next x ∧ Retired (withOp s op) x c (onward c) ∧ op.id = s.dev.nextId ∧ op.kind = .load ∧
        op.width = 8 * 2 ^ w.toNat ∧
        Answered op c (c.sel p.toNat) (c.grp.ctl.base + d.toNat)
          (fun l => u.scratchNat (c.scratchOff o.toNat l).toNat (2 ^ w.toNat))) ∧
    (Issues s c (.sts d o w y t p) → accessHeld s c false true 0 = false →
      ∃ x n order, exec (.sts d o w y t p) s = .next x ∧ order.Perm (laneNums (c.sel p.toNat)) ∧
        ((∀ a b, a ∈ order → b ∈ order → a ≠ b → c.scratchOff o.toNat a ≠ c.scratchOff o.toNat b) → order = laneNums (c.sel p.toNat) ∧ n = s.free) ∧
        Retired (({ s with free := n }).modTeam u.id (fun v => order.foldl (fun v l =>
          v.setScratchNat (c.scratchOff o.toNat l).toNat (2 ^ w.toNat) (c.grp.storeData d.toNat (8 * 2 ^ w.toNat) l)) v)) x c (onward c))) ∧
  ∀ (s : State) (c : Cx) (i : Instr) (d o : BitVec 6) (w : BitVec 3) (y : BitVec 1) (t p : BitVec 3),
    ((i = .lds d o w y t p ∧ accessHeld s c true false 0 = false) ∨ (i = .sts d o w y t p ∧ accessHeld s c false true 0 = false)) →
    Issues s c i → c.stuffed = none → c.team.fr.halted = false →
    (y = 1 → c.team.shape.cluster ≤ t.toNat → ∃ x, exec i s = .next x ∧ Halted s x c 0x10 c.bundle (c.word.setWidth 56)) ∧
    (∀ u l, Reaches s c y t u → ScratchFails c u o.toNat (2 ^ w.toNat) (c.sel p.toNat) l →
      ∃ x, exec i s = .next x ∧
        Halted s x c (if c.scratchOff o.toNat l % (2 ^ w.toNat : Nat) ≠ 0 then 0x18 else 0x1A) c.bundle (wrapI 56 (c.scratchOff o.toNat l)))

/-- 08 R269 to R271: the scratchpad atomics complete: the lanes read and write one after the other, in some order of the lanes (log 8), and each lane's old value
waits as its result; ATOMG adds every selected lane to one location in ascending order, each lane's result the sum before it. A misaligned lane halts the team
with ACCFLT (0x18), then one outside the scratchpad with SPRANGE (0x1A), each with the first such lane's address. -/
def Obligations.ScratchpadAtomicsComplete : Prop :=
  ∀ (s : State) (c : Cx) (d : BitVec 6) (o a : BitVec 4) (t : BitVec 2) (p : BitVec 3),
    accessHeld s c true false (scopeOf c.hs 1).1 = false → c.sel p.toNat ≠ 0 →
    (∀ i fn, ScratchAtomic i d o a t p fn → Issues s c i →
      ScratchOk c c.team (haregO c.hs o) (atomWidth t.toNat / 8) (c.sel p.toNat) →
      ∃ x n order op r, exec i s = .next x ∧ order.Perm (laneNums (c.sel p.toNat)) ∧
        r = scratchAtomic c.team fn t.toNat (atomWidth t.toNat / 8) (fun l => (c.scratchOff (haregO c.hs o) l).toNat)
          (atomArg c a t 0) (fun l => if fn = 7 then atomArg c a t 1 l else 0) order ∧
        Retired (withOp (({ s with free := n }).modTeam c.ref.team (fun v => { v with scratch := r.1.scratch })) op) x c (onward c) ∧
        op.width = atomWidth t.toNat ∧
        Answered op c (c.sel p.toNat) (c.grp.ctl.base + d.toNat) (fun l => (lookupNat r.2 l).getD 0)) ∧
    (∀ i fn l, ScratchAtomic i d o a t p fn → Issues s c i → c.stuffed = none → c.team.fr.halted = false →
      ScratchFails c c.team (haregO c.hs o) (atomWidth t.toNat / 8) (c.sel p.toNat) l →
      ∃ x, exec i s = .next x ∧ Halted s x c (if c.scratchOff (haregO c.hs o) l % (atomWidth t.toNat / 8 : Nat) ≠ 0 then 0x18 else 0x1A) c.bundle
        (wrapI 56 (c.scratchOff (haregO c.hs o) l))) ∧
    (∀ l0 rest, laneNums (c.sel p.toNat) = l0 :: rest → Issues s c (.atomgScratch d o a t p) → c.stuffed = none → c.team.fr.halted = false →
      ScratchFails c c.team (haregO c.hs o) (atomWidth t.toNat / 8) ((1#32) <<< l0) l0 →
      ∃ x, exec (.atomgScratch d o a t p) s = .next x ∧
        Halted s x c (if c.scratchOff (haregO c.hs o) l0 % (atomWidth t.toNat / 8 : Nat) ≠ 0 then 0x18 else 0x1A) c.bundle
          (wrapI 56 (c.scratchOff (haregO c.hs o) l0))) ∧
    (∀ l0 rest, laneNums (c.sel p.toNat) = l0 :: rest → Issues s c (.atomgScratch d o a t p) →
      ScratchOk c c.team (haregO c.hs o) (atomWidth t.toNat / 8) ((1#32) <<< l0) →
      ∃ x op old, exec (.atomgScratch d o a t p) s = .next x ∧
        old = c.team.scratchNat (c.scratchOff (haregO c.hs o) l0).toNat (atomWidth t.toNat / 8) ∧
        Retired (withOp (s.modTeam c.ref.team (fun v => v.setScratchNat (c.scratchOff (haregO c.hs o) l0).toNat (atomWidth t.toNat / 8)
          (((laneNums (c.sel p.toNat)).foldl (fun acc l => (acc + atomArg c a t 0 l) % 2 ^ atomWidth t.toNat) old)))) op) x c (onward c) ∧
        op.width = atomWidth t.toNat ∧
        Answered op c (c.sel p.toNat) (c.grp.ctl.base + d.toNat) (fun l =>
          ((laneNums (c.sel p.toNat)).takeWhile (fun k => k != l)).foldl (fun acc k => (acc + atomArg c a t 0 k) % 2 ^ atomWidth t.toNat) old))

/-- 08 R258, R259: BSET completes: an address maps its base to the end of its page, or to nothing where no page maps it; a rank of the
cluster maps that team's scratchpad; any other value leaves the base invalid. BLIM sets the limit of a valid virtual base to the span
that the walk of its pages finds (State.blimWalk), at most the one asked for, and to just that one where its first page reaches so far. No other register changes. Neither is
held by a table whose memory is not ready (21 R512). -/
def Obligations.BaseWordsSetTheirRegister : Prop :=
  ∀ (s : State) (c : Cx) (n : BitVec 3) (a : BitVec 5),
    (Issues s c (.bset n a) → s.bsetHeld c (sc c a) = false → (∃ t, exec (.bset n a) s = .next t) ∧
      ((sc c a).extractLsb' 56 8 = 0 →
        ∃ t b, exec (.bset n a) s = .next t ∧
          Retired (withBase (s.leafFor c.core c.team.shape.ctx ((sc c a).extractLsb' 0 56).toNat).1 c n.toNat b) t c (onward c) ∧
          b.valid = true ∧ b.space = .virtual ∧ b.vbase = (sc c a).extractLsb' 0 56 ∧
          (∀ w0 w1 lo, (s.leafFor c.core c.team.shape.ctx ((sc c a).extractLsb' 0 56).toNat).2 = some (w0, w1, lo) →
            b.frame = BitVec.ofNat 52 (frameOf w0 lo ((sc c a).extractLsb' 0 56).toNat) ∧
            b.limit = 2 ^ lo - ((sc c a).extractLsb' 0 56).toNat % 2 ^ lo ∧ b.perm = permOf w0 ∧ b.leaf = (w0, w1)) ∧
          ((s.leafFor c.core c.team.shape.ctx ((sc c a).extractLsb' 0 56).toNat).2 = none → b.limit = 0)) ∧
      (∀ u, 0x80 ≤ ((sc c a).extractLsb' 56 8).toNat → ((sc c a).extractLsb' 56 8).toNat - 0x80 < min 8 (max 1 c.team.shape.cluster) →
        (sc c a).extractLsb' 0 56 = 0 → s.rankTeam c.team (((sc c a).extractLsb' 56 8).toNat - 0x80) = some u →
        ∃ t b, exec (.bset n a) s = .next t ∧ Retired (withBase s c n.toNat b) t c (onward c) ∧
          b.valid = true ∧ b.space = .scratch (((sc c a).extractLsb' 56 8).toNat - 0x80) ∧ b.limit = u.scratchSize) ∧
      ((sc c a).extractLsb' 56 8 ≠ 0 →
        (((sc c a).extractLsb' 56 8).toNat < 0x80 ∨ min 8 (max 1 c.team.shape.cluster) ≤ ((sc c a).extractLsb' 56 8).toNat - 0x80 ∨
          (sc c a).extractLsb' 0 56 ≠ 0) →
        ∃ t b, exec (.bset n a) s = .next t ∧ Retired (withBase s c n.toNat b) t c (onward c) ∧ b.valid = false)) ∧
    (Issues s c (.blim n a) → s.blimHeld c (c.bn n.toNat) (sc c a) = false → (∃ t, exec (.blim n a) s = .next t) ∧
      ((c.bn n.toNat).valid = false ∨ (c.bn n.toNat).space ≠ .virtual → ∃ t, exec (.blim n a) s = .next t ∧ Retired s t c (onward c)) ∧
      ((c.bn n.toNat).valid = true → (c.bn n.toNat).space = .virtual → sc c a = 0 →
        ∃ t, exec (.blim n a) s = .next t ∧ Retired (withBase s c n.toNat { c.bn n.toNat with limit := 0, more := [] }) t c (onward c)) ∧
      ((c.bn n.toNat).valid = true → (c.bn n.toNat).space = .virtual →
        ∀ s1 k ls, State.blimWalk c.core c.team.shape.ctx (c.bn n.toNat) (min (sc c a).toNat (2 ^ 32 - 1)) 65537 0 [] s = (s1, k, ls) →
        k ≤ min (sc c a).toNat (2 ^ 32 - 1) ∧
        ∃ t, exec (.blim n a) s = .next t ∧ Retired (withBase s1 c n.toNat { c.bn n.toNat with limit := k, more := ls }) t c (onward c)) ∧
      ((c.bn n.toNat).valid = true → (c.bn n.toNat).space = .virtual → ∀ w0 w1 lo,
        (s.leafFor c.core c.team.shape.ctx (c.bn n.toNat).vbase.toNat).2 = some (w0, w1, lo) → (c.bn n.toNat).continues 0 w0 lo = true →
        (sc c a).toNat ≤ 2 ^ lo - (c.bn n.toNat).vbase.toNat % 2 ^ lo → (sc c a).toNat < 2 ^ 32 →
        ∃ t g', exec (.blim n a) s = .next t ∧ t.group? c.ref = some g' ∧
          (n.toNat < c.grp.bases.length → (g'.bases[n.toNat]?).map BaseReg.limit = some (sc c a).toNat)))

/-- 07 R249, R253, R254, 08 R274, R275: a wait whose condition holds completes, and one whose condition does not leaves its sub-gang inside
the word. WAITC holds for each slice by itself: where only some meet it the sub-gang divides, and those go on. -/
def Obligations.WaitsGoOnWhenTheirConditionHolds : Prop :=
  ∀ (s : State) (c : Cx),
    (∀ l st b t, Issues s c (.waitc l st b t) →
      ((∀ k, k < 8 → c.slices.getLsbD k = true → Met s c l st b t k) → c.slices ≠ 0 →
        ∃ u, exec (.waitc l st b t) s = .next u ∧ Retired s u c (onward c)) ∧
      ((∀ k, k < 8 → c.slices.getLsbD k = true → ¬ Met s c l st b t k) →
        ∃ u, exec (.waitc l st b t) s = .next u ∧ Waits s u c .inWord) ∧
      (c.stuffed = none → ∀ i j, Issuing c i → Met s c l st b t i → Issuing c j → ¬ Met s c l st b t j →
        ∃ u g', exec (.waitc l st b t) s = .next u ∧ u.group? c.ref = some g' ∧ Elsewhere s u c ∧ OnlySlices c.grp g' c.slices ∧
          (g'.slice i).pc = c.pc + 4 ∧ (g'.slice i).hints = [] ∧
          (g'.slice j).pc = (c.grp.slice j).pc ∧ (g'.slice j).wait = .inWord ∧ (g'.slice i).tag ≠ (g'.slice j).tag)) ∧
    (∀ a, Issues s c (.waitb a) →
      ((c.team.shape.producer = 0 ∨ BatchesDone c.team ((sc c a).setWidth 32)) →
        ∃ u, exec (.waitb a) s = .next u ∧ Retired s u c (onward c)) ∧
      (c.team.shape.producer ≠ 0 → ¬ BatchesDone c.team ((sc c a).setWidth 32) →
        ∃ u, exec (.waitb a) s = .next u ∧ Waits s u c .inTimed)) ∧
    (∀ b a s0 s1 locs va v g1, Issues s c (.waitv b a) → accessHeld s c false false 0 = false → waitvPlace c s b = .inr (s0, .ok locs, va) →
      opsBehind c s va 4 = false → waitvLook c s0 ((lookupNat locs 0).getD (.scratch 0 0)) va = (s1, some v) → s1.group? c.ref = some g1 →
      (v ≠ (sc c a).toNat % 2 ^ 32 → ∃ u, exec (.waitv b a) s = .next u ∧ Retired s1 u c (onward c)) ∧
      (v = (sc c a).toNat % 2 ^ 32 → ∃ u, exec (.waitv b a) s = .next u ∧ Waits s1 u c .inTimed)) ∧
    (∀ a w b, c.team.bars[w.toNat]? = some b → Issues s c (.bwait a w) →
      (b.phase ≠ (sc c a).getLsbD 0 → ∃ u, exec (.bwait a w) s = .next u ∧ Retired s u c (onward c)) ∧
      (b.phase = (sc c a).getLsbD 0 → ∃ u, exec (.bwait a w) s = .next u ∧ Waits s u c .inTimed))

/-- 07 R246, 08 R276, R277, R290, R291, 07 R252: YIELD, the timers, TICK, CYC, BTEST and CLOSE complete: each writes what its rule gives, and
nothing else. -/
def Obligations.ClockAndBatchWords : Prop :=
  ∀ (s : State) (c : Cx),
    (Issues s c .yieldW → ∃ t g', exec .yieldW s = .next t ∧ Moved s c t g' (onward c) ∧ g'.ctl.yielding = true ∧
      regsOf g' = { regsOf c.grp with ctl := { ctlRest c.grp.ctl with yieldUntil := some (s.cycle + 65) } }) ∧
    (∀ a, Issues s c (.timerRes a) → ∃ t g', exec (.timerRes a) s = .next t ∧ Moved s c t g' (onward c) ∧
      regsOf g' = { regsOf c.grp with ctl :=
        { ctlRest c.grp.ctl with timer := timerFor false c.grp.ctl.cyc.toNat (sc c a).toNat } }) ∧
    (∀ a, Issues s c (.timerWall a) → ∃ t g', exec (.timerWall a) s = .next t ∧ Moved s c t g' (onward c) ∧
      regsOf g' = { regsOf c.grp with ctl := { ctlRest c.grp.ctl with timer := timerFor true 0 (sc c a).toNat } }) ∧
    (∀ d, Issues s c (.tick d) → ∃ t g', exec (.tick d) s = .next t ∧ Moved s c t g' (onward c) ∧ WritesScalar c.grp g' d.toNat s.tick) ∧
    (∀ d, Issues s c (.cyc d) → ∃ t g', exec (.cyc d) s = .next t ∧ Moved s c t g' (onward c) ∧ WritesScalar c.grp g' d.toNat c.grp.ctl.cyc) ∧
    (∀ d w b, c.team.bars[w.toNat]? = some b → Issues s c (.btest d w) →
      ∃ t g' x, exec (.btest d w) s = .next t ∧ Moved s c t g' (onward c) ∧ WritesScalar c.grp g' d.toNat x ∧
        x.extractLsb' 0 6 = b.exp ∧ x.extractLsb' 8 6 = b.arr ∧ x.getLsbD 28 = b.cdone ∧ x.getLsbD 29 = b.cwait ∧
        x.getLsbD 30 = b.err ∧ x.getLsbD 31 = b.phase ∧ x.extractLsb' 32 32 = b.owed) ∧
    (∀ d, Issues s c (.close d) → (c.team.pendingJobs = [] ∨ c.team.batches.length < 15) →
      ∃ t, exec (.close d) s = .next t ∧ Retired ((s.modTeam c.ref.team Team.seal).modGroup c.ref (fun g => g.setS d.toNat
        ((if c.team.pendingJobs = [] then c.team.lastBatch else c.team.lastBatch + 1).setWidth 64))) t c (onward c))

/-- 07 R247, R248, R250, 08 R277: BINIT, BARV and BEXP complete: each adds its event to its barrier register for the end of the cycle, and
changes nothing else; a count that R277 does not admit, or a BARV of part of a group, halts the team. A BARV, as a release, is held while
an access of its group is outstanding (log 35). -/
def Obligations.BarrierWordsAddTheirEvent : Prop :=
  ∀ (s : State) (c : Cx) (i : Instr) (w : BitVec 4) (ev : BarEvent) (need : Prop), BarrierWord c i w ev need → Issues s c i →
    (need → ev = .arrive → s.quiet c.ref = false → exec i s = .next s) ∧
    (need → (ev = .arrive → s.quiet c.ref = true) → ∃ t, exec i s = .next t ∧
      Retired (s.modTeam c.ref.team (fun u => { u with barEvents := u.barEvents ++ [(w.toNat, ev)] })) t c (onward c)) ∧
    (¬ need → c.stuffed = none → c.team.fr.halted = false →
      ∃ t, exec i s = .next t ∧
        Halted s t c (if ev = .arrive then 0x10 else 0x1B) c.bundle (if ev = .arrive then c.word.setWidth 56 else w.setWidth 56))

/-- 08 R278, R279, 13 R392: FENCE completes and takes effect at once where nothing of its group is outstanding, later otherwise; FENCEX
completes once everything is done, fences, and delivers the deferred faults of its group: recorded where REPORT is set, else a halt
at the first word of its bundle. -/
def Obligations.FenceWordsOrderAndDeliver : Prop :=
  ∀ (s : State) (c : Cx),
    (∀ k, Issues s c (.fence k) → c.grp.ctl.fence = none →
      ∃ u, Retired (s.modGroup c.ref (fun g => { g with ctl := { g.ctl with fence := some k.toNat } })) u c (onward c) ∧
        (s.quiet c.ref = true → exec (.fence k) s = .next
          ((u.fenceAt c.quarter k.toNat).modGroup c.ref (fun g => { g with ctl := { g.ctl with fence := none } }))) ∧
        (s.quiet c.ref = false → exec (.fence k) s = .next u)) ∧
    (∀ s1, Issues s c .fencex → s1 = (if c.grp.role = .producer then s.modTeam c.ref.team Team.seal else s) →
      (c.grp.role = .producer → c.team.pendingJobs = [] ∨ c.team.batches.length < 15) →
      (¬ AllDone s1 c → ∃ t, exec .fencex s = .next t ∧ Waits s1 t c .inWord) ∧
      (∀ g1, AllDone s1 c → (s1.fenceAt c.quarter 9).group? c.ref = some g1 →
        (c.grp.flt.pending = [] → ∃ t, exec .fencex s = .next t ∧ Retired (s1.fenceAt c.quarter 9) t c (onward c)) ∧
        (c.team.fr.halted = true → c.stuffed = none → ∃ t, exec .fencex s = .next t ∧ Retired (s1.fenceAt c.quarter 9) t c (onward c)) ∧
        (∀ code oper rest, c.grp.flt.pending = (code, oper) :: rest → c.team.fr.halted = false →
          (c.grp.flt.report = true → ∃ t, exec .fencex s = .next t ∧
            Retired ((s1.fenceAt c.quarter 9).modGroup c.ref (fun g => { g with flt := g.flt.deliver })) t c (onward c)) ∧
          (c.grp.flt.report = false → c.stuffed = none →
            exec .fencex s = .next ((s1.fenceAt c.quarter 9).halt c.ref code c.bundle oper true)))))

/-- 05 R194, 13 R386, R387: EXIT completes once everything is done: each slice of the sub-gang loses its active lanes from every mask, and goes on
where its stack still holds lanes, or ends; a team that is not halted (13 R391) ends with its last live group. The lanes of a handler group give their origins
their dispositions. -/
def Obligations.ExitEndsItsLanes : Prop :=
  ∀ (s : State) (c : Cx), Issues s c .exitW → c.grp.role ≠ .producer → AllDone s c → c.grp.flt.pending = [] → c.stuffed = none →
    (s.fenceAt c.quarter 9).group? c.ref = some c.grp →
    (c.grp.role ≠ .handler → c.ref.g ≠ 32 →
      ∃ t g' u, exec .exitW s = .next t ∧ t.group? c.ref = some g' ∧ t.team? c.ref.team = some u ∧
        (∀ k, Issuing c k →
          (∀ m st pc, GoesOn (c.grp.slice k).active (c.grp.slice k).stack m st pc →
            (g'.slice k).active = m ∧ (g'.slice k).stack = st ∧ (g'.slice k).pc = pc ∧ (g'.slice k).live = (c.grp.slice k).live) ∧
          ((¬ ∃ m st pc, GoesOn (c.grp.slice k).active (c.grp.slice k).stack m st pc) →
            (g'.slice k).live = false ∧ (g'.slice k).active = 0 ∧ (g'.slice k).stack = [])) ∧
        OnlySlices c.grp g' c.slices ∧
        ((∀ g ∈ u.groups, g.liveSlices = 0) → u.handler = none → u.fr.halted = false → u.ended = true)) ∧
    (∀ j e o, c.grp.role = .handler → c.act.getLsbD j = true → j < 32 → c.grp.origins[j]? = some e → e.group ≠ c.ref.g →
      (s.fenceAt c.quarter 9).group? ⟨c.ref.team, e.group⟩ = some o → e.lane / 4 < o.slices.length → e.lane < 32 →
      (o.slice (e.lane / 4)).wait = .onTrap → (o.slice (e.lane / 4)).trapped.getLsbD (e.lane % 4) = true →
      (∀ d ∈ (o.slice (e.lane / 4)).disps, d.1 ≠ e.lane % 4) →
      (∀ i e', i < 32 → i ≠ j → c.act.getLsbD i = true → c.grp.origins[i]? = some e' → e'.group ≠ e.group ∨ e'.lane ≠ e.lane) →
      ∃ t o', exec .exitW s = .next t ∧ t.group? ⟨c.ref.team, e.group⟩ = some o' ∧
        (e.lane % 4, decide (2 ≤ (c.grp.v 4 j).toNat % 4),
          if (c.grp.v 4 j).toNat % 4 = 1 ∧ c.grp.v 3 j ≠ 0xFFFFFFFF ∧ e.dbase + (c.grp.v 3 j).toNat < o.lines.length
          then some (BitVec.ofNat 32 (e.dbase + (c.grp.v 3 j).toNat), c.grp.v 5 j) else none) ∈ (o'.slice (e.lane / 4)).disps)

/-- 08 R280 to R282, 07 R252: a copy word whose card is aligned and readable completes: one job joins its team's pending batch, with the
card as it stood and the barrier it posts to, and nothing else changes. -/
def Obligations.CopyWordsAddOneJob : Prop :=
  ∀ (s s1 : State) (c : Cx) (i : Instr) (form : Nat) (a : BitVec 5) (w : BitVec 4) (q : BitVec 1) (card : Nat) (g1 : Group),
    CopyWord i form a w q → Issues s c i → copyHeld c s (sc c a).toNat = false → (sc c a).toNat % 64 = 0 → (sc c a).toNat < 2 ^ 56 →
    s.vRead c.core c.team.shape.ctx (c.level == 0) .touching (sc c a).toNat 64 = (s1, .ok card) → s1.group? c.ref = some g1 →
    ∃ t, exec i s = .next t ∧ Retired
      (State.modTeam { s1 with dev := { s1.dev with nextId := s1.dev.nextId + 1 } } c.ref.team (fun u => { u with jobs := u.jobs ++
        [{ id := s1.dev.nextId, form := form, cardVa := (sc c a).setWidth 56, card := BitVec.ofNat 512 card,
           post := if q = 1 then some w.toNat else none, state := .issued, landed := [], batch := none, page := none, serviced := [] }] })) t c (onward c)

/-- 08 R287, R288: EMIT and EMIT.nb complete their issue: the record's bytes go to the dispatcher with its node, and the group waits at the word
after, its registers as they were, until the record is placed or refused. An operand outside R287 halts the team. -/
def Obligations.EmitWordsHandOverOneRecord : Prop :=
  ∀ (s : State) (c : Cx) (i : Instr) (a b : BitVec 5) (pred : Option Nat),
    ((i = .emit a b ∧ pred = none) ∨ ∃ n, i = .emitNb a b n ∧ pred = some n.toNat) → Issues s c i → c.stuffed = none →
    accessHeld s c false false 2 = false → opsBehind c s (sc c a).toNat 64 = false →
    (∀ s1 v g1, (sc c a).toNat % 8 = 0 → 1 ≤ ((sc c b).extractLsb' 16 7).toNat → ((sc c b).extractLsb' 16 7).toNat ≤ 64 →
      (sc c b).extractLsb' 23 41 = 0 →
      s.vRead c.core c.team.shape.ctx (c.level == 0) .touching (sc c a).toNat ((sc c b).extractLsb' 16 7).toNat = (s1, .ok v) →
      s1.group? c.ref = some g1 →
      ∃ t g' e, exec i s = .next t ∧ t.group? c.ref = some g' ∧ t.emits = s1.emits ++ [e] ∧
        e.node = ((sc c b).extractLsb' 0 16).toNat ∧ e.len = ((sc c b).extractLsb' 16 7).toNat ∧ e.bytes = BitVec.ofNat 512 v ∧
        e.pred = pred ∧ e.act = c.act ∧ e.slices = c.slices ∧ e.team = c.ref.team ∧ e.group = c.ref.g ∧
        g'.ctl.emitting = true ∧ regsOf g' = { regsOf g1 with ctl := { ctlRest g1.ctl with emitting := true } } ∧
        ∀ k, Issuing c k → k < g1.slices.length → (g'.slice k).wait = .inWord ∧ (g'.slice k).pc = c.pc + 4) ∧
    (((sc c a).toNat % 8 ≠ 0 ∨ ((sc c b).extractLsb' 16 7).toNat = 0 ∨ 64 < ((sc c b).extractLsb' 16 7).toNat ∨
        (sc c b).extractLsb' 23 41 ≠ 0) → c.team.fr.halted = false →
      ∃ t, exec i s = .next t ∧ Halted s t c 0x1C c.bundle (((sc c b).setWidth 32).setWidth 56))

/-- 08 R289, R293, 13 R376: RDSYS and WRSYS complete where the register's number has the access, and halt the team with ILLOP elsewhere; WRSYS
leaves its group before the write acts; HALTX halts its team with code 0x1D; SHOOT removes the translations it names, and completes
unless an access in flight used one. -/
def Obligations.SystemWords : Prop :=
  ∀ (s : State) (c : Cx),
    (∀ d n, Issues s c (.rdsys d n) →
      (∀ s1 v g1, s.regRead c.acc n.toNat = some (s1, v) → s1.group? c.ref = some g1 →
        ∃ t, exec (.rdsys d n) s = .next t ∧ Retired (s1.modGroup c.ref (fun g => g.setS d.toNat v)) t c (onward c)) ∧
      (s.regRead c.acc n.toNat = none → c.stuffed = none → c.team.fr.halted = false →
        ∃ t, exec (.rdsys d n) s = .next t ∧ Halted s t c 0x10 c.bundle (c.word.setWidth 56))) ∧
    (∀ a n, Issues s c (.wrsys a n) → ∃ u, Retired s u c (onward c) ∧
      (∀ t, u.regWrite c.acc n.toNat (sc c a) = some t → exec (.wrsys a n) s = .next t) ∧
      (u.regWrite c.acc n.toNat (sc c a) = none → c.stuffed = none → c.team.fr.halted = false →
        ∃ t, exec (.wrsys a n) s = .next t ∧ Halted s t c 0x10 c.bundle (c.word.setWidth 56))) ∧
    (∀ k, Issues s c (.haltx k) → c.stuffed = none → c.team.fr.halted = false →
      ∃ t, exec (.haltx k) s = .next t ∧ Halted s t c 0x1D c.bundle (k.setWidth 56)) ∧
    (∀ a s1 g1, Issues s c (.shoot a) →
      s1 = s.shootDown (c.polder s) ((sc c a).extractLsb' 0 16) (((sc c a).extractLsb' 16 40).toNat * 65536) ((sc c a).extractLsb' 62 2).toNat →
      s1.group? c.ref = some g1 →
      (s1.usesShot (c.polder s) ((sc c a).extractLsb' 0 16) (((sc c a).extractLsb' 16 40).toNat * 65536) ((sc c a).extractLsb' 62 2).toNat = false →
        ∃ t, exec (.shoot a) s = .next t ∧ Retired s1 t c (onward c)) ∧
      (s1.usesShot (c.polder s) ((sc c a).extractLsb' 0 16) (((sc c a).extractLsb' 16 40).toNat * 65536) ((sc c a).extractLsb' 62 2).toNat = true →
        ∃ t, exec (.shoot a) s = .next t ∧ Waits s1 t c .inWord))

/-- 02 R47, 03 R90, R93: a hint word completes: its payload waits in its slices for the next word of the bundle, and no register changes. One
that a transfer reached, and a word that is no instruction, halt the team with ILLOP and the word's value. -/
def Obligations.HintWordsWaitForTheirWord : Prop :=
  ∀ (s : State) (c : Cx), cxOf s = some c →
    (∀ i kind p, HintWord i kind p →
      (c.landed = false → c.stuffed = none →
        ∃ t g', exec i s = .next t ∧ t.group? c.ref = some g' ∧ Elsewhere s t c ∧ regsOf g' = regsOf c.grp ∧
          g'.slices.length = c.grp.slices.length ∧
          (∀ k, Issuing c k → (g'.slice k).hints = (c.grp.slice k).hints ++ [(kind, p)] ∧ (g'.slice k).pc = (c.grp.slice k).pc + 4 ∧
            (g'.slice k).bundle = some c.bundle ∧ (g'.slice k).landed = false ∧ (g'.slice k).active = (c.grp.slice k).active ∧
            (g'.slice k).stack = (c.grp.slice k).stack) ∧
          (∀ k, k < c.grp.slices.length → c.slices.getLsbD k = false → sliceRest (g'.slice k) = sliceRest (c.grp.slice k))) ∧
      (c.landed = true → c.stuffed = none → c.team.fr.halted = false →
        ∃ t, exec i s = .next t ∧ Halted s t c 0x10 c.bundle (c.word.setWidth 56))) ∧
    (∀ w, c.stuffed = none → c.team.fr.halted = false →
      ∃ t, exec (.notAnInstruction w) s = .next t ∧ Halted s t c 0x10 c.bundle ((w.getD 0).setWidth 56))

/-- 03 R94, R116, 13 R376, R377: a word that fails a check before its effect halts its team, with the first failing check's code and the word's value,
and has no effect of its own. The checks are, in this order, the landing and the bundle, the encoding, the features, the level, each ILLOP (0x10), and the role, ILLROLE
(0x11). -/
def Obligations.WordsThatFailACheckHalt : Prop :=
  (∀ (s : State) (c : Cx) (i : Instr),
    (c.landed = true ∨ bundleOk i c.hs = false → precheck s c i = some 0x10) ∧
    (c.landed = false → bundleOk i c.hs = true →
      (i.wf = false ∨ hintedOk i c.hs = false → precheck s c i = some 0x10) ∧
      (i.wf = true → hintedOk i c.hs = true →
        ((∃ b ∈ featuresOf i ++ hintFeatures c.hs, s.feature (c.polder s) b = false) → precheck s c i = some 0x10) ∧
        ((∀ b ∈ featuresOf i ++ hintFeatures c.hs, s.feature (c.polder s) b = true) →
          (c.level < minLevel i → precheck s c i = some 0x10) ∧
          (minLevel i ≤ c.level → precheck s c i = if roleAdmits c.grp.role i = true then none else some 0x11))))) ∧
  ∀ (s : State) (c : Cx) (i : Instr) (code : Nat), isEvent i = false → isHint i = false → cxOf s = some c → precheck s c i = some code →
    c.stuffed = none → c.team.fr.halted = false →
    ∃ t, exec i s = .next t ∧ Halted s t c code c.bundle (c.word.setWidth 56)

/-- 06 R203, R204, R226 to R228, R232: a word of the matrix majors completes its issue: it enters its core's queue with its operands, and only its group's
latch changes. ACCRST of a whole group whose slices hold no stack records where it restarts. -/
def Obligations.MatrixWordsEnterTheQueue : Prop :=
  ∀ (s : State) (c : Cx) (i : Instr), Issues s c i → (s.core c.core).mx.length < 16 → s.tlCount c.ref < 31 →
    (∀ a b, QueueWord i a b → MatrixFree s c i a b →
      ∃ t e, exec i s = .next t ∧ Retired (queued s c.core e) t c (onward c) ∧ e.instr = i ∧ e.team = c.ref.team ∧ e.group = c.ref.g ∧
        e.sa = c.grp.s a ∧ e.sb = c.grp.s b ∧ e.hints = c.hs) ∧
    (∀ a f r m, MatrixMultiply c i a f r m → ScalesFree s c i →
      ∃ t e, exec i s = .next t ∧
        Retired ((queued s c.core e).modGroup c.ref (fun g => { g with latch := latched r (matrixLines c a.toNat m) f.toNat e })) t c (onward c) ∧
        e.instr = i ∧ e.team = c.ref.team ∧ e.group = c.ref.g ∧ e.hints = c.hs ∧ e.sel = c.sel (guardOf i) ∧
        (∀ x, c.grp.latch = some x → x.lines = matrixLines c a.toNat m → x.fmt = f.toNat → x.sel = e.sel → e.rows = x.rows ∧ e.metas = x.metas) ∧
        (Latched c.grp (matrixLines c a.toNat m) f.toNat e.sel ∨
        (∀ k, k < 8 → e.rows[k]? = some (c.grp.line (c.grp.ctl.base + a.toNat + k))) ∧
        (a.toNat ≤ 48 → e.rows[8]? = some (c.grp.line (c.grp.ctl.base + a.toNat + 8))) ∧
        (∀ k n, m = some n → k < 8 → e.metas[k]? = some (c.grp.line (c.grp.ctl.base + n + k))) ∧ (m = none → e.metas = []))) ∧
    (∀ n lab, i = .accrst n → c.wholeGroup = true → (∀ k, k < 8 → c.grp.liveSlices.getLsbD k = true → (c.grp.slice k).stack = []) →
      c.team.shape.restarts[n.toNat]? = some lab →
      ∃ t, exec i s = .next t ∧ Retired (s.modGroup c.ref (restarting lab)) t c (onward c))

/-- 06 R204, R212 to R214, R220, R222, R226, R227, R231: MATRIX_WORD_COMPLETE performs the oldest word of the queue where nothing holds it: reservations
bind and unbind their records, the scale words set theirs, the accumulator words move a slot to and from memory, and a multiply, dense
or sparse, of a 32-bit format or of .f64, adds to each element of its slot or pair of slots, in the quarters with a selected lane, and to nothing else. A multiply that its record does
not admit halts the team with OBSTATE (0x17) and the record's number, a sparse one whose metadata do not ascend with SPMETA (0x13) and the lane (log 70). -/
def Obligations.MatrixUnitPerformsItsWords : Prop :=
  ∀ (s : State) (core : Nat) (e : MxEntry) (u : Team), AtUnit s core e u →
    (∀ a o, e.instr = .obres a o → (u.obRec o.toNat).bound = false → descOk e.sa = true → descSize e.sa ≤ s.oFree core →
      descSize e.sa ≤ s.oGranules core →
      ∃ t r n, exec (.matrixWordComplete core) s = .next t ∧ Performed (withRec { s with free := n } u.id o.toNat r) t core e ∧
        r.bound = true ∧ r.desc = e.sa ∧ r.range.length = 256 * descSize e.sa ∧ r.expected = 0 ∧ r.popped = 0 ∧
        ∀ x ∈ r.units, x.tag = none ∧ x.scales = none) ∧
    (∀ o, e.instr = .obrel o → (u.obRec o.toNat).bound = true → descSsrc (u.obRec o.toNat).desc ≠ 1 →
      ∃ t r, exec (.matrixWordComplete core) s = .next t ∧ Performed (withRec s u.id o.toNat r) t core e ∧ r.bound = false) ∧
    (∀ a o, e.instr = .scfifo a o → e.sa.toNat < 2 ^ 32 → (u.obRec o.toNat).bound = true → descSsrc (u.obRec o.toNat).desc = 1 →
      (u.obRec o.toNat).popped = 0 →
      ∃ t, exec (.matrixWordComplete core) s = .next t ∧
        Performed (s.modTeam u.id (fun x => { x with obs := modAt x.obs o.toNat (fun r => { r with expected := e.sa.toNat }) })) t core e) ∧
    (∀ a b, e.instr = .scpush a b → 1 ≤ (e.sb.extractLsb' 0 4).toNat → (e.sb.extractLsb' 0 4).toNat ≤ 8 → e.sb.extractLsb' 4 4 = 0 →
      e.sb.extractLsb' 11 53 = 0 → u.fifo.length + (e.sb.extractLsb' 0 4).toNat ≤ 256 →
      ∃ t, exec (.matrixWordComplete core) s = .next t ∧
        Performed (s.modTeam u.id (fun x => { x with fifo := x.fifo ++ (List.range (e.sb.extractLsb' 0 4).toNat).map (fun i =>
          ((e.sb.extractLsb' 8 3).toNat, e.sa.extractLsb' (8 * i) 8)) })) t core e) ∧
    (∀ a b, e.instr = .sccache a b → e.sb.extractLsb' 3 5 = 0 → e.sb.extractLsb' 13 51 = 0 →
      (u.obRec (e.sb.extractLsb' 0 3).toNat).bound = true → descSsrc (u.obRec (e.sb.extractLsb' 0 3).toNat).desc = 2 →
      ∃ t, exec (.matrixWordComplete core) s = .next t ∧
        Performed (s.modTeam u.id (fun x => { x with obs := modAt x.obs (e.sb.extractLsb' 0 3).toNat (fun r =>
          { r with scBase := e.sa, scShift := (e.sb.extractLsb' 8 5).toNat, scCache := [] }) })) t core e) ∧
    (∀ k, e.instr = .accz k →
      ∃ t, exec (.matrixWordComplete core) s = .next t ∧
        Performed (s.modGroup e.ref (fun g => { g with acc := modAt g.acc k.toNat (fun _ => List.replicate 256 0) })) t core e) ∧
    (∀ a k s1 v, e.instr = .accld a k →
      s.vRead core u.shape.ctx (e.app u) .touching (e.sa.toNat / 1024 * 1024) 1024 = (s1, .ok v) →
      ∃ t f, exec (.matrixWordComplete core) s = .next t ∧
        Performed (s1.modGroup e.ref (fun g => { g with acc := modAt g.acc k.toNat f })) t core e ∧
        ∀ ws : List Word, ws.length = 256 → f ws = (List.range 256).map (fun i => BitVec.ofNat 32 (v / 2 ^ (32 * i)))) ∧
    (∀ a k s1 g x, e.instr = .accst a k → s.group? e.ref = some g → (g.acc.getD k.toNat []).length = 256 →
      s.vWrite core u.shape.ctx (e.app u) .touching (e.sa.toNat / 1024 * 1024) 1024 (packElems 32 ((g.acc.getD k.toNat []).map BitVec.toNat)) =
        (s1, .ok x) →
      ∃ t, exec (.matrixWordComplete core) s = .next t ∧ Performed s1 t core e) ∧
    (∀ a b o r s1 v, e.instr = .obld a b o → r = u.obRec o.toNat → r.bound = true → e.sb.extractLsb' 24 8 = 0 → e.sb.extractLsb' 48 16 = 0 →
      (e.sb.extractLsb' 0 24).toNat % descUnit r.desc = 0 → 1 ≤ (e.sb.extractLsb' 32 16).toNat → (e.sb.extractLsb' 32 16).toNat ≤ 1536 →
      (e.sb.extractLsb' 0 24).toNat + (e.sb.extractLsb' 32 16).toNat * descUnit r.desc ≤ 1024 * descSize r.desc → e.sa.toNat % 256 = 0 →
      s.readOn core u.shape.ctx (e.app u) e.sa.toNat ((e.sb.extractLsb' 32 16).toNat * descUnit r.desc) e.got = (s1, .all v none) →
      ∃ t f, exec (.matrixWordComplete core) s = .next t ∧
        Performed (s1.modTeam u.id (fun x => { x with obs := modAt x.obs o.toNat f })) t core e ∧
        ∀ y : ObRec, (f y).desc = y.desc ∧
          (y.range.length = 256 * descSize r.desc → ∀ b, wordsByte (f y).range b =
            if (e.sb.extractLsb' 0 24).toNat ≤ b ∧
                b < (e.sb.extractLsb' 0 24).toNat + (e.sb.extractLsb' 32 16).toNat * descUnit r.desc
            then byteOf v (b - (e.sb.extractLsb' 0 24).toNat) else wordsByte y.range b) ∧
          ∀ i, i < (e.sb.extractLsb' 32 16).toNat → (e.sb.extractLsb' 0 24).toNat / descUnit r.desc + i < y.units.length →
            (f y).units[(e.sb.extractLsb' 0 24).toNat / descUnit r.desc + i]? =
              some { tag := some (BitVec.ofNat 56 (e.sa.toNat + i * descUnit r.desc)), scales := none }) ∧
    (∀ k a o f x n p r blk s1 cs g, e.instr = .mmq k a o f x n p → r = u.obRec o.toNat →
      blk = ((hintOf e.hints 0).getD 0).toNat * 32 + n.toNat → r.bound = true → descFmt r.desc = f.toNat → descSparse r.desc = 0 → f ≠ 0 →
      (blk + 1) * descUnit r.desc ≤ 1024 * descSize r.desc → (descAscale r.desc = true → a.toNat ≤ 48) → e.sel ≠ 0 →
      s.unitScales u core e o.toNat blk = .codes s1 cs → s1.group? e.ref = some g → (g.acc.getD k.toNat []).length = 256 →
      ∃ t f, exec (.matrixWordComplete core) s = .next t ∧ Performed (s1.modGroup e.ref f) t core e ∧
        (∀ j, j ≠ k.toNat → (f g).acc.getD j [] = g.acc.getD j []) ∧ { f g with acc := [], restart := none } = { g with acc := [], restart := none } ∧
        ∀ q i n, q < 4 → i < 8 → n < 8 → tile (f g) k.toNat q i n =
          if e.sel.extractLsb' (8 * q) 8 = 0 then tile g k.toNat q i n
          else tileElem (descFmt r.desc) (tile g k.toNat q i n) (denseTerms e r.desc r.range blk
            (fun j => if descSsrc r.desc = 0 then .fin false 1 0 else scaleNum (descSkind r.desc) (cs.getD j 0).toNat) q i n)) ∧
    (∀ k a o x n p r blk s1 cs g, e.instr = .mmq k a o 0 x n p → r = u.obRec o.toNat →
      blk = ((hintOf e.hints 0).getD 0).toNat * 32 + n.toNat → r.bound = true → descFmt r.desc = 0 → descSparse r.desc = 0 →
      (blk + 1) * descUnit r.desc ≤ 1024 * descSize r.desc → (descAscale r.desc = true → a.toNat ≤ 48) → e.sel ≠ 0 →
      s.unitScales u core e o.toNat blk = .codes s1 cs → s1.group? e.ref = some g → (g.acc.getD k.toNat []).length = 256 →
      (g.acc.getD (k.toNat + 1) []).length = 256 →
      ∃ t f, exec (.matrixWordComplete core) s = .next t ∧ Performed (s1.modGroup e.ref f) t core e ∧
        (∀ j, j ≠ k.toNat → j ≠ k.toNat + 1 → (f g).acc.getD j [] = g.acc.getD j []) ∧
        { f g with acc := [], restart := none } = { g with acc := [], restart := none } ∧
        ∀ q i n, q < 4 → i < 8 → n < 8 → tile64 (f g) k.toNat q i n =
          if e.sel.extractLsb' (8 * q) 8 = 0 then tile64 g k.toNat q i n
          else BitVec.ofNat 64 (dotF64 (tile64 g k.toNat q i n).toNat
            ((denseTerms e r.desc r.range blk (fun _ => .fin false 1 0) q i n).map (fun y => (y.1, y.2.2.1))))) ∧
    (∀ k a o f x n p r blk s1 cs g, e.instr = .mms k a o f x n p → r = u.obRec o.toNat →
      blk = ((hintOf e.hints 0).getD 0).toNat * 32 + n.toNat → r.bound = true → descFmt r.desc = f.toNat → descSparse r.desc ≠ 0 → f ≠ 0 →
      (blk + 1) * descUnit r.desc ≤ 1024 * descSize r.desc → (descAscale r.desc = true → a.toNat ≤ 48) → e.sel ≠ 0 →
      (∀ l, l < 32 → e.sel.getLsbD l = true → RunsAscend e r.desc l) →
      s.unitScales u core e o.toNat blk = .codes s1 cs → s1.group? e.ref = some g → (g.acc.getD k.toNat []).length = 256 →
      ∃ t f, exec (.matrixWordComplete core) s = .next t ∧ Performed (s1.modGroup e.ref f) t core e ∧
        (∀ j, j ≠ k.toNat → (f g).acc.getD j [] = g.acc.getD j []) ∧ { f g with acc := [], restart := none } = { g with acc := [], restart := none } ∧
        ∀ q i n, q < 4 → i < 8 → n < 8 → tile (f g) k.toNat q i n =
          if e.sel.extractLsb' (8 * q) 8 = 0 then tile g k.toNat q i n
          else tileElem (descFmt r.desc) (tile g k.toNat q i n) (sparseTerms e r.desc r.range blk
            (fun j => if descSsrc r.desc = 0 then .fin false 1 0 else scaleNum (descSkind r.desc) (cs.getD j 0).toNat) q i n)) ∧
    (∀ a f n o sparse, MultiplyAt e a f n o sparse → ¬ MultiplyOk (u.obRec o) e a f n sparse →
      exec (.matrixWordComplete core) s = .next (s.mxRaise core e 0x17 o).sweep) ∧
    (∀ a f n o l, MultiplyAt e a f n o true → MultiplyOk (u.obRec o) e a f n true → l < 32 → e.sel.getLsbD l = true →
      ¬ RunsAscend e (u.obRec o).desc l → (∀ j, j < l → e.sel.getLsbD j = true → RunsAscend e (u.obRec o).desc j) →
      exec (.matrixWordComplete core) s = .next (s.mxRaise core e 0x13 l).sweep)

/-- 17 R465 to R467, R471 to R475: a SEQ word that nothing holds completes: the words with a result enter their engine with their operands, SNFIND, SNGET and
KVMAP as acquires, SNREL
gives back one hold of its team or counts a bad release, and KVFREE frees its sequence. -/
def Obligations.SequenceWordsComplete : Prop :=
  ∀ (s : State) (c : Cx) (i : Instr), Issues s c i →
    (∀ d a b rel, TreeWord i d a b rel → accessHeld s c true false (if rel then 2 else 0) = false →
      (rel = true → ∀ o ∈ s.groupOps c.ref, o.sel &&& ~~~o.served = 0) →
      ∃ t o, exec i s = .next t ∧ Retired (withOp s o) t c (onward c) ∧ o.id = s.dev.nextId ∧ o.kind = .engine true ∧ o.instr = i ∧
        o.team = c.ref.team ∧ o.group = c.ref.g ∧ o.dst = d ∧ o.sa = c.grp.s a ∧ o.sb = c.grp.s b ∧ o.sel = 1 ∧ o.served = 0 ∧ o.written = 0 ∧
        orderAcquires o.order = !rel) ∧
    (∀ d a b p, (i = .kvmap d a b p ∨ i = .kvapp d a b p) → accessHeld s c true false 0 = false → c.sel p.toNat ≠ 0 →
      ∃ t o, exec i s = .next t ∧ Retired (withOp s o) t c (onward c) ∧ o.id = s.dev.nextId ∧ o.kind = .engine false ∧ o.instr = i ∧
        o.team = c.ref.team ∧ o.group = c.ref.g ∧ o.dst = c.grp.ctl.base + d.toNat ∧ o.sel = c.sel p.toNat ∧ o.served = 0 ∧ o.written = 0 ∧
        (orderAcquires o.order = true ↔ i = .kvmap d a b p) ∧
        ∀ l, l < 32 → o.arg2 l = (reg c b l).toNat ∧
          (i = .kvmap d a b p → o.arg l = (pair c a l).toNat) ∧ (i = .kvapp d a b p → o.arg l = c.grp.vN a.toNat l 8)) ∧
    (∀ a, i = .snrel a → (s.polder (c.polder s)).snReady = true → (s.polder (c.polder s)).eng.enable = true →
      (∀ s1 g1, s1 = s.unholdNode (c.polder s) ((sc c (a.setWidth 5)).toNat % 2 ^ 22) → s1.group? c.ref = some g1 →
        (sc c (a.setWidth 5)).toNat < 2 ^ 30 → ((sc c (a.setWidth 5)).toNat % 2 ^ 22) ∈ c.team.holds →
        ∃ t, exec i s = .next t ∧
          Retired (s1.modTeam c.ref.team (fun u => { u with holds := u.holds.erase ((sc c (a.setWidth 5)).toNat % 2 ^ 22) })) t c (onward c)) ∧
      ((2 ^ 30 ≤ (sc c (a.setWidth 5)).toNat ∨ ((sc c (a.setWidth 5)).toNat % 2 ^ 22) ∉ c.team.holds) →
        ∃ t, exec i s = .next t ∧
          Retired (s.modPolder (c.polder s) (fun x => { x with eng := { x.eng with badRel := satAdd x.eng.badRel 1 } })) t c (onward c))) ∧
    (∀ a s1 g1, i = .kvfree a → (s.polder (c.polder s)).snReady = true → (s.polder (c.polder s)).eng.enable = true →
      (s.store (c.polder s) ((sc c (a.setWidth 5)).toNat / 2 ^ 28)).on = true →
      s1 = s.freeSeq (c.polder s) ((sc c (a.setWidth 5)).toNat / 2 ^ 28) ((sc c (a.setWidth 5)).toNat % 2 ^ 28) → s1.group? c.ref = some g1 →
      ∃ t, exec i s = .next t ∧ Retired s1 t c (onward c))

/-- 17 R451, R459, R461, R466, R472, R474: ENGINE_STEP performs one operation: a KVMAP gives each lane the status of its position, with its slot and page; a
KVCOMMIT within the appended positions sets the committed length and answers it, any other answers the length it leaves; a tree word
answers NOTREE while the engines are off, and then BADARG where its reference has upper bits (17 R446). -/
def Obligations.EngineStepsPerformOneWord : Prop :=
  ∀ (s : State) (p id : Nat) (o : MemOp) (u : Team) (core : Nat), AtEngine s p id o u core →
    (∀ d a b g, o.instr = .kvmap d a b g → o.vals.length = 32 → o.served = 0 →
      ∃ t y, exec (.engineStep p id) s = .next t ∧ t.op? id = some y ∧ y.served = o.sel ∧
        ∀ l, l < 32 → o.sel.getLsbD l = true → ∀ status page,
          KvStatus ((s.polder p).eng.enable && (s.store p (o.arg l / 2 ^ 28 % 16)).on) (s.store p (o.arg l / 2 ^ 28 % 16)).maxPos
            (if o.arg l % 2 ^ 28 < (s.store p (o.arg l / 2 ^ 28 % 16)).maxSeq
             then (s.store p (o.arg l / 2 ^ 28 % 16)).seq? (o.arg l % 2 ^ 28) else none)
            (layerHead (s.store p (o.arg l / 2 ^ 28 % 16)) (o.arg l / 2 ^ 32)) (o.arg2 l) status page →
          y.vals.getD l 0 = BitVec.ofNat 256 (status * 2 ^ 28 + o.arg2 l % 16 * 2 ^ 24 + page)) ∧
    (∀ a b k q, o.instr = .kvcommit a b → o.vals.length = 32 → o.sel = 1 → k = o.sa.toNat % 2 ^ 32 / 2 ^ 28 →
      (s.polder p).eng.enable = true → (s.store p k).on = true → o.sa.toNat % 2 ^ 28 < (s.store p k).maxSeq →
      (s.store p k).seq? (o.sa.toNat % 2 ^ 28) = some q → k < (s.polder p).eng.stores.length →
      ((q.committed ≤ o.sb.toNat ∧ ∀ l h, l < (s.store p k).layers → h < (s.store p k).heads → o.sb.toNat ≤ (q.head l h).next) →
        ∃ t y q', exec (.engineStep p id) s = .next t ∧ t.op? id = some y ∧ y.vals.getD 0 0 = BitVec.ofNat 256 o.sb.toNat ∧
          (t.store p k).seq? (o.sa.toNat % 2 ^ 28) = some q' ∧ q'.committed = o.sb.toNat) ∧
      ((o.sb.toNat < q.committed ∨ ∃ l h, l < (s.store p k).layers ∧ h < (s.store p k).heads ∧ (q.head l h).next < o.sb.toNat) →
        ∃ t y, exec (.engineStep p id) s = .next t ∧ t.op? id = some y ∧ y.vals.getD 0 0 = BitVec.ofNat 256 q.committed ∧
          (t.store p k).seq? (o.sa.toNat % 2 ^ 28) = some q)) ∧
    ((∃ d a b, o.instr = .snput d a b) ∨ (∃ d a, o.instr = .snget d a) ∨ (∃ d a b, o.instr = .snfind d a b) →
      (s.polder p).eng.enable = false → o.vals.length = 32 → o.sel = 1 →
      ∃ t y, exec (.engineStep p id) s = .next t ∧ t.op? id = some y ∧ y.served = 1 ∧ y.vals.getD 0 0 = BitVec.ofNat 256 (2 * 2 ^ 60)) ∧
    ((∃ d a b, o.instr = .snput d a b ∧ 2 ^ 30 ≤ o.sb.toNat) ∨ (∃ d a, o.instr = .snget d a ∧ 2 ^ 30 ≤ o.sa.toNat) ∨
        (∃ d a b, o.instr = .snfind d a b ∧ o.sb.extractLsb' 8 8 ≠ 0) → (s.polder p).eng.enable = true → o.vals.length = 32 → o.sel = 1 →
      ∃ t y, exec (.engineStep p id) s = .next t ∧ t.op? id = some y ∧ y.served = 1 ∧ y.vals.getD 0 0 = BitVec.ofNat 256 (5 * 2 ^ 60))

/-- 02 R64, 05 R197, R198, 08 R276, R291, R292, 13 R381, R382, R384, R387: what ends a group's waiting. Each event acts where its condition holds: the armed join
completes, partners leave their RCV, a timer fires, a YIELD ends, the collector forms a handler group from its first 32 entries, a
trapped slice with its dispositions goes on, a missing line becomes resident, with what its team's image holds of it. The model's choices in this: where the
partner sets at an RCV differ, the slices whose own partners all wait go, and the others stay (log 73); a line of a team without an image, a service kernel's,
keeps its values (log 14); a fired timer is disarmed, its deadline and mode with it (log 87); the first teams' order at one handler slot (log 46). -/
def Obligations.GroupEventsEndWaits : Prop :=
  ∀ (s : State) (team g : Nat) (x : Group), s.group? ⟨team, g⟩ = some x →
    (∀ lab depths rest, x.ctl.joins = (lab, depths) :: rest →
      (JoinMet x lab → x.slices.length = 8 →
        ∃ t g', exec (.joinComplete team g) s = .next t ∧ OnlyGroup s t ⟨team, g⟩ ∧ t.group? ⟨team, g⟩ = some g' ∧
          g'.ctl = { x.ctl with joins := rest, joinTo := s.dev.nextId } ∧ g'.lines = x.lines ∧
          ∀ k, k < 8 → (x.slice k).live = true →
            (g'.slice k).stack = (x.slice k).stack.drop ((x.slice k).stack.length - depths.getD k 0) ∧
            (g'.slice k).active = ((((x.slice k).stack.take ((x.slice k).stack.length - depths.getD k 0)).getLast?).map
              (fun e => e.full)).getD (x.slice k).active ∧
            (g'.slice k).pc = lab ∧ (g'.slice k).wait = waitAt g' (g'.slice k) .running ∧ (x.slice (g'.slice k).tag).live = true ∧
            ∀ j, j < 8 → (x.slice j).live = true → (g'.slice j).tag = (g'.slice k).tag ∧ (g'.slice k).tag ≤ j) ∧
      (¬ JoinMet x lab → exec (.joinComplete team g) s = .next s)) ∧
    (∀ at_, (∃ k, RcvMet x at_ k) → ∃ t g', exec (.rcvRelease team g at_) s = .next t ∧ OnlyGroup s t ⟨team, g⟩ ∧
      t.group? ⟨team, g⟩ = some g' ∧ regsOf g' = regsOf x ∧
      (∀ k a, RcvMet x a k → Reconverged (x.slice k) (g'.slice k) a ∧ (g'.slice k).partners = [] ∧ (g'.slice k).wait ≠ .atRcv) ∧
      (∀ k, k < x.slices.length → (∀ a, ¬ RcvMet x a k) → (g'.slice k).pc = (x.slice k).pc ∧ (g'.slice k).active = (x.slice k).active ∧
        (g'.slice k).stack = (x.slice k).stack ∧ (g'.slice k).tag = (x.slice k).tag)) ∧
    (∀ at_, (∀ k, ¬ RcvMet x at_ k) → exec (.rcvRelease team g at_) s = .next s) ∧
    ((∃ core, (s.team? team).bind Team.core? = some core) →
      (TimerMet x s.tick → ∃ t g', exec (.timerFire team g) s = .next t ∧ OnlyGroup s t ⟨team, g⟩ ∧ t.group? ⟨team, g⟩ = some g' ∧
        g'.ctl.timer.armed = false ∧ g'.ctl.tfired = true ∧ (g'.ctl.tlate = true ↔ x.ctl.tlate = true ∨ x.ctl.timer.late = true) ∧
        g'.lines = x.lines ∧ g'.scalars = x.scalars ∧
        ∀ k, k < x.slices.length →
          (g'.slice k).pc = (if (x.slice k).wait = .inTimed then (x.slice k).pc + 4 else (x.slice k).pc) ∧ (g'.slice k).wait ≠ .inTimed) ∧
      (¬ TimerMet x s.tick → exec (.timerFire team g) s = .next s)) ∧
    (∀ u, x.ctl.yieldUntil = some u → ∃ t, exec (.yieldExpire team g) s = .next t ∧ OnlyGroup s t ⟨team, g⟩ ∧
      t.group? ⟨team, g⟩ = some { x with ctl := { x.ctl with yieldUntil := if u ≤ s.cycle then none else some u } }) ∧
    (∀ u core, s.team? team = some u → u.core? = some core → u.collects s.cycle = true → u.fr.halted = false → u.ended = false →
      (∀ v ∈ s.residents core, v.handler = none ∧ (v.id = team ∨ v.collects s.cycle = false)) →
      u.fr.tvValid = true → u.inCode u.fr.tvOffset.toNat = true →
      (∀ e rest, sortTraps u.traps = e :: rest → ∃ s1, s.putHandler core u (handlerOf ((e :: rest).take 32) u.fr.tvOffset) = some s1 ∧
        s1.team? team = some u) →
      ∃ t v h, exec (.handlerFormation team) s = .next t ∧ t.team? team = some v ∧ v.handler = some h ∧
        (h.origins ++ v.traps).Perm u.traps ∧ (h.origins ++ v.traps).Pairwise (fun a b => b.before a = false) ∧
        h.origins.length = min 32 u.traps.length ∧ h.role = .handler ∧
        (∀ k, (h.slice k).live = true → (h.slice k).pc = u.fr.tvOffset) ∧
        (∀ l, l < 32 → ((h.slice (l / 4)).active.getLsbD (l % 4) = true ↔ l < h.origins.length)) ∧
        ∀ l e, h.origins[l]? = some e → h.v 0 l = BitVec.ofNat 32 (e.code * 65536 + e.group * 256 + e.lane) ∧ h.v 1 l = e.pc ∧
          h.v 2 l = e.operand ∧ h.v 3 l = (match e.dest with
            | some d => BitVec.ofNat 32 d
            | none => 0xFFFFFFFF)) ∧
    (∀ u m, s.team? team = some u → u.fr.halted = true → exec (.trapRelease team g m) s = .next s) ∧
    (∀ u core m k, s.team? team = some u → u.core? = some core → u.fr.halted = false → k < 8 → k < x.slices.length →
      m.getLsbD k = true → Disposed (x.slice k) → (x.slice k).dispAt < s.cycle →
      (∀ d ∈ (x.slice k).disps, ∀ line v, d.2.2 = some (line, v) → x.resident.getD line.toNat false = true) →
      ∃ t g', exec (.trapRelease team g m) s = .next t ∧ t.group? ⟨team, g⟩ = some g' ∧
        (g'.slice k).trapped = 0 ∧ (g'.slice k).disps = [] ∧ (g'.slice k).wait ≠ .onTrap ∧
        ((∀ d ∈ (x.slice k).disps, d.2.1 = false) → (g'.slice k).active = (x.slice k).active ∧ (g'.slice k).pc = (x.slice k).pc ∧
          (g'.slice k).live = true) ∧
        (∀ l kill line v, m = (1#8) <<< k → (x.slice k).disps = [(l, kill, some (line, v))] → l < 4 → line.toNat < x.lines.length →
          lane g' line.toNat (4 * k + l) = v)) ∧
    (∀ line core u, s.team? team = some u → u.core? = some core → line < x.lines.length → x.resident.length = x.lines.length →
      x.resident.getD line false = false → (s.linesOn core).length < 256 * roleBanks (s.core core).regs.brole 1 →
      (u.shape.ctx = none →
        ∃ t g', exec (.lineFill team g line) s = .next t ∧ t.group? ⟨team, g⟩ = some g' ∧ g'.resident.getD line false = true ∧
          g'.lines = x.lines ∧ ∀ k, k ≠ line → g'.resident.getD k false = x.resident.getD k false) ∧
      (u.shape.ctx ≠ none →
        (s.getImage core u (u.shape.lineOff g line) 2 = none → exec (.lineFill team g line) s = .next s) ∧
        ∀ s1 bs, s.getImage core u (u.shape.lineOff g line) 2 = some (s1, bs) → s1.group? ⟨team, g⟩ = some x →
          ∃ t g', exec (.lineFill team g line) s = .next t ∧ t.group? ⟨team, g⟩ = some g' ∧ g'.resident.getD line false = true ∧
            g'.lines = x.lines.set line (bytesWords bs) ∧ ∀ k, k ≠ line → g'.resident.getD k false = x.resident.getD k false))

/-- 07 R247, R252, 08 R282 to R286: the copy unit accepts or rejects an issued job, copies a run of one row's bytes, of whole elements where it writes
an operand buffer (log 75), while every earlier overlapping job and access is done, completes a job whose bytes have all landed, and stops one that meets a refused page, or a page still
unmapped after service (log 62); a rejected or stopped job
records its code in its producer. -/
def Obligations.CopyUnitEvents : Prop :=
  ∀ (s : State) (team core : Nat) (u : Team) (j : Job), s.team? team = some u → u.core? = some core →
    u.jobs.find? (fun x => x.id == j.id) = some j →
    (j.state = .issued → j.accepted u = true → ∃ t v, exec (.jobAccept team j.id) s = .next t ∧ t.team? team = some v ∧
      v.jobs.find? (fun x => x.id == j.id) = some { j with state := .running } ∧ { t with teams := [] } = { s with teams := [] }) ∧
    (∀ g, j.state = .issued → j.accepted u = false → s.group? ⟨team, 0⟩ = some g →
      ∃ t v g', exec (.jobAccept team j.id) s = .next t ∧ t.team? team = some v ∧ t.group? ⟨team, 0⟩ = some g' ∧
        g'.flt.pending = g.flt.pending ++ [(0x40, j.cardVa)] ∧ (∀ x ∈ v.jobs, x.id = j.id → x.state = .done)) ∧
    (∀ row lo n s1 v s2 y, j.mayRun s u = true → 1 ≤ n → lo % j.grain u = 0 → n % j.grain u = 0 → row < j.rows → lo + n ≤ j.rowLen →
      j.rowMask row &&& (2 ^ n - 1) * 2 ^ lo = 0 → j.readSource s u core row lo n = (s1, .ok v) →
      j.writeDest s1 u core row lo n v = (s2, .ok y) →
      ∃ t f, exec (.jobLand team j.id row lo n) s = .next t ∧
        t = (match j.post with
          | some b => (s2.modTeam team (fun w => { w with jobs := w.jobs.map f })).barEvent team b (.land n false)
          | none => s2.modTeam team (fun w => { w with jobs := w.jobs.map f })).sweep ∧
        (∀ x, x.id ≠ j.id → f x = x) ∧
        (∀ x, x.id = j.id → (f x).rowMask row = x.rowMask row ||| (2 ^ n - 1) * 2 ^ lo ∧ (∀ r, r ≠ row → (f x).rowMask r = x.rowMask r) ∧
          (f x).serviced = x.serviced.filter (fun g => !(j.pagesOf row lo n).contains g) ∧ { f x with landed := [], serviced := [] } = { x with landed := [], serviced := [] })) ∧
    (j.state = .running → j.landedCount = j.declared → ∃ t v, exec (.jobComplete team j.id) s = .next t ∧ t.team? team = some v ∧
      (∀ x ∈ v.jobs, x.id = j.id → x.state = .done) ∧ { t with teams := [] } = { s with teams := [] }) ∧
    (j.state = .running → j.landedCount ≠ j.declared → exec (.jobComplete team j.id) s = .next s) ∧
    (∀ r lo s1 va, j.mayRun s u = true → r < j.rows → lo < j.rowLen → (∀ k, k < r → j.rowMask k = 2 ^ j.rowLen - 1) →
      (∀ b, b < lo → j.rowMask r / 2 ^ b % 2 = 1) → j.rowMask r / 2 ^ lo % 2 = 0 →
      lo % j.grain u = 0 → lo + j.grain u ≤ j.rowLen → j.rowMask r &&& (2 ^ j.grain u - 1) * 2 ^ lo = 0 →
      (j.readSource s u core r lo (j.grain u) = (s1, .deny va) ∨
        ∃ k, k ≤ 2 ∧ va / 65536 ∈ j.serviced ∧ j.readSource s u core r lo (j.grain u) = (s1, .wait k va)) →
      ∃ t, exec (.jobStop team j.id) s = .next t ∧ t = (s1.failJob team j (j.declared - j.landedCount) 0x41).sweep)

/-- 09 R306, R310, R311, R314 to R318, R320, R329, 11 R352, R353: the spirals' events. A fill gives a copy every byte it lacks; a write-back reaches its home with its bytes
and no other; drains leave a quarter nothing dirty; a flush, a back-invalidation and a snoop leave no copy behind; the host reads and
writes what is exposed to it, and nothing else. That the event SPFLUSH is a whole flush, which leaves none running, and does nothing while a written one
runs, is the model's choice (log 28): R329 gives a flush that lasts while BUSY = 1. -/
def Obligations.SpiralEvents : Prop :=
  ∀ (s : State), memoryWf s → NoFence s → s.quarters.length = 4 →
    (∀ q tile c, q < 4 → (s.quarter q).copy? tile = some c → c.filling = true → c.queue = [] → s.fillHeld q tile = false → s.wbq = [] → s.home.errors = [] →
      ∃ t c', exec (.fillLands q tile) s = .next t ∧ (t.quarter q).copy? tile = some c' ∧ c'.filling = false ∧ c'.dirty = c.dirty ∧
        ∀ b, b < 4096 → c'.valid.getLsbD b = true ∧ c'.read b 1 =
          if c.valid.getLsbD b = true then c.read b 1 else (s.home.readAs s.keys c.keyslot (4096 * tile + b)).toNat) ∧
    (∀ q tile c m, q < 4 → (s.quarter q).copy? tile = some c → c.motion = some m →
      ∃ t, exec (.motionEnd q tile) s = .next t ∧
        (t.quarter q).copy? tile = some { c with motion := if m ≤ s.cycle then none else some m }) ∧
    (∀ n w h, s.wbq[n]? = some w → (∀ x ∈ s.wbq.take n, x.tile = w.tile → x.quarter ≠ w.quarter) → w.keyslot = none →
      (∀ k ∈ s.home.keys, k.1 / 64 ≠ w.tile) → s.reach w.quarter (4096 * w.tile) w.tier = .home h →
      ∃ t, exec (.writeBackAtHome n) s = .next t ∧ t.wbq = s.wbq.eraseIdx n ∧ memoryWf t ∧
        ∀ a, t.home.byte a = if a / 4096 = w.tile ∧ w.mask.getLsbD (a % 4096) = true then w.data.extractLsb' (8 * (a % 4096)) 8
          else s.home.byte a) ∧
    (∀ home q, home < 4 → q < 4 → ((s.quarter q).copies.map (fun c => c.tile)).Nodup →
      (∀ c ∈ (s.quarter q).copies, s.wbLost q c = false) → (s.quarter home).masks.getLsbD q = true → s.passes home q = true →
      (∃ t, exec (.drainRequest home q) s = .next t ∧ (∀ c ∈ (t.quarter q).copies, c.dirty = 0) ∧
        (t.quarter home).masks.getLsbD q = false ∧ ∀ k, k ≠ q → (t.quarter home).masks.getLsbD k = (s.quarter home).masks.getLsbD k) ∧
      ((s.quarter home).maskAge.getD q 0 + 65536 ≤ s.cycle →
        ∃ t, exec (.maskDrain home q) s = .next t ∧ (∀ c ∈ (t.quarter q).copies, c.dirty = 0) ∧
          (t.quarter home).masks.getLsbD q = false) ∧
      (s.cycle < (s.quarter home).maskAge.getD q 0 + 65536 → exec (.maskDrain home q) s = .next s)) ∧
    (∀ q v, (s.quarter q).flush.isSome = true → exec (.spflush q v) s = .next s) ∧
    (∀ q v, q < 4 → (s.quarter q).flush = none → ∃ t, exec (.spflush q v) s = .next t ∧
      (∀ c ∈ (t.quarter q).chain, c.owner ≠ some (v.extractLsb' 0 6).toNat) ∧ (t.quarter q).flushCtx = v.extractLsb' 0 6 ∧
      (v.getLsbD 7 = true → ∀ e ∈ (t.quarter q).bypass, e.ctx ≠ (v.extractLsb' 0 6).toNat) ∧ (t.quarter q).flush = none) ∧
    (∀ q, q < 4 → ((s.quarter q).frontDone = true → exec (.admission q) s = .next s) ∧
      ((s.quarter q).frontDone = false → ∃ t, exec (.admission q) s = .next t ∧ (t.quarter q).frontDone = true ∧
        ∀ k, k / 64 ≠ q → (t.core k).reqs = (s.core k).reqs)) ∧
    (∀ line, ∃ t, exec (.backInvalidation line) s = .next t ∧ Gone t (line / 64)) ∧
    (∀ line, ∃ t, exec (.hostSnoop line) s = .next t ∧ Gone t (line / 64)) ∧
    (∀ pa n, 1 ≤ n → pa % 4096 + n ≤ 4096 →
      (∀ h, s.hostPlace pa = .exposed h → ∃ t, exec (.hostRead pa n) s = .next t ∧
        ∀ q c, q < 4 → s.passes h q = true → (t.quarter q).copy? (pa / 4096) = some c → s.wbLost q c = false →
          ∀ b, pa % 4096 ≤ b → b < pa % 4096 + n → c.dirty.getLsbD b = false) ∧
      (∀ p, s.hostPlace pa = .cut p → exec (.hostRead pa n) s = .next (s.countDrop p)) ∧
      ((∀ q, q < 4 → s.exposed q pa = false) → exec (.hostRead pa n) s = .next s)) ∧
    (∀ pa n v, 1 ≤ n → pa % 4096 + n ≤ 4096 →
      (((∃ h, s.hostPlace pa = .exposed h) ∨ s.hostPlace pa = .own ∧ Gone s (pa / 4096)) → s.wbq = [] → (∀ k ∈ s.home.keys, k.1 / 64 ≠ pa / 4096) →
        ∃ t, exec (.hostWrite pa n v) s = .next t ∧
          ∀ a, t.home.byte a = if pa ≤ a ∧ a < pa + n then BitVec.ofNat 8 (byteOf v (a - pa)) else s.home.byte a) ∧
      (((∃ p, s.hostPlace pa = .cut p) ∨ s.hostPlace pa = .hidden) →
        ∃ t, exec (.hostWrite pa n v) s = .next t ∧ t.home = s.home ∧ t.quarters = s.quarters))

/-- 16 R436, 19 R494, R495: the events of a link change that link alone, and only where it is up; a peer's write to exposed memory writes its
bytes at their home and no other byte of home memory, and over a link that is down nothing happens. A link retrains after 8 tries of one flit; that one REPLAY
is the replay of one flit is the model's reading (log 45), and the peer request's kind, address and data as arguments of the event are its choice (log 43). -/
def Obligations.LinkEventsAndPeerRequests : Prop :=
  ∀ (s : State) (n : Nat) (l : Link), s.links[n]? = some l →
    (l.up = false → exec (.hold n) s = .next s ∧ exec (.replay n) s = .next s ∧ exec (.linkRetrain n) s = .next s ∧
      ∀ q good, exec (.flitReceive n q good) s = .next s) ∧
    (l.up = true →
      exec (.hold n) s = .next { s with links := s.links.set n { l with held := true, holds := satAdd l.holds 1 } } ∧
      (l.tries < 8 → exec (.replay n) s = .next { s with links := s.links.set n { l with replays := satAdd l.replays 1, tries := l.tries + 1 } } ∧
        exec (.linkRetrain n) s = .next s) ∧
      (8 ≤ l.tries → exec (.replay n) s = .next s ∧
        exec (.linkRetrain n) s = .next { s with links := s.links.set n { l with up := false, retrains := satAdd l.retrains 1, tries := 0 } }) ∧
      (∀ q, l.rxSeq = BitVec.ofNat 12 q →
        exec (.flitReceive n q true) s = .next { s with links := s.links.set n { l with rxSeq := l.rxSeq + 1, tries := 0 } }) ∧
      ∀ q good, (good = false ∨ l.rxSeq ≠ BitVec.ofNat 12 q) → exec (.flitReceive n q good) s = .next s) ∧
    exec (.go n) s = .next { s with links := s.links.set n { l with held := false } } ∧
    (s.feature (s.polderOf (n / 4)) 16 = true →
      exec (.linkTrained n) s = .next { s with links := s.links.set n { l with up := true, held := false, tries := 0 } }) ∧
    (s.feature (s.polderOf (n / 4)) 16 = false → exec (.linkTrained n) s = .next s) ∧
    (∀ kind asid va m v, s.linkUp n = false → exec (.peerRequest n kind asid va m v) s = .next s) ∧
    (∀ asid va m v x s1 w0 w1 lo pa h, s.linkUp n = true → NoFence s →
      s.ctxs.findIdx? (fun c => c.live && c.peerExp && c.asid.toNat == asid) = some x → s.quarterLeaf (n / 4) x va = (s1, .leaf w0 w1 lo) →
      leafTier w0 = 0 → va % 4096 + m ≤ 4096 → w0.getLsbD 10 = false → w0.getLsbD 11 = false → (permOf w0).allows 2 false = true →
      pa = (w0.extractLsb' 12 40).toNat * 4096 + va % 2 ^ lo → pa % 4096 + m ≤ 4096 → s1.reach (n / 4) pa 0 = .home h →
      s1.homeReady (n / 4) pa 0 = true →
      s1.keyFor (n / 4) (some x) (w0, w1) = none → s1.wbq = [] → (∀ k ∈ s1.home.keys, k.1 / 64 ≠ pa / 4096) →
      ∃ t, exec (.peerRequest n 2 asid va m v) s = .next t ∧
        ∀ a, t.home.byte a = if pa ≤ a ∧ a < pa + m then BitVec.ofNat 8 (byteOf v (a - pa)) else s1.home.byte a)

/-- 19 R491, R492, 09 R320: a region's commands act, at once (log 28), in the states 19 R492 gives them, and answer BADSTATE, PORTDOWN or OVERLAP otherwise; a fence
and a discard leave no copy of the region; the loss of a port's link makes its online and degraded regions LOST. -/
def Obligations.RegionCommandsAndLoss : Prop :=
  ∀ (s : State) (n : Nat) (r : Region), s.regions[n]? = some r → s.quarters.length = 4 →
    (r.state ≠ .fenced → exec (.online n) s = .next (withStatus s n r 1)) ∧
    (r.state = .fenced → s.portUp r.port.toNat = false → exec (.online n) s = .next (withStatus s n r 2)) ∧
    (r.state = .fenced → s.portUp r.port.toNat = true → s.regionOverlaps n = true → exec (.online n) s = .next (withStatus s n r 3)) ∧
    (r.state = .fenced → s.portUp r.port.toNat = true → s.regionOverlaps n = false →
      exec (.online n) s = .next (withStatus s n { r with state := .online } 0)) ∧
    ((r.state = .lost ∨ r.state = .fenced) → exec (.regionFence n) s = .next (withStatus s n r 1)) ∧
    ((r.state = .online ∨ r.state = .degraded) → NoFence s → ∃ t, exec (.regionFence n) s = .next t ∧ (t.region n).state = .fenced ∧
      (t.region n).status = 0 ∧ ∀ q c, q < 4 → c ∈ (t.quarter q).copies → r.hasTile c.tile = false) ∧
    (r.state ≠ .lost → exec (.rehome n) s = .next (withStatus s n r 1) ∧ exec (.discard n) s = .next (withStatus s n r 1)) ∧
    (r.state = .lost → s.portUp r.port.toNat = false → exec (.rehome n) s = .next (withStatus s n r 2)) ∧
    (r.state = .lost → s.portUp r.port.toNat = true → ∃ t, exec (.rehome n) s = .next t ∧ (t.region n).state = .online ∧
      (t.region n).status = 0 ∧ ∀ q, q < 4 → ∀ e ∈ (t.quarter q).bay, strandedIn r e = false) ∧
    (r.state = .lost → ∃ t, exec (.discard n) s = .next t ∧ (t.region n).state = .fenced ∧ (t.region n).status = 0 ∧
      (t.region n).lostDirty = satAdd r.lostDirty (s.strandedOf n) ∧ ∀ q, q < 4 → ∀ e ∈ (t.quarter q).bay, strandedIn r e = false) ∧
    exec (.degradedService n) s =
      .next { s with regions := s.regions.set n { r with state := if r.state = .online then .degraded else r.state } } ∧
    exec (.serviceRestored n) s =
      .next { s with regions := s.regions.set n { r with state := if r.state = .degraded then .online else r.state } } ∧
    (∀ p, p < s.parts.length → ∃ t, exec (.poolLinkUp p) s = .next t ∧ (t.part p).poolUp = true ∧
      (∀ k, k ≠ p → t.part k = s.part k) ∧ { t with parts := [] } = { s with parts := [] }) ∧
    (∀ e, NoFence s → r.size ≠ 0 → (∀ x, e = some x → r.expander.toNat = x) → ∃ t, exec (.poolLinkLost r.port.toNat e) s = .next t ∧
      (t.region n).state = (if r.state = .online ∨ r.state = .degraded then .lost else r.state) ∧
      (e = none → r.port.toNat < s.parts.length → (t.part r.port.toNat).poolUp = false))

/-- 11 R354, 19 R476, R477, R483 to R485, R489, 20 R499, 21 R510: the sluice's commands by its state, CLOSE.refuse acting as its cycle ends; CLOSE.drain
keeps STATUS, which is the model's reading (log 37); a PSHAPE write that passes its checks gives its quarters their new mask, and one that fails only says
why; a bias flip to the host, which needs feature bit 17 (21 R510), empties its page from the spirals, and its bit turns once no access that was in flight
when it began is left, which is the model's choice (log 28); a flip that cannot be only says why not, and none starts while one runs. An absent function
takes none of them. -/
def Obligations.SluicesShapesAndBias : Prop :=
  ∀ (s : State) (p : Nat) (x : Polder), s.polders[p]? = some x →
    (s.present p = true → exec (.closeRefuse p) s = .next { s with cmds := queueCmd (256, 0x302, 4 + p, 1) s.cmds } ∧
      s.runCmd (256, 0x302, 4 + p, 1) = s.sluiceOp p 1) ∧
    (x.sluice = 0 → s.busyQueue p = none → s.sluiceOp p 1 = sluiced s p x 2 0) ∧
    (∀ n, x.sluice = 0 → s.busyQueue p = some n → s.sluiceOp p 1 = sluiced s p { x with busyq := BitVec.ofNat 7 n } 0 1) ∧
    (x.sluice ≠ 0 → s.sluiceOp p 1 = sluiced s p x x.sluice 2) ∧
    (∀ op, op ≠ 1 → op ≠ 2 → op ≠ 3 → s.sluiceOp p op = sluiced s p x x.sluice 2) ∧
    (s.present p = true → x.sluice ≠ 0 → exec (.closeDrain p) s = .next (sluiced s p x x.sluice 2)) ∧
    (s.present p = true → x.sluice = 0 → exec (.closeDrain p) s = .next (sluiced s p x 1 x.sluiceStatus) ∧
      exec (.openSluice p) s = .next (sluiced s p x 0 2)) ∧
    (s.present p = true → (x.sluice = 1 ∨ x.sluice = 2) → exec (.openSluice p) s = .next (sluiced s p x 0 0)) ∧
    (s.present p = false → exec (.closeRefuse p) s = .next s ∧ exec (.closeDrain p) s = .next s ∧ exec (.openSluice p) s = .next s ∧
      ∀ v, exec (.biasFlip p v) s = .next s) ∧
    (x.sluice = 1 → x.sluiceIdle = true → s.busyQueue p = none → exec (.sluiceClosed p) s = .next (sluiced s p x 2 0)) ∧
    ((x.sluice ≠ 1 ∨ x.sluiceIdle = false ∨ s.busyQueue p ≠ none) → exec (.sluiceClosed p) s = .next s) ∧
    (∀ q v, q < s.parts.length → s.parts.length = 4 →
      (s.shapeWhy q (v.extractLsb' 4 4) ≠ 0 → ∃ t, exec (.pshapeWrite q v) s = .next t ∧ (t.part q).mask = (s.part q).mask ∧
        (t.part q).rej = true ∧ (t.part q).why = BitVec.ofNat 3 (s.shapeWhy q (v.extractLsb' 4 4)) ∧ (∀ k, k ≠ q → t.part k = s.part k) ∧
        { t with parts := [] } = { s with parts := [] }) ∧
      (s.shapeWhy q (v.extractLsb' 4 4) = 0 → ∃ t, exec (.pshapeWrite q v) s = .next t ∧ (t.part q).rej = false ∧ (t.part q).why = 0 ∧
        ∀ k, k < 4 → (t.part k).mask =
          if (v.extractLsb' 4 4).getLsbD k = true then v.extractLsb' 4 4
          else if (s.part k).mask &&& v.extractLsb' 4 4 ≠ 0 then (s.part k).mask &&& ~~~(v.extractLsb' 4 4) else (s.part k).mask) ∧
      (s.shapeWhy q (v.extractLsb' 4 4) = 1 ↔ ShapeIllegal s q (v.extractLsb' 4 4)) ∧
      (s.shapeWhy q (v.extractLsb' 4 4) = 2 ↔ ¬ ShapeIllegal s q (v.extractLsb' 4 4) ∧ ShapeOpen s (v.extractLsb' 4 4))) ∧
    (∀ v, x.biasOps.isSome = true → exec (.biasFlip p v) s = .next s) ∧
    (∀ v, s.present p = true → x.biasOps = none → (s.pageExposed p (v.extractLsb' 16 36).toNat = false ∨ (v.getLsbD 62 = true ∧ s.feature p 17 = false)) →
      exec (.biasFlip p v) s = .next { s with polders := s.polders.set p (biasDone x v 1) }) ∧
    (∀ v, s.present p = true → x.biasOps = none → s.pageExposed p (v.extractLsb' 16 36).toNat = true → (v.getLsbD 62 = true → s.feature p 17 = true) →
      (s.home.hostBias.contains (v.extractLsb' 16 36).toNat = v.getLsbD 62 →
        exec (.biasFlip p v) s = .next { s with polders := s.polders.set p (biasDone x v 2) }) ∧
      (s.home.hostBias.contains (v.extractLsb' 16 36).toNat ≠ v.getLsbD 62 → v.getLsbD 62 = false →
        s.opsOnPage (v.extractLsb' 16 36).toNat ≠ [] →
        exec (.biasFlip p v) s = .next (s.modPolder p (fun _ =>
          { biasDone x v 0 with biasOps := some (s.opsOnPage (v.extractLsb' 16 36).toNat) }))) ∧
      (s.home.hostBias.contains (v.extractLsb' 16 36).toNat ≠ v.getLsbD 62 → NoFence s → s.ops = [] →
        ∃ t, exec (.biasFlip p v) s = .next t ∧ t.polders[p]? = some (biasDone x v 0) ∧
          (∀ k, k ∈ t.home.hostBias ↔ if v.getLsbD 62 = true then k = (v.extractLsb' 16 36).toNat ∨ k ∈ s.home.hostBias
            else k ≠ (v.extractLsb' 16 36).toNat ∧ k ∈ s.home.hostBias) ∧
          (v.getLsbD 62 = true → ∀ i, i < 16 → Gone t (16 * (v.extractLsb' 16 36).toNat + i))))

/-- 15 R400, R401, R403 to R405, R407, R408, R419, 17 R455, 19 R477: the registers of a queue and a token's count take what is written, but in an absent
function nothing; a packet at the head of a queue that
offers it is passed, with a launch for each but NO_OPERATION, refused at the first check it fails; a lookup gives its launch the node it
finds; a complete launch signals and leaves; a record that is taken joins its node's queue. -/
def Obligations.QueuesPacketsAndLaunches : Prop :=
  ∀ (s : State) (p q : Nat) (x : Polder) (k : Queue), s.polders[p]? = some x → x.queues[q]? = some k →
    (∀ v, s.present p = true →
      exec (.qtailWrite p q v) s = .next (withQueue s p x q { k with tail := v.extractLsb' 0 32, subs := k.subs ++ [(v.extractLsb' 0 32, s.cycle)] })) ∧
    (s.present p = false → ∀ n v, exec (.qtailWrite p n v) s = .next s ∧ exec (.qcfgWrite p n v) s = .next s ∧ exec (.tokenWrite p n v) s = .next s) ∧
    (∀ v, s.present p = true → exec (.qcfgWrite p q v) s = .next (withQueue s p x q
      (if k.enable = true then { k with enable := v.getLsbD 31 }
       else { k with enable := v.getLsbD 31, logSize := v.extractLsb' 24 4, ctx := v.extractLsb' 8 6, prio := v.extractLsb' 0 3 }))) ∧
    (∀ n v, n < 4096 → s.present p = true → ∃ t, exec (.tokenWrite p n v) s = .next t ∧
      t.token p n = v.extractLsb' 0 32 + BitVec.ofNat 32 (signalled s p n) ∧ ∀ m, m ≠ n → t.token p m = s.token p m) ∧
    (s.offers p q = false → exec (.noOperation p q) s = .next s ∧ exec (.kernelLaunch p q) s = .next s ∧ exec (.signalOnly p q) s = .next s) ∧
    (∀ s1 v, s.offers p q = true → s.packetAt p q = (s1, v) →
      (natBytes v 0 1 = 0 → ∃ t, exec (.noOperation p q) s = .next t ∧ (t.queue p q).head = k.head + 1 ∧ t.launches = s1.launches) ∧
      (natBytes v 0 1 = 2 → ∃ t l, exec (.signalOnly p q) s = .next t ∧ (t.queue p q).head = k.head + 1 ∧
        t.launches = s1.launches ++ [l] ∧ LaunchOf l p q v none ∧ l.kind = 2 ∧ l.total = 0) ∧
      (2 < natBytes v 0 1 → ∃ t l, exec (.kernelLaunch p q) s = .next t ∧ (t.queue p q).head = k.head + 1 ∧
        t.launches = s1.launches ++ [l] ∧ LaunchOf l p q v (some (1, 0))) ∧
      (natBytes v 0 1 = 1 → packetOk v = false → ∃ t l, exec (.kernelLaunch p q) s = .next t ∧ (t.queue p q).head = k.head + 1 ∧
        t.launches = s1.launches ++ [l] ∧ LaunchOf l p q v (some (2, 0))) ∧
      (natBytes v 0 1 = 1 → packetOk v = true → natBytes v 5 1 + natBytes v 4 1 ≤ natBytes v 3 1 →
        natBytes v 8 4 * natBytes v 12 4 * natBytes v 16 4 % natBytes v 6 1 = 0 → linesOk v = true →
        s1.coreCould p (natBytes v 20 2) (natBytes v 4 1) = true → natBit (natBytes v 1 1) 2 = false → natBit (natBytes v 1 1) 5 = false →
        ∃ t l, exec (.kernelLaunch p q) s = .next t ∧ (t.queue p q).head = k.head + 1 ∧ t.launches = s1.launches ++ [l] ∧
          LaunchOf l p q v none ∧ l.kind = 1 ∧ l.total = natBytes v 8 4 * natBytes v 12 4 * natBytes v 16 4)) ∧
    (∀ n l s1 node m, s.launch? n = some l → l.id = n → l.looked = false → s.mayStart l = true → s.waitsFault (.lookup n) = false →
      (s.polder l.polder).eng.enable = true → (s.polder l.polder).snReady = true → s.engUnread l.polder = false →
      State.lookup l.polder l.vals.pfxTree.toNat (s.tree l.polder l.vals.pfxTree.toNat) (64 * l.polder) l
        ((s.tree l.polder l.vals.pfxTree.toNat).ncount + 1) 0 (s.tree l.polder l.vals.pfxTree.toNat).start (s.engStart l.polder) = .found s1 node m →
      s1.launch? n = some l → EngMet.notReady ∉ ((if node ≠ 0 then s1.holdNode l.polder node else s1).polder l.polder).eng.met →
      ∃ t l', exec (.prefixLookup n) s = .next t ∧ t.launch? n = some l' ∧ l'.looked = true ∧ l'.state = .running ∧
        (l'.vals.pfxHit = true ↔ node ≠ 0) ∧ l'.vals.pfxNode = BitVec.ofNat 22 node ∧ l'.hold = (if node = 0 then none else some node) ∧
        (node ≠ 0 → l'.vals.pfxPos = BitVec.ofNat 64 (m * (s.tree l.polder l.vals.pfxTree.toNat).g) ∧ l'.vals.pfxDepth = BitVec.ofNat 24 m)) ∧
    (∀ n l s1 y, s.launch? n = some l → l.id = n → l.torn = false → l.state = .complete → l.haltCode = none →
      ((s.polderQuarters l.polder).foldl (fun a b => a.release b 9 (a.polderQuarters b)) s).vWrite (64 * l.polder) l.shape.ctx false .bypassing
        l.report.toNat 32 (reportBytes l (l.status false).1 (l.status false).2 s.tick) = (s1, .ok y) →
      ∃ t, exec (.launchComplete n) s = .next t ∧ (∀ z ∈ t.launches, z.id ≠ n) ∧ ∀ z ∈ t.teams, z.launch ≠ some n) ∧
    (∀ n l, s.launch? n = some l → l.torn = false → l.state ≠ .complete → s.completes l false = false → s.completes l true = false →
      exec (.launchComplete n) s = .next s) ∧
    (∀ e u l d, s.emits = [e] → s.team? e.team = some u → s.teamPolder u = p → u.launch.bind s.launch? = some l → l.torn = false →
      l.nodes.filter (fun z => z.num == e.node) = [d] → s.stored p < Config.pendingRecords → (s.polder p).dispatched.1 ≠ s.cycle →
      ∃ t l' d', exec (.dispatchRecord p) s = .next t ∧ t.emits = [] ∧ t.launch? l.id = some l' ∧ d' ∈ l'.nodes ∧ d'.num = e.node ∧
        ∃ r, d'.queue = d.queue ++ [r] ∧ r.bytes = e.bytes ∧ r.len = e.len)

/-- 07 R239, R241, 15 R409 to R411, R416, R420, R421, 20 R497: the distributor places the first candidate that fits in a free slot of the core it chooses; a candidate
skipped long enough is reserved; a core without progress lets its victim leave; a node's records make a team; a service kernel is placed
where R497 admits it. -/
def Obligations.TeamsArePlaced : Prop :=
  ∀ (s : State),
    (∀ p q u rest c s1, s.polderOf q = p → (s.supply p).placedNow q = false → (s.supply p).candidates p = u :: rest →
      (s.supply p).choose p u = some c → quarterOf c = q → (s.supply p).clusterOf u = [u] → 1 ≤ u.shape.cluster → u.rank = 0 → u.records = [] →
      (s.supply p).waitsFault (.place u.id) = false → ((s.supply p).core c).regs.asleep = false →
      State.imageMissing c u (List.range (u.shape.imageBytes / 65536)) (s.supply p) = (s1, none) → s1.teams = (s.supply p).teams →
      ∃ t v k, exec (.placeTeam p q) s = .next t ∧ t.team? u.id = some v ∧ v.place = .resident c k ∧ k < 31 ∧
        (∀ w ∈ (s.supply p).residents c, w.slot? ≠ some k) ∧ v.placedAt = s.cycle) ∧
    (∀ p q, s.polderOf q ≠ p → exec (.placeTeam p q) s = .next s) ∧
    (∀ n u, s.team? n = some u →
      (u.skipped < 65536 → exec (.candidateReserved n) s = .next s) ∧
      (u.reserved = false → 65536 ≤ u.skipped → (∃ z ∈ s.candidates (s.teamPolder u), z.id = n) →
        (∀ z ∈ s.candidates (s.teamPolder u), z.reserved = false) →
        ∃ t v, exec (.candidateReserved n) s = .next t ∧ t.team? n = some v ∧ v = { u with reserved := true })) ∧
    (∀ c, s.swapping c = none → (s.core c).clk.swapFor = none → (s.core c).clk.progress < 4096 → exec (.forwardProgressSwap c) s = .next s) ∧
    (∀ c s1 v, s.swapping c = none → (s.core c).clk.swapFor = none → (s.core c).clk.progress = 4096 → c < s.cores.length → s1 = s.supply (s.polderOf (quarterOf c)) →
      s1.waitsFor (s.polderOf (quarterOf c)) c = true → s1.victim c = some v → s1.clusterOf v = [v] → s1.team? v.id = some v →
      (s1.incoming (s.polderOf (quarterOf c)) c [v.id]).isSome = true →
      ∃ t w, exec (.forwardProgressSwap c) s = .next t ∧ t.team? v.id = some w ∧ w.leaving = true ∧ (t.core c).clk.progress = 0) ∧
    (∀ n m l d, s.launch? n = some l → l.id = n → l.nodes.filter (fun z => z.num == m) = [d] →
      (s.nodeDue l d = 0 → exec (.nodeTeamCreate n m) s = .next s) ∧
      (s.nodeLate l d = false → exec (.nodeTimeout n m) s = .next s) ∧
      (∀ i k, ((i = .nodeTeamCreate n m ∧ k = s.nodeDue l d ∧ k ≠ 0) ∨ (i = .nodeTimeout n m ∧ s.nodeLate l d = true ∧ k = d.queue.length)) →
        (∃ j, j < 256 ∧ j ∉ d.slotsUsed) →
        ∃ t v l' d' slot, exec i s = .next t ∧ t.teams = s.teams ++ [v] ∧ v.launch = some n ∧ v.node = some m ∧ v.place = .fresh ∧
          v.records = d.queue.take (min 1024 k) ∧ v.imageSlot = slot ∧ slot < 256 ∧ slot ∉ d.slotsUsed ∧ (∀ j, j < slot → j ∈ d.slotsUsed) ∧
          t.launch? n = some l' ∧ d' ∈ l'.nodes ∧ d'.num = m ∧ d'.queue = d.queue.drop (d.queue.take (min 1024 k)).length ∧
          d'.created = d.created + 1 ∧ d'.slotsUsed = slot :: d.slotsUsed)) ∧
    (∀ core code len kd kc pr mx ve bu sc h v, h = serviceShape code len pr mx ve bu sc → v = serviceVals kd kc →
      (s.admitsService core h v = false → exec (.serviceKernel core code len kd kc pr mx ve bu sc) s = .next s) ∧
      (s.admitsService core h v = true → (∀ z ∈ s.teams, z.id ≠ s.dev.nextId) →
        ∃ t u k, exec (.serviceKernel core code len kd kc pr mx ve bu sc) s = .next t ∧ t.team? s.dev.nextId = some u ∧
          u.place = .resident core k ∧ u.priv = 2 ∧ u.shape.ctx = none ∧ u.launch = none ∧ u.shape.code = BitVec.ofNat 56 code ∧
          ∀ g ∈ u.groups, ∀ j, (g.slice j).live = true → (g.slice j).pc = 0))

/-- 16 R424 to R426, R444, 21 R512: a command of a context that is not live or lies in another polder only says so, and none acts while another runs;
CREATE brings its descriptor's context to life, and is INUSE exactly where the context is live or owns a tile, whatever else fails, as QUOTA makes no test of
its descriptor: both are the model's reading, as R426 gives no order of the tests (log 49); QUOTA and SYNC move its counters; these three stay BUSY until the
table's memory is ready; PREEMPT, RESUME, TEARDOWN and SHOOTALL end with status 0 once what they wait for is done. -/
def Obligations.ContextCommandsComplete : Prop :=
  ∀ (s : State) (p x : Nat), x < 64 → s.present p = true → p < s.polders.length → s.ctxs.length = 64 →
    (∀ i op, ContextCommand p x i op →
      ((s.polder p).cmdBusy = true → ((s.polder p).cmdOp.toNat ≠ op ∨ (s.polder p).cmdCtx.toNat ≠ x) → exec i s = .next s) ∧
      ((s.polder p).cmdBusy = false → op ≠ 1 → (s.ctx x).live = false → ∃ t, exec i s = .next t ∧ Ended t p op x 3 ∧ t.ctxs = s.ctxs) ∧
      ((s.polder p).cmdBusy = false → op ≠ 1 → (s.ctx x).live = true → (s.ctx x).polder ≠ p →
        ∃ t, exec i s = .next t ∧ Ended t p op x 4 ∧ t.ctxs = s.ctxs)) ∧
    ((s.polder p).cmdBusy = false → s.tableReady p x = false →
      exec (.create p x) s = .next (s.cmdStart p 1 x) ∧
      ((s.ctx x).live = true → (s.ctx x).polder = p →
        exec (.quota p x) s = .next (s.cmdStart p 2 x) ∧ exec (.sync p x) s = .next (s.cmdStart p 3 x))) ∧
    ((s.polder p).cmdBusy = false →
      (∀ s1 v, s.tableReady p x = true → s.ctxEntry p x = (s1, v) → s1.ctxs = s.ctxs →
        (s.createWhy x v ≠ 0 → ∃ t, exec (.create p x) s = .next t ∧ Ended t p 1 x (s.createWhy x v) ∧ t.ctxs = s.ctxs) ∧
        ((s.ctx x).live = true ∨ s.inSpiral x = true ↔ s.createWhy x v = 2) ∧
        (s.createWhy x v = 0 → ∃ t, exec (.create p x) s = .next t ∧ Ended t p 1 x 0 ∧ (t.ctx x).live = true ∧ (t.ctx x).polder = p ∧
          (t.ctx x).asid = BitVec.ofNat 16 (natBytes v 0 2) ∧ (t.ctx x).keyslot = BitVec.ofNat 6 (natBytes v 2 1) ∧
          (t.ctx x).root = BitVec.ofNat 64 (natBytes v 8 8) ∧ (t.ctx x).preempted = false ∧ ∀ y, y ≠ x → t.ctx y = s.ctx y)) ∧
      ((s.ctx x).live = true → (s.ctx x).polder = p →
        (∀ s1 v, s.tableReady p x = true → s.ctxEntry p x = (s1, v) → s1.ctxs = s.ctxs → ∃ t, exec (.quota p x) s = .next t ∧ Ended t p 2 x 0 ∧
          (t.ctx x).localQ = BitVec.ofNat 64 (natBytes v 16 8) ∧ (t.ctx x).localUsed = BitVec.ofNat 64 (natBytes v 24 8) ∧
          (t.ctx x).live = true ∧ ∀ y, y ≠ x → t.ctx y = s.ctx y) ∧
        (s.tableReady p x = true → ∃ t, exec (.sync p x) s = .next t ∧ Ended t p 3 x 0 ∧ t.ctxs = s.ctxs) ∧
        (∃ t, exec (.resume p x) s = .next t ∧ Ended t p 5 x 0 ∧ t.ctx x = { s.ctx x with preempted := false } ∧
          ∀ y, y ≠ x → t.ctx y = s.ctx y) ∧
        (s.residentOf x = [] → ∃ t, exec (.preempt p x) s = .next t ∧ Ended t p 4 x 0 ∧ t.ctx x = { s.ctx x with preempted := true }) ∧
        (s.residentOf x ≠ [] → (∀ u ∈ s.residentOf x, u.fr.halted = false ∧ ∃ o ∈ s.ops, o.team = u.id) →
          ∃ t, exec (.preempt p x) s = .next t ∧ (t.polder p).cmdBusy = true ∧ t.ctx x = { s.ctx x with preempted := true }) ∧
        ((∀ u ∈ s.teams, u.shape.ctx ≠ some x) → (∀ l ∈ s.launches, l.isOf x = false) → s.asidInUse p (s.ctx x).asid = false →
          (∀ k, ∀ e ∈ (s.polder k).fq.entries, e.ctx ≠ x) →
          ∃ t, exec (.teardown p x) s = .next t ∧ Ended t p 6 x 0 ∧ (t.ctx x).live = false ∧ ∀ y, y ≠ x → SameContext (s.ctx y) (t.ctx y)) ∧
        (s.asidInUse p (s.ctx x).asid = false → ∃ t, exec (.shootall p x) s = .next t ∧ Ended t p 7 x 0 ∧
          ∀ y, SameContext (s.ctx y) (t.ctx y))))

/-- 13 R378, 16 R434, R435, R437, 17 R446: an answer is noted, and the outstanding entry it names leaves the queue: RETRY and DUPFILL let a group that parked on it
issue again, DENY halts it with its page's address; the queue's registers and SNCFG take what is written, and as ENABLE rises the engine reads its
descriptors, at once or when their memory is ready (21 R512). An absent function takes none of this (19 R477). -/
def Obligations.FaultAnswers : Prop :=
  ∀ (s : State) (p : Nat) (x : Polder), s.polders[p]? = some x →
    (s.present p = false → (∀ n, exec (.retry p n) s = .next s ∧ exec (.deny p n) s = .next s ∧ ∀ f, exec (.dupfill p n f) s = .next s) ∧
      ∀ v, exec (.fqheadWrite p v) s = .next s ∧ exec (.fqcfgWrite p v) s = .next s ∧ exec (.sncfgWrite p v) s = .next s) ∧
    (s.present p = true → (∀ n, s.answered p n = none →
      exec (.retry p n) s = .next { s with polders := s.polders.set p { x with fq := { x.fq with respOp := 0, respIndex := BitVec.ofNat 16 n } } } ∧
      exec (.deny p n) s = .next { s with polders := s.polders.set p { x with fq := { x.fq with respOp := 1, respIndex := BitVec.ofNat 16 n } } } ∧
      ∀ f, exec (.dupfill p n f) s = .next { s with polders := s.polders.set p { x with
        fq := { x.fq with respOp := 2, respIndex := BitVec.ofNat 16 n, respFrame := BitVec.ofNat 36 f } } }) ∧
    (∀ n e team g gr pk, s.answered p n = some e → NoFence s → e.waiters = [.group team g] → s.group? ⟨team, g⟩ = some gr →
      gr.ctl.park = some pk → pk.unit = false → s.mxOf ⟨team, g⟩ = [] →
      (∀ q, ∀ e' ∈ (s.polder q).fq.entries, (q ≠ p ∨ e' ≠ e) → (.group team g) ∉ e'.waiters) → x.fq.entries.count e = 1 →
      (∃ t, exec (.retry p n) s = .next t ∧ t.group? ⟨team, g⟩ = some { gr with ctl := { gr.ctl with park := none } } ∧
        (t.polder p).fq.entries = x.fq.entries.erase e ∧ (t.polder p).fq.respOp = 0) ∧
      (∀ f, e.kind ≠ 4 → ∃ t, exec (.dupfill p n f) s = .next t ∧
        t.group? ⟨team, g⟩ = some { gr with ctl := { gr.ctl with park := none } } ∧ (t.polder p).fq.respOp = 2) ∧
      (∀ u a, s.team? team = some u → u.fr.halted = false → pk.addrs = [(e.page, a)] → a < 2 ^ 56 →
        ∃ t v, exec (.deny p n) s = .next t ∧ t.team? team = some v ∧ v.fr.halted = true ∧ v.fr.code = 0x20 ∧ v.fr.pc = pk.pc ∧
          v.fr.oper = BitVec.ofNat 56 a ∧ (t.polder p).fq.respOp = 1)) ∧
    (∀ v, x.fq.entries = [] →
      exec (.fqheadWrite p v) s = .next { s with polders := s.polders.set p { x with fq := { x.fq with head := v.extractLsb' 0 32 } } } ∧
      (x.fq.enable = true ∨ v.getLsbD 31 = false → exec (.fqcfgWrite p v) s = .next { s with polders := s.polders.set p { x with
        fq := { x.fq with enable := v.getLsbD 31, logSize := v.extractLsb' 0 4 } } }) ∧
      (x.fq.enable = false → v.getLsbD 31 = true → exec (.fqcfgWrite p v) s = .next { s with polders := s.polders.set p { x with
        fq := { x.fq with enable := true, logSize := v.extractLsb' 0 4, head := 0, tail := 0 } } })) ∧
    (∀ v, (v.getLsbD 31 = false ∨ (x.eng.enable = true ∧ x.eng.unread = false)) → exec (.sncfgWrite p v) s = .next { s with polders := s.polders.set p { x with
      eng := { x.eng with enable := v.getLsbD 31, logNodes := v.extractLsb' 0 5, unread := false } } }) ∧
    (∀ v, v.getLsbD 31 = true → x.eng.enable = false →
      ((∃ pa ∈ x.eng.descs, s.devReady p pa = false) → exec (.sncfgWrite p v) s = .next { s with polders := s.polders.set p { x with
        eng := { x.eng with enable := true, logNodes := v.extractLsb' 0 5, unread := true } } }) ∧
      ((∀ pa ∈ x.eng.descs, s.devReady p pa = true) → ∃ t, exec (.sncfgWrite p v) s = .next t ∧ (t.polder p).eng.enable = true ∧
        (t.polder p).eng.logNodes = v.extractLsb' 0 5 ∧ (t.polder p).eng.unread = false)))

/-- 02 R50, R71, R75, 21 R501 to R506, R508, R510 to R512: heat, refresh and retention. BROLE is written while no team is resident, the
pipe ratios for the next phase 0, the allowance of a region's cores for the next window; a sample, a refresh of a channel, a window, a scrub and a
core's retention act where they are due, a core leaving retention once the distributor has chosen it; features are written while nothing of the polder is
in use, and with bit 15 clear every region of its ports is FENCED (log 53); readiness only grows. The model's choices in this: that one event refreshes one
channel and how long a refresh lasts (log 78); that READY_SET sets the DEV of each link it makes ready to Config.deviceNumber (log 29), and does nothing in
recovery mode, where there are no samples and no refreshes either (log 76). -/
def Obligations.HeatRefreshAndRetention : Prop :=
  ∀ (s : State),
    (∀ core k v, s.cores[core]? = some k →
      (s.residents core = [] → ∃ t, exec (.broleWrite core v) s = .next t ∧ (t.core core).regs.brole = v) ∧
      (s.residents core = [] → NoLinesLeft s core → ∃ t k', exec (.broleWrite core v) s = .next t ∧ t = withCore s core k' ∧ Stored k k' ∧
        k' = { k with regs := { k.regs with brole := v, stored := k'.regs.stored } }) ∧
      (s.residents core ≠ [] → exec (.broleWrite core v) s = .next (withCore s core { k with regs := { k.regs with brrej := true } })) ∧
      (∃ t k', exec (.pipeRatioWrite core v) s = .next t ∧ t = withCore s core k' ∧ Stored k k' ∧
        k' = { k with clk := { k.clk with ratioNext := some (v.setWidth 12) }, regs := { k.regs with stored := k'.regs.stored } })) ∧
    (WindowDue s → ∃ u, exec .thermalWindow s = .next u ∧ ∀ v, exec (.thset v) s = exec (.thset v) u) ∧
    (¬ WindowDue s → ∀ v, ∃ t, exec (.thset v) s = .next t ∧
      { t with cores := [] } = { s with cores := [], dev := { s.dev with
        thRegion := v.extractLsb' 32 4, thAllow := v.extractLsb' 0 16,
        sensors := modAt s.dev.sensors (v.extractLsb' 32 4).toNat (fun x =>
          { x with owed := if v.extractLsb' 0 16 = allowanceFor x.temp then none else x.owed }) } } ∧
      ∀ n, n < s.cores.length →
        (n / 16 = (v.extractLsb' 32 4).toNat → (t.core n).storedThalw = v.extractLsb' 0 16 ∧ (t.core n).clk.thalw = (s.core n).clk.thalw ∧
          (t.core n).clk.thalwNext = if (s.core n).regs.asleep = true then (s.core n).clk.thalwNext else some (v.extractLsb' 0 16)) ∧
        (n / 16 ≠ (v.extractLsb' 32 4).toNat → t.core n = s.core n)) ∧
    (∀ p x n v, s.polders[p]? = some x →
      (PolderUsed s p → exec (.featonWrite p n v) s = .next { s with polders := s.polders.set p { x with featRej := true } }) ∧
      (¬ PolderUsed s p → n = 0 → (v.getLsbD 15 = true ∨ ∀ r ∈ s.regions, r.state = .fenced ∨ s.polderOf r.port.toNat ≠ p) →
        exec (.featonWrite p n v) s = .next { s with polders := s.polders.set p { x with featOn := ((v &&& 0xFFFFF) ||| 1, x.featOn.2) } }) ∧
      (¬ PolderUsed s p → n = 0 → v.getLsbD 15 = false → ∃ t, exec (.featonWrite p n v) s = .next t ∧
        (t.polder p).featOn = ((v &&& 0xFFFFF) ||| 1, x.featOn.2) ∧
        ∀ (m : Nat) (r : Region), s.regions[m]? = some r → s.polderOf r.port.toNat = p → (t.region m).state = .fenced ∧ (t.region m).status = r.status) ∧
      (¬ PolderUsed s p → n ≠ 0 → exec (.featonWrite p n v) s = .next s)) ∧
    (∀ n x temp, s.dev.sensors[n]? = some x →
      (s.dev.recov = false → x.sampled < s.tick.toNat / 140000 →
        exec (.sensorSample n temp) s = .next (withSensor s n
          { temp := temp, hot := decide (85 * 16 < temp.toNat), sampled := s.tick.toNat / 140000, owed := some (140000 * (s.tick.toNat / 140000)) })) ∧
      ((s.dev.recov = true ∨ s.tick.toNat / 140000 ≤ x.sampled) → exec (.sensorSample n temp) s = .next s)) ∧
    (∀ n x len every, s.dev.channels[n]? = some x → every = (if (s.dev.sensors[n / 16]?).map Sensor.hot = some true then 2730 else 5460) →
      ((s.dev.recov = true ∨ s.tick.toNat < x.nextRefresh) → exec (.refresh n len) s = .next s) ∧
      (s.dev.recov = false → x.nextRefresh ≤ s.tick.toNat → exec (.refresh n len) s = .next { s with dev := { s.dev with
        channels := s.dev.channels.set n
          { refreshes := x.refreshes + 1, nextRefresh := x.nextRefresh + every, busyTo := s.tick.toNat + min len (every - 1) } } })) ∧
    (WindowDue s → ∃ t, exec .thermalWindow s = .next t ∧
      { t with cores := [] } = { s with cores := [], dev := { s.dev with windowAt := s.tick.toNat } } ∧
      ∀ c, c < s.cores.length → t.core c = { s.core c with clk := { (s.core c).clk with
        window := 0, thalw := (s.core c).clk.thalwNext.getD (s.core c).clk.thalw, thalwNext := none } }) ∧
    (¬ WindowDue s → exec .thermalWindow s = .next s) ∧
    (∀ u, (lookupNat s.home.errors u = none → exec (.scrub u) s = .next s) ∧
      (∀ bad, lookupNat s.home.errors u = some bad → (∃ q, q < 4 ∧ (s.rangeAt q (64 * u)).isSome = true) →
        ∃ t, exec (.scrub u) s = .next t ∧ lookupNat t.home.errors u = none ∧ t.home.cells = s.home.cells ∧
          (bad = true → t.home.poison.contains u = true) ∧ (bad = false → t.home.poison = s.home.poison))) ∧
    (∀ core k, s.cores[core]? = some k →
      (MayRetire s core → ∃ t, exec (.retentionEntry core) s = .next t ∧ (t.core core).regs.asleep = true) ∧
      (MayRetire s core → NoLinesLeft s core → exec (.retentionEntry core) s = .next (withCore s core { k with
        regs := { k.regs with asleep := true, retEntries := satAdd k.regs.retEntries 1 } })) ∧
      (¬ MayRetire s core → exec (.retentionEntry core) s = .next s) ∧
      ((k.regs.asleep = false ∨ s.chosen core = false) → ∀ ok, exec (.retentionExit core ok) s = .next s) ∧
      (k.regs.asleep = true → s.chosen core = true →
        exec (.retentionExit core true) s = .next (withCore s core { k with
          clk := { k.clk.start with thalw := k.storedThalw, thalwNext := none }, regs := { k.regs with asleep := false, idle := 0 } }) ∧
        ∃ t k', exec (.retentionExit core false) s = .next t ∧ t = withCore s core k' ∧ k'.regs.asleep = false ∧
          k'.regs.retReloads = satAdd k.regs.retReloads 1 ∧ k'.clk.thalw = k.storedThalw ∧
          (k.regs.stored.length = 9 → k'.regs.brole = k.regs.stored.getD 1 0 ∧ k'.clk.ratio = (k.regs.stored.getD 2 0).setWidth 12 ∧
            k'.clk.curLim = (k.regs.stored.getD 3 0).setWidth 20))) ∧
    (∀ bits, (s.dev.recov = true → exec (.readySet bits) s = .next s) ∧
      (s.dev.recov = false → s.ops = [] → NoFence s → (∀ p, p < 4 → (s.polder p).fq.entries = [] ∧ (s.polder p).eng.unread = false) →
        ∃ t, exec (.readySet bits) s = .next t ∧
        t.dev = { s.dev with
          readyLink := s.dev.readyLink ||| bits.extractLsb' 32 16, readyDram := s.dev.readyDram ||| bits.extractLsb' 16 16,
          readyHost := s.dev.readyHost || bits.getLsbD 12, readyPool := s.dev.readyPool ||| bits.extractLsb' 8 4,
          readyMatrix := s.dev.readyMatrix ||| bits.extractLsb' 4 4, readySpiral := s.dev.readySpiral ||| bits.extractLsb' 0 4 } ∧
        (∀ p, p < s.polders.length → t.polder p = { s.polder p with snReady := (s.polder p).snReady || bits.getLsbD 13 }) ∧
        (∀ n l, s.links[n]? = some l → t.links[n]? = some (if bits.getLsbD (32 + n) = true then { l with dev := Config.deviceNumber } else l)) ∧
        { t with polders := [], links := [], dev := Dev.reset } = { s with polders := [], links := [], dev := Dev.reset }))

/-- 00 R13, 16 R427, 21 R513, R514 (log 5, 12, 13 and 27 for what the spec leaves open): reset puts every register at its reset value; power loss empties local
memory as well, which then reads as the model's log 1 says; release boots the first image that verifies and is not older than the fused counter, else enters recovery mode; a
mailbox answers a request once the connection has come far enough; a key slot is loaded over a secured session alone. -/
def Obligations.ResetReleaseAndSessions : Prop :=
  ∀ (s : State),
    (s.home.keys = [] →
      (∃ t, exec .reset s = .next t ∧ AfterReset s t ∧ t.home.cells = s.home.cells) ∧
      ∃ t, exec .powerLoss s = .next t ∧
        { t with home := Home.reset, agenda := [], slow := [], free := 0, dev := Dev.reset } = State.reset ∧ t.agenda = s.agenda ∧ t.saved = [] ∧
        t.dev = { Dev.reset with fuseSvn := s.dev.fuseSvn, nextId := s.dev.nextId } ∧
        ∀ a, (IsLocal s a → t.home.byte a = Config.memDefault) ∧ (¬ IsLocal s a → t.home.byte a = s.home.byte a)) ∧
    (∀ ok0 ok1 svn0 svn1,
      (s.dev.booted = true → exec (.releaseFromReset ok0 ok1 svn0 svn1) s = .next s) ∧
      (s.dev.booted = false →
        (ok0 = true → s.dev.fuseSvn.toNat ≤ svn0.toNat → exec (.releaseFromReset ok0 ok1 svn0 svn1) s =
          .next { started s with dev := { s.dev with booted := true, svn := svn0, recov := false, slot := false } }) ∧
        (ok0 = false ∨ svn0.toNat < s.dev.fuseSvn.toNat →
          (ok1 = true → s.dev.fuseSvn.toNat ≤ svn1.toNat → exec (.releaseFromReset ok0 ok1 svn0 svn1) s =
            .next { started s with dev := { s.dev with booted := true, svn := svn1, recov := false, slot := true } }) ∧
          (ok1 = false ∨ svn1.toNat < s.dev.fuseSvn.toNat → exec (.releaseFromReset ok0 ok1 svn0 svn1) s =
            .next { started s with dev := { s.dev with booted := true, svn := 0, recov := true, slot := true } })))) ∧
    (∀ fn x i req least stage secure, s.polders[fn]? = some x → SpdmRequest fn i req least stage secure →
      (Answers s fn → least ≤ x.spdm → exec i s = .next { s with
        free := s.free + 1, polders := s.polders.set fn { x with
          spdm := stage x.spdm, secure := secure x.secure, doe := Config.spdmBytes req s.free } }) ∧
      (¬ Answers s fn ∨ x.spdm < least → exec i s = .next s)) ∧
    (∀ fn slot d w,
      (Answers s fn → s.dev.recov = false → (s.polder fn).secure = true → slot < 64 → s.home.keys = [] →
        exec (.keyLoad fn slot d w) s = .next { s with keys := modAt s.keys slot (fun _ => { loaded := true, data := d, tweak := w }) }) ∧
      (¬ Answers s fn ∨ s.dev.recov = true ∨ (s.polder fn).secure = false ∨ 64 ≤ slot → exec (.keyLoad fn slot d w) s = .next s))

/-- 23 R519, R520, R523, R524: the debug agent. EXEC on a halted team begins, with level 1 (drv), which is the model's reading: R524 gives the words the level of
the writer of DBGCMD, and the event names none (log 47); RESUME lets the team go on, each group's first issue at its saved PC meeting no breakpoint; HALT
halts the selected group's team as a breakpoint with operand 0x100; on a team that is not halted EXEC and RESUME only report it; while an EXEC runs neither
acts. CLR has the lane-cycle record emptied as the cycle ends (log 90, the model's choice), and the device stops at its tick. -/
def Obligations.DebugAgentActs : Prop :=
  ∀ (s : State) (core : Nat) (k : Core), s.cores[core]? = some k →
    (k.dbg.busy = true → exec (.dbgResume core) s = .next s ∧ exec (.halt core) s = .next s) ∧
    (k.dbg.busy = false →
      (∀ v, (∀ r, s.dbgTarget core = some r → s.haltedTeam r.team = false) →
        exec (.execWords core v) s = .next (withDbg s core k { k.dbg with count := v.extractLsb' 4 5, status := 1 }) ∧
        exec (.dbgResume core) s = .next (withDbg s core k { k.dbg with status := 1 })) ∧
      (s.dbgTarget core = none → exec (.halt core) s = .next s) ∧
      (∀ r (u : Team) (g : Group), s.dbgTarget core = some r → s.team? r.team = some u → s.group? r = some g →
        (u.fr.halted = true →
          (∀ v, ∃ t g', exec (.execWords core v) s = .next t ∧ t.group? r = some g' ∧ Bare g g' ∧ g'.flt.pending = g.flt.pending ∧
            (∀ q, q ≠ r → t.group? q = s.group? q) ∧ t.teams.map teamRest = s.teams.map teamRest ∧
            { t with teams := [] } = { withDbg s core k { k.dbg with
              count := v.extractLsb' 4 5, busy := true, level := 1, status := 0, fcode := 0, done := 0 } with teams := [] }) ∧
          ((u.groups.any Group.alive = true ∨ (∃ h, u.handler = some h ∧ h.alive = true) ∨ u.ended = true) →
            (∀ y ∈ s.polders, ∀ e ∈ y.fq.entries, e.waiters ≠ [] ∧ ∀ n, Waiter.group r.team n ∉ e.waiters) →
            ∃ (t : State) (w : Team), exec (.dbgResume core) s = .next t ∧ t.team? r.team = some w ∧ w.fr = { u.fr with halted := false } ∧
            (∀ (n : Nat) (x : Group), u.groups[n]? = some x → ∃ x', w.groups[n]? = some x' ∧ x'.ctl.bpSkip = some x.flt.stopPc ∧ x'.ctl.park = none ∧ x'.flt.pending = [] ∧
              Bare x { x' with ctl := { x'.ctl with park := x.ctl.park } }) ∧
            (∀ n, n ≠ r.team → t.team? n = s.team? n) ∧
            { t with teams := [] } = { withDbg s core k { k.dbg with status := 0 } with teams := [] })) ∧
        (u.fr.halted = false → ∃ t w, exec (.halt core) s = .next t ∧ t.team? r.team = some w ∧ w.fr.halted = true ∧ w.fr.code = 0x15 ∧
          w.fr.oper = 0x100 ∧ w.fr.pc = g.stopPcNow ∧ w.fr.group = BitVec.ofNat 6 r.g ∧ (t.core core).dbg.status = 0 ∧
          ∀ n x, s.group? ⟨r.team, n⟩ = some x → ∃ x', t.group? ⟨r.team, n⟩ = some x' ∧ x'.lines = x.lines ∧ x'.scalars = x.scalars ∧
            x'.preds = x.preds ∧ x'.index = x.index))) ∧
    exec (.clr core) s = .next (withDbg s core k { k.dbg with lcrClr := true, lcrT0 := s.tick }) ∧
    (s.dev.stopAt ≤ s.tick.toNat → exec .stopTick s = .next { s with stopped := true }) ∧
    (s.tick.toNat < s.dev.stopAt → exec .stopTick s = .next s)

/-- 02 R49, R70, 07 R247, R248, 08 R290, 23 R520: a cycle ends. The tick moves on, a core that is awake takes its next phase, CYC of every group that has issued
counts on, and a barrier register takes the cycle's events in order: its BINIT first, and its phase turns where its arrivals reach the
number it expects; a CLR of the cycle empties the lane-cycle record (log 90). No cycle ends while a window, a sample, a write of the thermal policy or a
refresh is due, or once the device's stop is: that no cycle passes over a window that is due is the model's choice (log 2). The tick moves by 1 + the first
entry of `slow`, a free number of further ticks of a slowed clock (log 39), and once the device is booted alone (log 76): both the model's choice. -/
def Obligations.CyclesEnd : Prop :=
  ∀ (s : State),
    (s.stopped = true ∨ Overdue s ∨ s.dev.stopAt ≤ s.tick.toNat → exec .cycleEnd s = .next s) ∧
    (s.stopped = false → ¬ Overdue s → s.tick.toNat < s.dev.stopAt →
      ∃ t, exec .cycleEnd s = .next t ∧
        (s.launches = [] → s.cmds = [] → (∀ q, q < 4 → (s.quarter q).flush = none) → (∀ p, p < 4 → (s.polder p).biasOps = none) →
          (∀ c, (s.core c).dbg.trcEn = false ∧ (s.core c).dbg.trcOut = []) →
          t.tick = (if s.dev.booted = true then s.tick + BitVec.ofNat 64 (1 + s.slow.headD 0) else s.tick) ∧ t.cycle = s.cycle + 1 ∧ t.tried = [] ∧ t.regLog = [] ∧ t.home = s.home ∧ t.ops = s.ops ∧
          t.polders = s.polders.mapIdx (fun p d => { d with sluiceIdle := d.sluice == 1 && (s.busyQueue p).isNone }) ∧
          (∀ c, c < s.cores.length → (t.core c).clk.phase = if (s.core c).regs.asleep = true then (s.core c).clk.phase else ((s.core c).clk.phase + 1) % 8) ∧
          (∀ c, c < s.cores.length → (s.core c).dbg.lcrEn = false → (s.core c).dbg.lcrOut = [] →
            (t.core c).dbg.counts = if (s.core c).dbg.lcrClr = true then List.replicate 17 (List.replicate 5 0) else (s.core c).dbg.counts) ∧
          (∀ (n : Nat) (u : Team), s.team? n = some u → u.handler = none ∨ u.fr.halted = false → ∃ v : Team, t.team? n = some v ∧ v.barEvents = [] ∧ v.fr = u.fr ∧
            (∀ (i : Nat) (x : Group), u.groups[i]? = some x → v.groups[i]? = some (
              if u.core?.isSome = true ∧ u.ended = false ∧ (x.started = true ∨ x.ctl.cyc ≠ 0) then
                { x with ctl := { x.ctl with cyc := x.ctl.cyc + 1 } } else x)) ∧
            (∀ (i : Nat) (b : Barrier), u.bars[i]? = some b → (∀ e ∈ u.barEvents, e.1 ≠ i) → b.cwait = false → b.arr ≠ b.exp → v.bars[i]? = some b) ∧
            (∀ (i : Nat) (b : Barrier), u.bars[i]? = some b → (∀ e ∈ u.barEvents, e.1 = i → e.2 = .arrive) → b.cwait = false →
              (b.arr.toNat + (u.barEvents.filter (fun e => e.1 == i)).length < b.exp.toNat →
                v.bars[i]? = some { b with arr := b.arr + BitVec.ofNat 6 (u.barEvents.filter (fun e => e.1 == i)).length }) ∧
              (b.arr.toNat + (u.barEvents.filter (fun e => e.1 == i)).length = b.exp.toNat →
                v.bars[i]? = some { b with phase := !b.phase, arr := 0, cdone := false })) ∧
            (∀ (i : Nat) (b : Barrier) g n, u.bars[i]? = some b → u.barEvents.filter (fun e => e.1 == i) = [(i, .binit g n)] → n ≠ 0 →
              v.bars[i]? = some { b with exp := n, arr := 0, owed := 0, err := false, cwait := false, cdone := false }) ∧
            (∀ (i : Nat) (b : Barrier) n, u.bars[i]? = some b → u.barEvents.filter (fun e => e.1 == i) = [(i, .declare n)] → b.arr ≠ b.exp → 0 < n →
              b.cdone = false → b.owed.toNat + n < 2 ^ 32 →
              v.bars[i]? = some { b with owed := BitVec.ofNat 32 (b.owed.toNat + n), cwait := true }))))

/-- 00 R25, 15 R400, R402, R422, 16 R426, R435, 17 R446, 19 R495: writes through the port and in BAR0. A base of a queue, of the fault queue, of the trees and of the
stores takes its write while its unit is off and keeps its value while it is on; a link's status is read-only; a
polder that is not there takes nothing and reads as all ones (19 R477; in BAR0 too, which is the model's reading, log 93); and a read clears the fields that
are read-and-clear. -/
def Obligations.PortWritesAndClearingReads : Prop :=
  ∀ (s : State) (p : Nat) (x : Polder), s.polders[p]? = some x →
    (s.present p = false → ∀ n v, exec (.regWrite (256 + p) n v) s = .next s ∧ exec (.readClear (256 + p) n) s = .next s ∧
      s.barRead p n = BitVec.allOnes 64 ∧ s.configRead p n = BitVec.allOnes 32) ∧
    (s.present p = true →
      (∀ v, exec (.regWrite (256 + p) 0x200 v) s = .next { s with polders := s.polders.set p { x with ctxTab := v.extractLsb' 14 38 } }) ∧
      (∀ v, exec (.regWrite (256 + p) 0x300 v) s = .next (if x.fq.enable = true then s else
        { s with polders := s.polders.set p { x with fq := { x.fq with base := v.extractLsb' 5 47 } } })) ∧
      (∀ v, exec (.regWrite (256 + p) 0x400 v) s = .next (if x.eng.enable = true then s else
        { s with polders := s.polders.set p { x with eng := { x.eng with snTab := v.extractLsb' 21 31 } } })) ∧
      (∀ v, exec (.regWrite (256 + p) 0x408 v) s = .next (if x.eng.enable = true then s else
        { s with polders := s.polders.set p { x with eng := { x.eng with snTrees := v.extractLsb' 13 39 } } })) ∧
      (∀ v, exec (.regWrite (256 + p) 0x420 v) s = .next (if x.eng.enable = true then s else
        { s with polders := s.polders.set p { x with eng := { x.eng with kvTab := v.extractLsb' 13 39 } } })) ∧
      (∀ q k v, x.queues[q]? = some k → q < 128 →
        exec (.regWrite (256 + p) (0x1000 + 32 * q + 8) v) s =
          .next (if k.enable = true then s else withQueue s p x q { k with base := v.extractLsb' 8 44 }) ∧
        exec (.regWrite (256 + p) (0x1000 + 32 * q + 16) v) s = .next (withQueue s p x q { k with tail := v.extractLsb' 0 32, subs := k.subs ++ [(v.extractLsb' 0 32, s.cycle)] })) ∧
      exec (.readClear (256 + p) 0x418) s =
        .next { s with polders := s.polders.set p { x with eng := { x.eng with evict := 0, dedup := 0, badRel := 0 } } } ∧
      (∀ n, n ≠ 0x418 → exec (.readClear (256 + p) n) s = .next s)) ∧
    (∀ core n v, core < 256 → n < 16 →
      exec (.regWrite core (0x340 + n) v) s = .next s) ∧
    (∀ core k, s.cores[core]? = some k → core < 256 →
      exec (.readClear core 0x402) s = .next (withCore s core { k with regs := { k.regs with refStall := 0 } }) ∧
      exec (.readClear core 0x409) s = .next (withCore s core { k with regs := { k.regs with retEntries := 0, retReloads := 0 } }) ∧
      exec (.readClear core 0x108) s = .next (withCore s core { k with regs := { k.regs with wback := 0, fills := 0, eccFix := 0 } }))

/-- 02 R45, R66, 03 R81, R115, 23 R520, logs 2, 4 and 40: one step. Where the word at the PC of the turn's sub-gang is fetched and nothing holds it, the step is the
execution of the instruction it decodes to, or, where it decodes to none, of NOT_AN_INSTRUCTION with its value; where the lines it reads hold errors, these are corrected and
counted first, and an uncorrectable one halts the team with LINEUE (0x16) and the line's number in place of the execution. A timer whose deadline passed while its group was
out fires first (08 R291). A sub-gang that is not ready, as its wait word's condition does not hold, goes inside the word, and the group's next offers have the turn. A group of a
halted team has its skid noted (13 R390, log 10), and at the tick of a stop a word goes no further than its issue stage (23 R520, log 89). An event of the agenda is executed; a stopped device acts on RESET and POWER_LOSS alone, one not yet released from reset on them, on
that release and on the end of a cycle (00 R13), and one in recovery mode also on what comes over CXL.io and the requests of its mailbox (21 R513, log 76). -/
def Obligations.StepsRunTheDecodedWord : Prop :=
  ∀ (s : State),
    (∀ s1 t core g r slices more w u, Fetches s s1 t core g r slices more w true → u = (s1.issuing r slices w none).fireLate r w →
      (∀ i, decode w = some i → u.lineErrsOf w = [] → step s = turnOf s t g r (exec i u)) ∧
      (∀ i c, decode w = some i → cxOf u = some c → u.lineErrsOf w ≠ [] → (∀ e ∈ u.lineErrsOf w, e.bad = false) →
        step s = turnOf s t g r (exec i (u.correct c.core c.ref (u.lineErrsOf w)))) ∧
      (∀ c e, cxOf u = some c → (u.lineErrsOf w).find? LineErr.bad = some e →
        step s = turnOf s t g r (.next (raiseOp c u 0x16 (BitVec.ofNat 56 e.line)))) ∧
      (decode w = none → step s = turnOf s t g r (exec (.notAnInstruction (some w)) u))) ∧
    (∀ s1 t core g r slices more w i, Fetches s s1 t core g r slices more w false → decode w = some i →
      step s = turnOf s t g r (nextOffers s t core g r slices more (exec i (s1.issuing r slices w none)))) ∧
    (∀ e rest, s.agenda = .event e :: rest → s.stopped = false → s.dev.booted = true →
      (s.dev.recov = false ∨ InRecovery e → step s = exec e { s with agenda := rest, iss := none }) ∧
      (s.dev.recov = true → ¬ InRecovery e → step s = .next { s with agenda := rest })) ∧
    (s.stopped = false → s.dev.booted = false →
      (∀ e rest, s.agenda = .event e :: rest → BeforeBoot e → step s = exec e { s with agenda := rest, iss := none }) ∧
      (∀ e rest, s.agenda = .event e :: rest → ¬ BeforeBoot e → step s = .next { s with agenda := rest }) ∧
      (s.agenda = [] → ¬ WindowDue s → step s = exec .cycleEnd { s with tried := .cycleEnd :: s.tried }) ∧
      (s.agenda = [] → WindowDue s → step s = exec .thermalWindow { s with tried := .thermalWindow :: s.tried }) ∧
      ∀ r rest, s.agenda = .issue r :: rest → step s = .next { s with agenda := rest }) ∧
    (s.stopped = true → (∀ e rest, s.agenda = .event e :: rest → e = .reset ∨ e = .powerLoss → step s = exec e { s with agenda := rest, iss := none }) ∧
      (∀ e rest, s.agenda = .event e :: rest → e ≠ .reset → e ≠ .powerLoss → step s = .next { s with agenda := rest }) ∧
      (s.agenda = [] → step s = .next s) ∧ ∀ r rest, s.agenda = .issue r :: rest → step s = .next { s with agenda := rest })

/-- 03 R82, R83, R99 to R115: the word of every well-formed instruction decodes to it, with every operand, and a word that decodes to an instruction
is that instruction's word: no bit of a word is dropped, and no two words are one instruction. -/
def Obligations.DecodeInvertsEncode : Prop :=
  (∀ i w, i.wf = true → encode i = some w → decode w = some i) ∧ (∀ w i, decode w = some i → i.wf = true ∧ encode i = some w)

/-- 03, the words of the listing (after R118): each word that the spec writes out decodes to the instruction it gives. -/
def Obligations.ListedWordsDecode : Prop :=
  decode 0x34000038#32 = some (.movsr 0 0 0) ∧ decode 0x34108038#32 = some (.movsr 1 2 0) ∧
  decode 0x04201038#32 = some (.andi 2 0 7 0) ∧ decode 0x80421A00#32 = some (.ld 4 1 3 2 0 0) ∧
  decode 0xA003FFF8#32 = some (.waitc 0 63 15 31) ∧ decode 0x149020A0#32 = some (.cmp 1 2 0 4 5 0 0) ∧
  decode 0x38400801#32 = some (.movi 4 0 1) ∧ decode 0xFCC00001#32 = some (.hmod 0 0 0 1) ∧
  decode 0x20618740#32 = some (.fmul 6 6 7 0 0) ∧ decode 0xFC800020#32 = some (.hsched 1 0 0) ∧
  decode 0x6C0FFFFE#32 = some (.loopW 3 (-2)) ∧ decode 0x65200010#32 = some (.callW 2 16) ∧
  decode 0x68800003#32 = some (.regang 3) ∧ decode 0x68200002#32 = some (.brp 2 2) ∧
  decode 0x85025280#32 = some (.st 16 1 10 2 1 0) ∧ decode 0xA8005000#32 = some (.fence 5) ∧
  decode 0xFD400005#32 = some (.hscope 0 5) ∧ decode 0x90C2B720#32 = some (.atomg 12 1 5 11 0 0) ∧
  decode 0x66020000#32 = some .exitW ∧ decode 0x38301400#32 = some (.movhi 3 0x80 0) ∧
  decode 0xFD000002#32 = some (.hreg 2) ∧ decode 0x24000360#32 = some (.fmad 0 0 3 0 0) ∧
  decode 0x66010000#32 = some .ret

/-- 11 R332, 19 R476, R484: what every step keeps, whatever the agenda holds: home memory's canonical form (log 1), and polders that are disjoint and
agree. Left to itself, the machine always steps on. -/
def Obligations.EveryStepKeepsTheInvariant : Prop :=
  ∀ (s : State), Inv s → (∀ t, step s = .next t → Inv t) ∧ (AgendaOk s → ∃ t, step s = .next t)

/-- 00 R13, 19 R476, 02 R71, R78, 03: the machine after reset: nothing resident and nothing in flight, one polder of four quarters; and the
invariant holds. That the tick is 0 then (log 5) and that memory lists nothing (log 1) are the model's choices: R13 gives neither. -/
def Obligations.ResetMeetsTheInvariant : Prop :=
  Inv State.reset ∧ State.reset.tick = 0 ∧ State.reset.teams = [] ∧ State.reset.ops = [] ∧ State.reset.launches = [] ∧
  State.reset.home.cells = [] ∧ State.reset.cores.length = 256 ∧ State.reset.quarters.length = 4 ∧ (∀ q, q < 4 → State.reset.polderOf q = 0) ∧
  (∀ c, c < 256 → (State.reset.core c).clk.phase = 0 ∧ (State.reset.core c).regs.asleep = false)
end

