-- ==== Sys2Proof/Laws/Issue.lean ====
section
/-! SUPPORT. What the bits of a word do where a group's turn has fetched it: the execution of the instruction they decode to. -/
namespace Sys2Proof.Machine

/-- A word that decodes to an instruction runs it. -/
theorem runWord_some {w : Word} {i : Instr} (h : decode w = some i) (s : State) : runWord w s = exec i s := by
  simp only [decode] at h
  split at h
  case h_2 => simp at h
  rename_i j hj
  split at h
  case isFalse => simp at h
  rename_i hw
  cases h
  simp only [decodeFields] at hj
  split at hj
  case isFalse hm => simp [runWord, hm, plainOf, hj, hw]
  rename_i hm
  simp only [runWord, hm, if_true, runHint]
  simp only [decH] at hj
  by_cases h1 : fx w 4 22 = 1572864
  · rw [if_pos h1] at hj ⊢; cases hj; rfl
  rw [if_neg h1] at hj ⊢
  by_cases h2 : fx w 6 20 = 196608
  · rw [if_pos h2] at hj ⊢; cases hj; rfl
  rw [if_neg h2] at hj ⊢
  by_cases h3 : fx w 6 20 = 262144
  · rw [if_pos h3] at hj ⊢; cases hj; rfl
  rw [if_neg h3] at hj ⊢
  by_cases h4 : fx w 6 20 = 327680
  · rw [if_pos h4] at hj ⊢; cases hj; rfl
  rw [if_neg h4] at hj ⊢
  by_cases h5 : fx w 7 19 = 65536
  · rw [if_pos h5] at hj ⊢; cases hj; rfl
  rw [if_neg h5] at hj ⊢
  by_cases h6 : fx w 16 10 = 448
  · rw [if_pos h6] at hj ⊢; cases hj; rfl
  rw [if_neg h6] at hj ⊢
  by_cases h7 : fx w 22 4 = 0
  · rw [if_pos h7] at hj ⊢; cases hj; rfl
  rw [if_neg h7] at hj ⊢
  by_cases h8 : fx w 22 4 = 1
  · rw [if_pos h8] at hj ⊢; cases hj; rfl
  rw [if_neg h8] at hj
  simp at hj

/-- A hint word whose payload 03 R90 does not allocate is no instruction. -/
theorem hintWord_unallocated {w : Word} {s : State} (hs : ∀ c, cxOf s = some c → c.word = w) (k : Nat) (p : BitVec 22) :
    hintWord k p false s = execNotAnInstruction (some w) s := by
  simp only [hintWord, execNotAnInstruction]
  cases hc : cxOf s with
  | none => rfl
  | some c => simp [illop, hs c hc]

/-- A word that decodes to none runs as no instruction. -/
theorem runWord_none {w : Word} (h : decode w = none) (s : State) (hs : ∀ c, cxOf s = some c → c.word = w) :
    runWord w s = exec (.notAnInstruction (some w)) s := by
  by_cases hm : fx w 26 6 = 0x3F
  case neg =>
    simp only [decode, decodeFields, hm, if_false] at h
    split at h
    · rename_i j hj
      split at h
      · simp at h
      · rename_i hw; simp [runWord, hm, plainOf, hj, hw]; rfl
    · rename_i hj; simp [runWord, hm, plainOf, hj]; rfl
  simp only [decode, decodeFields, hm, if_true] at h
  simp only [runWord, hm, if_true, runHint]
  show _ = execNotAnInstruction (some w) s
  simp only [decH] at h
  by_cases h1 : fx w 4 22 = 1572864
  · rw [if_pos h1] at h; simp [Instr.wf] at h
  rw [if_neg h1] at h ⊢
  by_cases h2 : fx w 6 20 = 196608
  · rw [if_pos h2] at h ⊢
    have e : decide ((fb w 0 3).toNat ≤ 4) = false := by simp [Instr.wf] at h; simp; omega
    simp only [execHmod, e, hintWord_unallocated hs]
  rw [if_neg h2] at h ⊢
  by_cases h3 : fx w 6 20 = 262144
  · rw [if_pos h3] at h; simp [Instr.wf] at h
  rw [if_neg h3] at h ⊢
  by_cases h4 : fx w 6 20 = 327680
  · rw [if_pos h4] at h ⊢
    have e : decide ((fb w 0 4).toNat < 10) = false := by simp [Instr.wf] at h; simp; omega
    simp only [execHscope, e, hintWord_unallocated hs]
  rw [if_neg h4] at h ⊢
  by_cases h5 : fx w 7 19 = 65536
  · rw [if_pos h5] at h ⊢
    have e : ((fb w 5 2) != 3) = false := by
      simp [Instr.wf] at h; simp; apply BitVec.eq_of_toNat_eq; have := (fb w 5 2).isLt; simp; omega
    simp only [execHsched, e, hintWord_unallocated hs]
  rw [if_neg h5] at h ⊢
  by_cases h6 : fx w 16 10 = 448
  · rw [if_pos h6] at h; simp [Instr.wf] at h
  rw [if_neg h6] at h ⊢
  by_cases h7 : fx w 22 4 = 0
  · rw [if_pos h7] at h; simp [Instr.wf] at h
  rw [if_neg h7] at h ⊢
  by_cases h8 : fx w 22 4 = 1
  · rw [if_pos h8] at h; simp [Instr.wf] at h
  rw [if_neg h8]

/-- The issuing context has the word that the turn set. -/
theorem cxOf_issuing_word {s : State} {r : GRef} {m : BitVec 8} {w : Word} {b : Option Stuffed} {c : Cx}
    (h : cxOf (s.issuing r m w b) = some c) : c.word = w := by
  simp only [cxOf, State.issuing] at h
  split at h
  · simp at h
  · split at h
    · cases h; rfl
    · simp at h

end Sys2Proof.Machine
end

