-- ==== Sys2Proof/Laws/State.lean ====
section
/-! SUPPORT. What each update of the state leaves alone, field by field: every later proof rewrites with these and unfolds no record. -/
namespace Sys2Proof.Machine

/-! ## Updates of the state -/

@[simp] theorem State.modCore_tick (s : State) (c : Nat) (f : Core → Core) : (s.modCore c f).tick = s.tick := rfl
@[simp] theorem State.modCore_tickStep (s : State) (c : Nat) (f : Core → Core) : (s.modCore c f).tickStep = s.tickStep := rfl
@[simp] theorem State.modCore_slow (s : State) (c : Nat) (f : Core → Core) : (s.modCore c f).slow = s.slow := rfl
@[simp] theorem State.modCore_cmds (s : State) (c : Nat) (f : Core → Core) : (s.modCore c f).cmds = s.cmds := rfl
@[simp] theorem State.modCore_saved (s : State) (c : Nat) (f : Core → Core) : (s.modCore c f).saved = s.saved := rfl
@[simp] theorem State.modCore_cycle (s : State) (c : Nat) (f : Core → Core) : (s.modCore c f).cycle = s.cycle := rfl
@[simp] theorem State.modCore_stopped (s : State) (c : Nat) (f : Core → Core) : (s.modCore c f).stopped = s.stopped := rfl
@[simp] theorem State.modCore_agenda (s : State) (c : Nat) (f : Core → Core) : (s.modCore c f).agenda = s.agenda := rfl
@[simp] theorem State.modCore_tried (s : State) (c : Nat) (f : Core → Core) : (s.modCore c f).tried = s.tried := rfl
@[simp] theorem State.modCore_iss (s : State) (c : Nat) (f : Core → Core) : (s.modCore c f).iss = s.iss := rfl
@[simp] theorem State.modCore_free (s : State) (c : Nat) (f : Core → Core) : (s.modCore c f).free = s.free := rfl
@[simp] theorem State.modCore_quarters (s : State) (c : Nat) (f : Core → Core) : (s.modCore c f).quarters = s.quarters := rfl
@[simp] theorem State.modCore_parts (s : State) (c : Nat) (f : Core → Core) : (s.modCore c f).parts = s.parts := rfl
@[simp] theorem State.modCore_polders (s : State) (c : Nat) (f : Core → Core) : (s.modCore c f).polders = s.polders := rfl
@[simp] theorem State.modCore_teams (s : State) (c : Nat) (f : Core → Core) : (s.modCore c f).teams = s.teams := rfl
@[simp] theorem State.modCore_ops (s : State) (c : Nat) (f : Core → Core) : (s.modCore c f).ops = s.ops := rfl
@[simp] theorem State.modCore_wbq (s : State) (c : Nat) (f : Core → Core) : (s.modCore c f).wbq = s.wbq := rfl
@[simp] theorem State.modCore_launches (s : State) (c : Nat) (f : Core → Core) : (s.modCore c f).launches = s.launches := rfl
@[simp] theorem State.modCore_emits (s : State) (c : Nat) (f : Core → Core) : (s.modCore c f).emits = s.emits := rfl
@[simp] theorem State.modCore_regLog (s : State) (c : Nat) (f : Core → Core) : (s.modCore c f).regLog = s.regLog := rfl
@[simp] theorem State.modCore_ctxs (s : State) (c : Nat) (f : Core → Core) : (s.modCore c f).ctxs = s.ctxs := rfl
@[simp] theorem State.modCore_regions (s : State) (c : Nat) (f : Core → Core) : (s.modCore c f).regions = s.regions := rfl
@[simp] theorem State.modCore_links (s : State) (c : Nat) (f : Core → Core) : (s.modCore c f).links = s.links := rfl
@[simp] theorem State.modCore_keys (s : State) (c : Nat) (f : Core → Core) : (s.modCore c f).keys = s.keys := rfl
@[simp] theorem State.modCore_dev (s : State) (c : Nat) (f : Core → Core) : (s.modCore c f).dev = s.dev := rfl
@[simp] theorem State.modCore_home (s : State) (c : Nat) (f : Core → Core) : (s.modCore c f).home = s.home := rfl

@[simp] theorem State.modQuarter_tick (s : State) (q : Nat) (f : Quarter → Quarter) : (s.modQuarter q f).tick = s.tick := rfl
@[simp] theorem State.modQuarter_tickStep (s : State) (q : Nat) (f : Quarter → Quarter) : (s.modQuarter q f).tickStep = s.tickStep := rfl
@[simp] theorem State.modQuarter_slow (s : State) (q : Nat) (f : Quarter → Quarter) : (s.modQuarter q f).slow = s.slow := rfl
@[simp] theorem State.modQuarter_cmds (s : State) (q : Nat) (f : Quarter → Quarter) : (s.modQuarter q f).cmds = s.cmds := rfl
@[simp] theorem State.modQuarter_saved (s : State) (q : Nat) (f : Quarter → Quarter) : (s.modQuarter q f).saved = s.saved := rfl
@[simp] theorem State.modQuarter_cycle (s : State) (q : Nat) (f : Quarter → Quarter) : (s.modQuarter q f).cycle = s.cycle := rfl
@[simp] theorem State.modQuarter_stopped (s : State) (q : Nat) (f : Quarter → Quarter) : (s.modQuarter q f).stopped = s.stopped := rfl
@[simp] theorem State.modQuarter_agenda (s : State) (q : Nat) (f : Quarter → Quarter) : (s.modQuarter q f).agenda = s.agenda := rfl
@[simp] theorem State.modQuarter_tried (s : State) (q : Nat) (f : Quarter → Quarter) : (s.modQuarter q f).tried = s.tried := rfl
@[simp] theorem State.modQuarter_iss (s : State) (q : Nat) (f : Quarter → Quarter) : (s.modQuarter q f).iss = s.iss := rfl
@[simp] theorem State.modQuarter_free (s : State) (q : Nat) (f : Quarter → Quarter) : (s.modQuarter q f).free = s.free := rfl
@[simp] theorem State.modQuarter_cores (s : State) (q : Nat) (f : Quarter → Quarter) : (s.modQuarter q f).cores = s.cores := rfl
@[simp] theorem State.modQuarter_parts (s : State) (q : Nat) (f : Quarter → Quarter) : (s.modQuarter q f).parts = s.parts := rfl
@[simp] theorem State.modQuarter_polders (s : State) (q : Nat) (f : Quarter → Quarter) : (s.modQuarter q f).polders = s.polders := rfl
@[simp] theorem State.modQuarter_teams (s : State) (q : Nat) (f : Quarter → Quarter) : (s.modQuarter q f).teams = s.teams := rfl
@[simp] theorem State.modQuarter_ops (s : State) (q : Nat) (f : Quarter → Quarter) : (s.modQuarter q f).ops = s.ops := rfl
@[simp] theorem State.modQuarter_wbq (s : State) (q : Nat) (f : Quarter → Quarter) : (s.modQuarter q f).wbq = s.wbq := rfl
@[simp] theorem State.modQuarter_launches (s : State) (q : Nat) (f : Quarter → Quarter) : (s.modQuarter q f).launches = s.launches := rfl
@[simp] theorem State.modQuarter_emits (s : State) (q : Nat) (f : Quarter → Quarter) : (s.modQuarter q f).emits = s.emits := rfl
@[simp] theorem State.modQuarter_regLog (s : State) (q : Nat) (f : Quarter → Quarter) : (s.modQuarter q f).regLog = s.regLog := rfl
@[simp] theorem State.modQuarter_ctxs (s : State) (q : Nat) (f : Quarter → Quarter) : (s.modQuarter q f).ctxs = s.ctxs := rfl
@[simp] theorem State.modQuarter_regions (s : State) (q : Nat) (f : Quarter → Quarter) : (s.modQuarter q f).regions = s.regions := rfl
@[simp] theorem State.modQuarter_links (s : State) (q : Nat) (f : Quarter → Quarter) : (s.modQuarter q f).links = s.links := rfl
@[simp] theorem State.modQuarter_keys (s : State) (q : Nat) (f : Quarter → Quarter) : (s.modQuarter q f).keys = s.keys := rfl
@[simp] theorem State.modQuarter_dev (s : State) (q : Nat) (f : Quarter → Quarter) : (s.modQuarter q f).dev = s.dev := rfl
@[simp] theorem State.modQuarter_home (s : State) (q : Nat) (f : Quarter → Quarter) : (s.modQuarter q f).home = s.home := rfl

@[simp] theorem State.modPart_tick (s : State) (q : Nat) (f : Part → Part) : (s.modPart q f).tick = s.tick := rfl
@[simp] theorem State.modPart_tickStep (s : State) (q : Nat) (f : Part → Part) : (s.modPart q f).tickStep = s.tickStep := rfl
@[simp] theorem State.modPart_slow (s : State) (q : Nat) (f : Part → Part) : (s.modPart q f).slow = s.slow := rfl
@[simp] theorem State.modPart_cmds (s : State) (q : Nat) (f : Part → Part) : (s.modPart q f).cmds = s.cmds := rfl
@[simp] theorem State.modPart_saved (s : State) (q : Nat) (f : Part → Part) : (s.modPart q f).saved = s.saved := rfl
@[simp] theorem State.modPart_cycle (s : State) (q : Nat) (f : Part → Part) : (s.modPart q f).cycle = s.cycle := rfl
@[simp] theorem State.modPart_stopped (s : State) (q : Nat) (f : Part → Part) : (s.modPart q f).stopped = s.stopped := rfl
@[simp] theorem State.modPart_agenda (s : State) (q : Nat) (f : Part → Part) : (s.modPart q f).agenda = s.agenda := rfl
@[simp] theorem State.modPart_tried (s : State) (q : Nat) (f : Part → Part) : (s.modPart q f).tried = s.tried := rfl
@[simp] theorem State.modPart_iss (s : State) (q : Nat) (f : Part → Part) : (s.modPart q f).iss = s.iss := rfl
@[simp] theorem State.modPart_free (s : State) (q : Nat) (f : Part → Part) : (s.modPart q f).free = s.free := rfl
@[simp] theorem State.modPart_cores (s : State) (q : Nat) (f : Part → Part) : (s.modPart q f).cores = s.cores := rfl
@[simp] theorem State.modPart_quarters (s : State) (q : Nat) (f : Part → Part) : (s.modPart q f).quarters = s.quarters := rfl
@[simp] theorem State.modPart_polders (s : State) (q : Nat) (f : Part → Part) : (s.modPart q f).polders = s.polders := rfl
@[simp] theorem State.modPart_teams (s : State) (q : Nat) (f : Part → Part) : (s.modPart q f).teams = s.teams := rfl
@[simp] theorem State.modPart_ops (s : State) (q : Nat) (f : Part → Part) : (s.modPart q f).ops = s.ops := rfl
@[simp] theorem State.modPart_wbq (s : State) (q : Nat) (f : Part → Part) : (s.modPart q f).wbq = s.wbq := rfl
@[simp] theorem State.modPart_launches (s : State) (q : Nat) (f : Part → Part) : (s.modPart q f).launches = s.launches := rfl
@[simp] theorem State.modPart_emits (s : State) (q : Nat) (f : Part → Part) : (s.modPart q f).emits = s.emits := rfl
@[simp] theorem State.modPart_regLog (s : State) (q : Nat) (f : Part → Part) : (s.modPart q f).regLog = s.regLog := rfl
@[simp] theorem State.modPart_ctxs (s : State) (q : Nat) (f : Part → Part) : (s.modPart q f).ctxs = s.ctxs := rfl
@[simp] theorem State.modPart_regions (s : State) (q : Nat) (f : Part → Part) : (s.modPart q f).regions = s.regions := rfl
@[simp] theorem State.modPart_links (s : State) (q : Nat) (f : Part → Part) : (s.modPart q f).links = s.links := rfl
@[simp] theorem State.modPart_keys (s : State) (q : Nat) (f : Part → Part) : (s.modPart q f).keys = s.keys := rfl
@[simp] theorem State.modPart_dev (s : State) (q : Nat) (f : Part → Part) : (s.modPart q f).dev = s.dev := rfl
@[simp] theorem State.modPart_home (s : State) (q : Nat) (f : Part → Part) : (s.modPart q f).home = s.home := rfl

@[simp] theorem State.modPolder_tick (s : State) (p : Nat) (f : Polder → Polder) : (s.modPolder p f).tick = s.tick := rfl
@[simp] theorem State.modPolder_tickStep (s : State) (p : Nat) (f : Polder → Polder) : (s.modPolder p f).tickStep = s.tickStep := rfl
@[simp] theorem State.modPolder_slow (s : State) (p : Nat) (f : Polder → Polder) : (s.modPolder p f).slow = s.slow := rfl
@[simp] theorem State.modPolder_cmds (s : State) (p : Nat) (f : Polder → Polder) : (s.modPolder p f).cmds = s.cmds := rfl
@[simp] theorem State.modPolder_saved (s : State) (p : Nat) (f : Polder → Polder) : (s.modPolder p f).saved = s.saved := rfl
@[simp] theorem State.modPolder_cycle (s : State) (p : Nat) (f : Polder → Polder) : (s.modPolder p f).cycle = s.cycle := rfl
@[simp] theorem State.modPolder_stopped (s : State) (p : Nat) (f : Polder → Polder) : (s.modPolder p f).stopped = s.stopped := rfl
@[simp] theorem State.modPolder_agenda (s : State) (p : Nat) (f : Polder → Polder) : (s.modPolder p f).agenda = s.agenda := rfl
@[simp] theorem State.modPolder_tried (s : State) (p : Nat) (f : Polder → Polder) : (s.modPolder p f).tried = s.tried := rfl
@[simp] theorem State.modPolder_iss (s : State) (p : Nat) (f : Polder → Polder) : (s.modPolder p f).iss = s.iss := rfl
@[simp] theorem State.modPolder_free (s : State) (p : Nat) (f : Polder → Polder) : (s.modPolder p f).free = s.free := rfl
@[simp] theorem State.modPolder_cores (s : State) (p : Nat) (f : Polder → Polder) : (s.modPolder p f).cores = s.cores := rfl
@[simp] theorem State.modPolder_quarters (s : State) (p : Nat) (f : Polder → Polder) : (s.modPolder p f).quarters = s.quarters := rfl
@[simp] theorem State.modPolder_parts (s : State) (p : Nat) (f : Polder → Polder) : (s.modPolder p f).parts = s.parts := rfl
@[simp] theorem State.modPolder_teams (s : State) (p : Nat) (f : Polder → Polder) : (s.modPolder p f).teams = s.teams := rfl
@[simp] theorem State.modPolder_ops (s : State) (p : Nat) (f : Polder → Polder) : (s.modPolder p f).ops = s.ops := rfl
@[simp] theorem State.modPolder_wbq (s : State) (p : Nat) (f : Polder → Polder) : (s.modPolder p f).wbq = s.wbq := rfl
@[simp] theorem State.modPolder_launches (s : State) (p : Nat) (f : Polder → Polder) : (s.modPolder p f).launches = s.launches := rfl
@[simp] theorem State.modPolder_emits (s : State) (p : Nat) (f : Polder → Polder) : (s.modPolder p f).emits = s.emits := rfl
@[simp] theorem State.modPolder_regLog (s : State) (p : Nat) (f : Polder → Polder) : (s.modPolder p f).regLog = s.regLog := rfl
@[simp] theorem State.modPolder_ctxs (s : State) (p : Nat) (f : Polder → Polder) : (s.modPolder p f).ctxs = s.ctxs := rfl
@[simp] theorem State.modPolder_regions (s : State) (p : Nat) (f : Polder → Polder) : (s.modPolder p f).regions = s.regions := rfl
@[simp] theorem State.modPolder_links (s : State) (p : Nat) (f : Polder → Polder) : (s.modPolder p f).links = s.links := rfl
@[simp] theorem State.modPolder_keys (s : State) (p : Nat) (f : Polder → Polder) : (s.modPolder p f).keys = s.keys := rfl
@[simp] theorem State.modPolder_dev (s : State) (p : Nat) (f : Polder → Polder) : (s.modPolder p f).dev = s.dev := rfl
@[simp] theorem State.modPolder_home (s : State) (p : Nat) (f : Polder → Polder) : (s.modPolder p f).home = s.home := rfl

@[simp] theorem State.modCtx_tick (s : State) (n : Nat) (f : Ctx → Ctx) : (s.modCtx n f).tick = s.tick := rfl
@[simp] theorem State.modCtx_tickStep (s : State) (n : Nat) (f : Ctx → Ctx) : (s.modCtx n f).tickStep = s.tickStep := rfl
@[simp] theorem State.modCtx_slow (s : State) (n : Nat) (f : Ctx → Ctx) : (s.modCtx n f).slow = s.slow := rfl
@[simp] theorem State.modCtx_cmds (s : State) (n : Nat) (f : Ctx → Ctx) : (s.modCtx n f).cmds = s.cmds := rfl
@[simp] theorem State.modCtx_saved (s : State) (n : Nat) (f : Ctx → Ctx) : (s.modCtx n f).saved = s.saved := rfl
@[simp] theorem State.modCtx_cycle (s : State) (n : Nat) (f : Ctx → Ctx) : (s.modCtx n f).cycle = s.cycle := rfl
@[simp] theorem State.modCtx_stopped (s : State) (n : Nat) (f : Ctx → Ctx) : (s.modCtx n f).stopped = s.stopped := rfl
@[simp] theorem State.modCtx_agenda (s : State) (n : Nat) (f : Ctx → Ctx) : (s.modCtx n f).agenda = s.agenda := rfl
@[simp] theorem State.modCtx_tried (s : State) (n : Nat) (f : Ctx → Ctx) : (s.modCtx n f).tried = s.tried := rfl
@[simp] theorem State.modCtx_iss (s : State) (n : Nat) (f : Ctx → Ctx) : (s.modCtx n f).iss = s.iss := rfl
@[simp] theorem State.modCtx_free (s : State) (n : Nat) (f : Ctx → Ctx) : (s.modCtx n f).free = s.free := rfl
@[simp] theorem State.modCtx_cores (s : State) (n : Nat) (f : Ctx → Ctx) : (s.modCtx n f).cores = s.cores := rfl
@[simp] theorem State.modCtx_quarters (s : State) (n : Nat) (f : Ctx → Ctx) : (s.modCtx n f).quarters = s.quarters := rfl
@[simp] theorem State.modCtx_parts (s : State) (n : Nat) (f : Ctx → Ctx) : (s.modCtx n f).parts = s.parts := rfl
@[simp] theorem State.modCtx_polders (s : State) (n : Nat) (f : Ctx → Ctx) : (s.modCtx n f).polders = s.polders := rfl
@[simp] theorem State.modCtx_teams (s : State) (n : Nat) (f : Ctx → Ctx) : (s.modCtx n f).teams = s.teams := rfl
@[simp] theorem State.modCtx_ops (s : State) (n : Nat) (f : Ctx → Ctx) : (s.modCtx n f).ops = s.ops := rfl
@[simp] theorem State.modCtx_wbq (s : State) (n : Nat) (f : Ctx → Ctx) : (s.modCtx n f).wbq = s.wbq := rfl
@[simp] theorem State.modCtx_launches (s : State) (n : Nat) (f : Ctx → Ctx) : (s.modCtx n f).launches = s.launches := rfl
@[simp] theorem State.modCtx_emits (s : State) (n : Nat) (f : Ctx → Ctx) : (s.modCtx n f).emits = s.emits := rfl
@[simp] theorem State.modCtx_regLog (s : State) (n : Nat) (f : Ctx → Ctx) : (s.modCtx n f).regLog = s.regLog := rfl
@[simp] theorem State.modCtx_regions (s : State) (n : Nat) (f : Ctx → Ctx) : (s.modCtx n f).regions = s.regions := rfl
@[simp] theorem State.modCtx_links (s : State) (n : Nat) (f : Ctx → Ctx) : (s.modCtx n f).links = s.links := rfl
@[simp] theorem State.modCtx_keys (s : State) (n : Nat) (f : Ctx → Ctx) : (s.modCtx n f).keys = s.keys := rfl
@[simp] theorem State.modCtx_dev (s : State) (n : Nat) (f : Ctx → Ctx) : (s.modCtx n f).dev = s.dev := rfl
@[simp] theorem State.modCtx_home (s : State) (n : Nat) (f : Ctx → Ctx) : (s.modCtx n f).home = s.home := rfl

@[simp] theorem State.modRegion_tick (s : State) (r : Nat) (f : Region → Region) : (s.modRegion r f).tick = s.tick := rfl
@[simp] theorem State.modRegion_tickStep (s : State) (r : Nat) (f : Region → Region) : (s.modRegion r f).tickStep = s.tickStep := rfl
@[simp] theorem State.modRegion_slow (s : State) (r : Nat) (f : Region → Region) : (s.modRegion r f).slow = s.slow := rfl
@[simp] theorem State.modRegion_cmds (s : State) (r : Nat) (f : Region → Region) : (s.modRegion r f).cmds = s.cmds := rfl
@[simp] theorem State.modRegion_saved (s : State) (r : Nat) (f : Region → Region) : (s.modRegion r f).saved = s.saved := rfl
@[simp] theorem State.modRegion_cycle (s : State) (r : Nat) (f : Region → Region) : (s.modRegion r f).cycle = s.cycle := rfl
@[simp] theorem State.modRegion_stopped (s : State) (r : Nat) (f : Region → Region) : (s.modRegion r f).stopped = s.stopped := rfl
@[simp] theorem State.modRegion_agenda (s : State) (r : Nat) (f : Region → Region) : (s.modRegion r f).agenda = s.agenda := rfl
@[simp] theorem State.modRegion_tried (s : State) (r : Nat) (f : Region → Region) : (s.modRegion r f).tried = s.tried := rfl
@[simp] theorem State.modRegion_iss (s : State) (r : Nat) (f : Region → Region) : (s.modRegion r f).iss = s.iss := rfl
@[simp] theorem State.modRegion_free (s : State) (r : Nat) (f : Region → Region) : (s.modRegion r f).free = s.free := rfl
@[simp] theorem State.modRegion_cores (s : State) (r : Nat) (f : Region → Region) : (s.modRegion r f).cores = s.cores := rfl
@[simp] theorem State.modRegion_quarters (s : State) (r : Nat) (f : Region → Region) : (s.modRegion r f).quarters = s.quarters := rfl
@[simp] theorem State.modRegion_parts (s : State) (r : Nat) (f : Region → Region) : (s.modRegion r f).parts = s.parts := rfl
@[simp] theorem State.modRegion_polders (s : State) (r : Nat) (f : Region → Region) : (s.modRegion r f).polders = s.polders := rfl
@[simp] theorem State.modRegion_teams (s : State) (r : Nat) (f : Region → Region) : (s.modRegion r f).teams = s.teams := rfl
@[simp] theorem State.modRegion_ops (s : State) (r : Nat) (f : Region → Region) : (s.modRegion r f).ops = s.ops := rfl
@[simp] theorem State.modRegion_wbq (s : State) (r : Nat) (f : Region → Region) : (s.modRegion r f).wbq = s.wbq := rfl
@[simp] theorem State.modRegion_launches (s : State) (r : Nat) (f : Region → Region) : (s.modRegion r f).launches = s.launches := rfl
@[simp] theorem State.modRegion_emits (s : State) (r : Nat) (f : Region → Region) : (s.modRegion r f).emits = s.emits := rfl
@[simp] theorem State.modRegion_regLog (s : State) (r : Nat) (f : Region → Region) : (s.modRegion r f).regLog = s.regLog := rfl
@[simp] theorem State.modRegion_ctxs (s : State) (r : Nat) (f : Region → Region) : (s.modRegion r f).ctxs = s.ctxs := rfl
@[simp] theorem State.modRegion_links (s : State) (r : Nat) (f : Region → Region) : (s.modRegion r f).links = s.links := rfl
@[simp] theorem State.modRegion_keys (s : State) (r : Nat) (f : Region → Region) : (s.modRegion r f).keys = s.keys := rfl
@[simp] theorem State.modRegion_dev (s : State) (r : Nat) (f : Region → Region) : (s.modRegion r f).dev = s.dev := rfl
@[simp] theorem State.modRegion_home (s : State) (r : Nat) (f : Region → Region) : (s.modRegion r f).home = s.home := rfl

@[simp] theorem State.modLink_tick (s : State) (n : Nat) (f : Link → Link) : (s.modLink n f).tick = s.tick := rfl
@[simp] theorem State.modLink_tickStep (s : State) (n : Nat) (f : Link → Link) : (s.modLink n f).tickStep = s.tickStep := rfl
@[simp] theorem State.modLink_slow (s : State) (n : Nat) (f : Link → Link) : (s.modLink n f).slow = s.slow := rfl
@[simp] theorem State.modLink_cmds (s : State) (n : Nat) (f : Link → Link) : (s.modLink n f).cmds = s.cmds := rfl
@[simp] theorem State.modLink_saved (s : State) (n : Nat) (f : Link → Link) : (s.modLink n f).saved = s.saved := rfl
@[simp] theorem State.modLink_cycle (s : State) (n : Nat) (f : Link → Link) : (s.modLink n f).cycle = s.cycle := rfl
@[simp] theorem State.modLink_stopped (s : State) (n : Nat) (f : Link → Link) : (s.modLink n f).stopped = s.stopped := rfl
@[simp] theorem State.modLink_agenda (s : State) (n : Nat) (f : Link → Link) : (s.modLink n f).agenda = s.agenda := rfl
@[simp] theorem State.modLink_tried (s : State) (n : Nat) (f : Link → Link) : (s.modLink n f).tried = s.tried := rfl
@[simp] theorem State.modLink_iss (s : State) (n : Nat) (f : Link → Link) : (s.modLink n f).iss = s.iss := rfl
@[simp] theorem State.modLink_free (s : State) (n : Nat) (f : Link → Link) : (s.modLink n f).free = s.free := rfl
@[simp] theorem State.modLink_cores (s : State) (n : Nat) (f : Link → Link) : (s.modLink n f).cores = s.cores := rfl
@[simp] theorem State.modLink_quarters (s : State) (n : Nat) (f : Link → Link) : (s.modLink n f).quarters = s.quarters := rfl
@[simp] theorem State.modLink_parts (s : State) (n : Nat) (f : Link → Link) : (s.modLink n f).parts = s.parts := rfl
@[simp] theorem State.modLink_polders (s : State) (n : Nat) (f : Link → Link) : (s.modLink n f).polders = s.polders := rfl
@[simp] theorem State.modLink_teams (s : State) (n : Nat) (f : Link → Link) : (s.modLink n f).teams = s.teams := rfl
@[simp] theorem State.modLink_ops (s : State) (n : Nat) (f : Link → Link) : (s.modLink n f).ops = s.ops := rfl
@[simp] theorem State.modLink_wbq (s : State) (n : Nat) (f : Link → Link) : (s.modLink n f).wbq = s.wbq := rfl
@[simp] theorem State.modLink_launches (s : State) (n : Nat) (f : Link → Link) : (s.modLink n f).launches = s.launches := rfl
@[simp] theorem State.modLink_emits (s : State) (n : Nat) (f : Link → Link) : (s.modLink n f).emits = s.emits := rfl
@[simp] theorem State.modLink_regLog (s : State) (n : Nat) (f : Link → Link) : (s.modLink n f).regLog = s.regLog := rfl
@[simp] theorem State.modLink_ctxs (s : State) (n : Nat) (f : Link → Link) : (s.modLink n f).ctxs = s.ctxs := rfl
@[simp] theorem State.modLink_regions (s : State) (n : Nat) (f : Link → Link) : (s.modLink n f).regions = s.regions := rfl
@[simp] theorem State.modLink_keys (s : State) (n : Nat) (f : Link → Link) : (s.modLink n f).keys = s.keys := rfl
@[simp] theorem State.modLink_dev (s : State) (n : Nat) (f : Link → Link) : (s.modLink n f).dev = s.dev := rfl
@[simp] theorem State.modLink_home (s : State) (n : Nat) (f : Link → Link) : (s.modLink n f).home = s.home := rfl

@[simp] theorem State.modDev_tick (s : State) (f : Dev → Dev) : (s.modDev f).tick = s.tick := rfl
@[simp] theorem State.modDev_tickStep (s : State) (f : Dev → Dev) : (s.modDev f).tickStep = s.tickStep := rfl
@[simp] theorem State.modDev_slow (s : State) (f : Dev → Dev) : (s.modDev f).slow = s.slow := rfl
@[simp] theorem State.modDev_cmds (s : State) (f : Dev → Dev) : (s.modDev f).cmds = s.cmds := rfl
@[simp] theorem State.modDev_saved (s : State) (f : Dev → Dev) : (s.modDev f).saved = s.saved := rfl
@[simp] theorem State.modDev_cycle (s : State) (f : Dev → Dev) : (s.modDev f).cycle = s.cycle := rfl
@[simp] theorem State.modDev_stopped (s : State) (f : Dev → Dev) : (s.modDev f).stopped = s.stopped := rfl
@[simp] theorem State.modDev_agenda (s : State) (f : Dev → Dev) : (s.modDev f).agenda = s.agenda := rfl
@[simp] theorem State.modDev_tried (s : State) (f : Dev → Dev) : (s.modDev f).tried = s.tried := rfl
@[simp] theorem State.modDev_iss (s : State) (f : Dev → Dev) : (s.modDev f).iss = s.iss := rfl
@[simp] theorem State.modDev_free (s : State) (f : Dev → Dev) : (s.modDev f).free = s.free := rfl
@[simp] theorem State.modDev_cores (s : State) (f : Dev → Dev) : (s.modDev f).cores = s.cores := rfl
@[simp] theorem State.modDev_quarters (s : State) (f : Dev → Dev) : (s.modDev f).quarters = s.quarters := rfl
@[simp] theorem State.modDev_parts (s : State) (f : Dev → Dev) : (s.modDev f).parts = s.parts := rfl
@[simp] theorem State.modDev_polders (s : State) (f : Dev → Dev) : (s.modDev f).polders = s.polders := rfl
@[simp] theorem State.modDev_teams (s : State) (f : Dev → Dev) : (s.modDev f).teams = s.teams := rfl
@[simp] theorem State.modDev_ops (s : State) (f : Dev → Dev) : (s.modDev f).ops = s.ops := rfl
@[simp] theorem State.modDev_wbq (s : State) (f : Dev → Dev) : (s.modDev f).wbq = s.wbq := rfl
@[simp] theorem State.modDev_launches (s : State) (f : Dev → Dev) : (s.modDev f).launches = s.launches := rfl
@[simp] theorem State.modDev_emits (s : State) (f : Dev → Dev) : (s.modDev f).emits = s.emits := rfl
@[simp] theorem State.modDev_regLog (s : State) (f : Dev → Dev) : (s.modDev f).regLog = s.regLog := rfl
@[simp] theorem State.modDev_ctxs (s : State) (f : Dev → Dev) : (s.modDev f).ctxs = s.ctxs := rfl
@[simp] theorem State.modDev_regions (s : State) (f : Dev → Dev) : (s.modDev f).regions = s.regions := rfl
@[simp] theorem State.modDev_links (s : State) (f : Dev → Dev) : (s.modDev f).links = s.links := rfl
@[simp] theorem State.modDev_keys (s : State) (f : Dev → Dev) : (s.modDev f).keys = s.keys := rfl
@[simp] theorem State.modDev_home (s : State) (f : Dev → Dev) : (s.modDev f).home = s.home := rfl

@[simp] theorem State.modHome_tick (s : State) (f : Home → Home) : (s.modHome f).tick = s.tick := rfl
@[simp] theorem State.modHome_tickStep (s : State) (f : Home → Home) : (s.modHome f).tickStep = s.tickStep := rfl
@[simp] theorem State.modHome_slow (s : State) (f : Home → Home) : (s.modHome f).slow = s.slow := rfl
@[simp] theorem State.modHome_cmds (s : State) (f : Home → Home) : (s.modHome f).cmds = s.cmds := rfl
@[simp] theorem State.modHome_saved (s : State) (f : Home → Home) : (s.modHome f).saved = s.saved := rfl
@[simp] theorem State.modHome_cycle (s : State) (f : Home → Home) : (s.modHome f).cycle = s.cycle := rfl
@[simp] theorem State.modHome_stopped (s : State) (f : Home → Home) : (s.modHome f).stopped = s.stopped := rfl
@[simp] theorem State.modHome_agenda (s : State) (f : Home → Home) : (s.modHome f).agenda = s.agenda := rfl
@[simp] theorem State.modHome_tried (s : State) (f : Home → Home) : (s.modHome f).tried = s.tried := rfl
@[simp] theorem State.modHome_iss (s : State) (f : Home → Home) : (s.modHome f).iss = s.iss := rfl
@[simp] theorem State.modHome_free (s : State) (f : Home → Home) : (s.modHome f).free = s.free := rfl
@[simp] theorem State.modHome_cores (s : State) (f : Home → Home) : (s.modHome f).cores = s.cores := rfl
@[simp] theorem State.modHome_quarters (s : State) (f : Home → Home) : (s.modHome f).quarters = s.quarters := rfl
@[simp] theorem State.modHome_parts (s : State) (f : Home → Home) : (s.modHome f).parts = s.parts := rfl
@[simp] theorem State.modHome_polders (s : State) (f : Home → Home) : (s.modHome f).polders = s.polders := rfl
@[simp] theorem State.modHome_teams (s : State) (f : Home → Home) : (s.modHome f).teams = s.teams := rfl
@[simp] theorem State.modHome_ops (s : State) (f : Home → Home) : (s.modHome f).ops = s.ops := rfl
@[simp] theorem State.modHome_wbq (s : State) (f : Home → Home) : (s.modHome f).wbq = s.wbq := rfl
@[simp] theorem State.modHome_launches (s : State) (f : Home → Home) : (s.modHome f).launches = s.launches := rfl
@[simp] theorem State.modHome_emits (s : State) (f : Home → Home) : (s.modHome f).emits = s.emits := rfl
@[simp] theorem State.modHome_regLog (s : State) (f : Home → Home) : (s.modHome f).regLog = s.regLog := rfl
@[simp] theorem State.modHome_ctxs (s : State) (f : Home → Home) : (s.modHome f).ctxs = s.ctxs := rfl
@[simp] theorem State.modHome_regions (s : State) (f : Home → Home) : (s.modHome f).regions = s.regions := rfl
@[simp] theorem State.modHome_links (s : State) (f : Home → Home) : (s.modHome f).links = s.links := rfl
@[simp] theorem State.modHome_keys (s : State) (f : Home → Home) : (s.modHome f).keys = s.keys := rfl
@[simp] theorem State.modHome_dev (s : State) (f : Home → Home) : (s.modHome f).dev = s.dev := rfl

@[simp] theorem State.modTeam_tick (s : State) (n : Nat) (f : Team → Team) : (s.modTeam n f).tick = s.tick := rfl
@[simp] theorem State.modTeam_tickStep (s : State) (n : Nat) (f : Team → Team) : (s.modTeam n f).tickStep = s.tickStep := rfl
@[simp] theorem State.modTeam_slow (s : State) (n : Nat) (f : Team → Team) : (s.modTeam n f).slow = s.slow := rfl
@[simp] theorem State.modTeam_cmds (s : State) (n : Nat) (f : Team → Team) : (s.modTeam n f).cmds = s.cmds := rfl
@[simp] theorem State.modTeam_saved (s : State) (n : Nat) (f : Team → Team) : (s.modTeam n f).saved = s.saved := rfl
@[simp] theorem State.modTeam_cycle (s : State) (n : Nat) (f : Team → Team) : (s.modTeam n f).cycle = s.cycle := rfl
@[simp] theorem State.modTeam_stopped (s : State) (n : Nat) (f : Team → Team) : (s.modTeam n f).stopped = s.stopped := rfl
@[simp] theorem State.modTeam_agenda (s : State) (n : Nat) (f : Team → Team) : (s.modTeam n f).agenda = s.agenda := rfl
@[simp] theorem State.modTeam_tried (s : State) (n : Nat) (f : Team → Team) : (s.modTeam n f).tried = s.tried := rfl
@[simp] theorem State.modTeam_iss (s : State) (n : Nat) (f : Team → Team) : (s.modTeam n f).iss = s.iss := rfl
@[simp] theorem State.modTeam_free (s : State) (n : Nat) (f : Team → Team) : (s.modTeam n f).free = s.free := rfl
@[simp] theorem State.modTeam_cores (s : State) (n : Nat) (f : Team → Team) : (s.modTeam n f).cores = s.cores := rfl
@[simp] theorem State.modTeam_quarters (s : State) (n : Nat) (f : Team → Team) : (s.modTeam n f).quarters = s.quarters := rfl
@[simp] theorem State.modTeam_parts (s : State) (n : Nat) (f : Team → Team) : (s.modTeam n f).parts = s.parts := rfl
@[simp] theorem State.modTeam_polders (s : State) (n : Nat) (f : Team → Team) : (s.modTeam n f).polders = s.polders := rfl
@[simp] theorem State.modTeam_ops (s : State) (n : Nat) (f : Team → Team) : (s.modTeam n f).ops = s.ops := rfl
@[simp] theorem State.modTeam_wbq (s : State) (n : Nat) (f : Team → Team) : (s.modTeam n f).wbq = s.wbq := rfl
@[simp] theorem State.modTeam_launches (s : State) (n : Nat) (f : Team → Team) : (s.modTeam n f).launches = s.launches := rfl
@[simp] theorem State.modTeam_emits (s : State) (n : Nat) (f : Team → Team) : (s.modTeam n f).emits = s.emits := rfl
@[simp] theorem State.modTeam_regLog (s : State) (n : Nat) (f : Team → Team) : (s.modTeam n f).regLog = s.regLog := rfl
@[simp] theorem State.modTeam_ctxs (s : State) (n : Nat) (f : Team → Team) : (s.modTeam n f).ctxs = s.ctxs := rfl
@[simp] theorem State.modTeam_regions (s : State) (n : Nat) (f : Team → Team) : (s.modTeam n f).regions = s.regions := rfl
@[simp] theorem State.modTeam_links (s : State) (n : Nat) (f : Team → Team) : (s.modTeam n f).links = s.links := rfl
@[simp] theorem State.modTeam_keys (s : State) (n : Nat) (f : Team → Team) : (s.modTeam n f).keys = s.keys := rfl
@[simp] theorem State.modTeam_dev (s : State) (n : Nat) (f : Team → Team) : (s.modTeam n f).dev = s.dev := rfl
@[simp] theorem State.modTeam_home (s : State) (n : Nat) (f : Team → Team) : (s.modTeam n f).home = s.home := rfl

@[simp] theorem State.modGroup_tick (s : State) (r : GRef) (f : Group → Group) : (s.modGroup r f).tick = s.tick := rfl
@[simp] theorem State.modGroup_tickStep (s : State) (r : GRef) (f : Group → Group) : (s.modGroup r f).tickStep = s.tickStep := rfl
@[simp] theorem State.modGroup_slow (s : State) (r : GRef) (f : Group → Group) : (s.modGroup r f).slow = s.slow := rfl
@[simp] theorem State.modGroup_cmds (s : State) (r : GRef) (f : Group → Group) : (s.modGroup r f).cmds = s.cmds := rfl
@[simp] theorem State.modGroup_saved (s : State) (r : GRef) (f : Group → Group) : (s.modGroup r f).saved = s.saved := rfl
@[simp] theorem State.modGroup_cycle (s : State) (r : GRef) (f : Group → Group) : (s.modGroup r f).cycle = s.cycle := rfl
@[simp] theorem State.modGroup_stopped (s : State) (r : GRef) (f : Group → Group) : (s.modGroup r f).stopped = s.stopped := rfl
@[simp] theorem State.modGroup_agenda (s : State) (r : GRef) (f : Group → Group) : (s.modGroup r f).agenda = s.agenda := rfl
@[simp] theorem State.modGroup_tried (s : State) (r : GRef) (f : Group → Group) : (s.modGroup r f).tried = s.tried := rfl
@[simp] theorem State.modGroup_iss (s : State) (r : GRef) (f : Group → Group) : (s.modGroup r f).iss = s.iss := rfl
@[simp] theorem State.modGroup_free (s : State) (r : GRef) (f : Group → Group) : (s.modGroup r f).free = s.free := rfl
@[simp] theorem State.modGroup_cores (s : State) (r : GRef) (f : Group → Group) : (s.modGroup r f).cores = s.cores := rfl
@[simp] theorem State.modGroup_quarters (s : State) (r : GRef) (f : Group → Group) : (s.modGroup r f).quarters = s.quarters := rfl
@[simp] theorem State.modGroup_parts (s : State) (r : GRef) (f : Group → Group) : (s.modGroup r f).parts = s.parts := rfl
@[simp] theorem State.modGroup_polders (s : State) (r : GRef) (f : Group → Group) : (s.modGroup r f).polders = s.polders := rfl
@[simp] theorem State.modGroup_ops (s : State) (r : GRef) (f : Group → Group) : (s.modGroup r f).ops = s.ops := rfl
@[simp] theorem State.modGroup_wbq (s : State) (r : GRef) (f : Group → Group) : (s.modGroup r f).wbq = s.wbq := rfl
@[simp] theorem State.modGroup_launches (s : State) (r : GRef) (f : Group → Group) : (s.modGroup r f).launches = s.launches := rfl
@[simp] theorem State.modGroup_emits (s : State) (r : GRef) (f : Group → Group) : (s.modGroup r f).emits = s.emits := rfl
@[simp] theorem State.modGroup_regLog (s : State) (r : GRef) (f : Group → Group) : (s.modGroup r f).regLog = s.regLog := rfl
@[simp] theorem State.modGroup_ctxs (s : State) (r : GRef) (f : Group → Group) : (s.modGroup r f).ctxs = s.ctxs := rfl
@[simp] theorem State.modGroup_regions (s : State) (r : GRef) (f : Group → Group) : (s.modGroup r f).regions = s.regions := rfl
@[simp] theorem State.modGroup_links (s : State) (r : GRef) (f : Group → Group) : (s.modGroup r f).links = s.links := rfl
@[simp] theorem State.modGroup_keys (s : State) (r : GRef) (f : Group → Group) : (s.modGroup r f).keys = s.keys := rfl
@[simp] theorem State.modGroup_dev (s : State) (r : GRef) (f : Group → Group) : (s.modGroup r f).dev = s.dev := rfl
@[simp] theorem State.modGroup_home (s : State) (r : GRef) (f : Group → Group) : (s.modGroup r f).home = s.home := rfl

@[simp] theorem State.modLaunch_tick (s : State) (n : Nat) (f : Launch → Launch) : (s.modLaunch n f).tick = s.tick := rfl
@[simp] theorem State.modLaunch_tickStep (s : State) (n : Nat) (f : Launch → Launch) : (s.modLaunch n f).tickStep = s.tickStep := rfl
@[simp] theorem State.modLaunch_slow (s : State) (n : Nat) (f : Launch → Launch) : (s.modLaunch n f).slow = s.slow := rfl
@[simp] theorem State.modLaunch_cmds (s : State) (n : Nat) (f : Launch → Launch) : (s.modLaunch n f).cmds = s.cmds := rfl
@[simp] theorem State.modLaunch_saved (s : State) (n : Nat) (f : Launch → Launch) : (s.modLaunch n f).saved = s.saved := rfl
@[simp] theorem State.modLaunch_cycle (s : State) (n : Nat) (f : Launch → Launch) : (s.modLaunch n f).cycle = s.cycle := rfl
@[simp] theorem State.modLaunch_stopped (s : State) (n : Nat) (f : Launch → Launch) : (s.modLaunch n f).stopped = s.stopped := rfl
@[simp] theorem State.modLaunch_agenda (s : State) (n : Nat) (f : Launch → Launch) : (s.modLaunch n f).agenda = s.agenda := rfl
@[simp] theorem State.modLaunch_tried (s : State) (n : Nat) (f : Launch → Launch) : (s.modLaunch n f).tried = s.tried := rfl
@[simp] theorem State.modLaunch_iss (s : State) (n : Nat) (f : Launch → Launch) : (s.modLaunch n f).iss = s.iss := rfl
@[simp] theorem State.modLaunch_free (s : State) (n : Nat) (f : Launch → Launch) : (s.modLaunch n f).free = s.free := rfl
@[simp] theorem State.modLaunch_cores (s : State) (n : Nat) (f : Launch → Launch) : (s.modLaunch n f).cores = s.cores := rfl
@[simp] theorem State.modLaunch_quarters (s : State) (n : Nat) (f : Launch → Launch) : (s.modLaunch n f).quarters = s.quarters := rfl
@[simp] theorem State.modLaunch_parts (s : State) (n : Nat) (f : Launch → Launch) : (s.modLaunch n f).parts = s.parts := rfl
@[simp] theorem State.modLaunch_polders (s : State) (n : Nat) (f : Launch → Launch) : (s.modLaunch n f).polders = s.polders := rfl
@[simp] theorem State.modLaunch_teams (s : State) (n : Nat) (f : Launch → Launch) : (s.modLaunch n f).teams = s.teams := rfl
@[simp] theorem State.modLaunch_ops (s : State) (n : Nat) (f : Launch → Launch) : (s.modLaunch n f).ops = s.ops := rfl
@[simp] theorem State.modLaunch_wbq (s : State) (n : Nat) (f : Launch → Launch) : (s.modLaunch n f).wbq = s.wbq := rfl
@[simp] theorem State.modLaunch_emits (s : State) (n : Nat) (f : Launch → Launch) : (s.modLaunch n f).emits = s.emits := rfl
@[simp] theorem State.modLaunch_regLog (s : State) (n : Nat) (f : Launch → Launch) : (s.modLaunch n f).regLog = s.regLog := rfl
@[simp] theorem State.modLaunch_ctxs (s : State) (n : Nat) (f : Launch → Launch) : (s.modLaunch n f).ctxs = s.ctxs := rfl
@[simp] theorem State.modLaunch_regions (s : State) (n : Nat) (f : Launch → Launch) : (s.modLaunch n f).regions = s.regions := rfl
@[simp] theorem State.modLaunch_links (s : State) (n : Nat) (f : Launch → Launch) : (s.modLaunch n f).links = s.links := rfl
@[simp] theorem State.modLaunch_keys (s : State) (n : Nat) (f : Launch → Launch) : (s.modLaunch n f).keys = s.keys := rfl
@[simp] theorem State.modLaunch_dev (s : State) (n : Nat) (f : Launch → Launch) : (s.modLaunch n f).dev = s.dev := rfl
@[simp] theorem State.modLaunch_home (s : State) (n : Nat) (f : Launch → Launch) : (s.modLaunch n f).home = s.home := rfl

@[simp] theorem State.modOp_tick (s : State) (n : Nat) (f : MemOp → MemOp) : (s.modOp n f).tick = s.tick := rfl
@[simp] theorem State.modOp_tickStep (s : State) (n : Nat) (f : MemOp → MemOp) : (s.modOp n f).tickStep = s.tickStep := rfl
@[simp] theorem State.modOp_slow (s : State) (n : Nat) (f : MemOp → MemOp) : (s.modOp n f).slow = s.slow := rfl
@[simp] theorem State.modOp_cmds (s : State) (n : Nat) (f : MemOp → MemOp) : (s.modOp n f).cmds = s.cmds := rfl
@[simp] theorem State.modOp_saved (s : State) (n : Nat) (f : MemOp → MemOp) : (s.modOp n f).saved = s.saved := rfl
@[simp] theorem State.modOp_cycle (s : State) (n : Nat) (f : MemOp → MemOp) : (s.modOp n f).cycle = s.cycle := rfl
@[simp] theorem State.modOp_stopped (s : State) (n : Nat) (f : MemOp → MemOp) : (s.modOp n f).stopped = s.stopped := rfl
@[simp] theorem State.modOp_agenda (s : State) (n : Nat) (f : MemOp → MemOp) : (s.modOp n f).agenda = s.agenda := rfl
@[simp] theorem State.modOp_tried (s : State) (n : Nat) (f : MemOp → MemOp) : (s.modOp n f).tried = s.tried := rfl
@[simp] theorem State.modOp_iss (s : State) (n : Nat) (f : MemOp → MemOp) : (s.modOp n f).iss = s.iss := rfl
@[simp] theorem State.modOp_free (s : State) (n : Nat) (f : MemOp → MemOp) : (s.modOp n f).free = s.free := rfl
@[simp] theorem State.modOp_cores (s : State) (n : Nat) (f : MemOp → MemOp) : (s.modOp n f).cores = s.cores := rfl
@[simp] theorem State.modOp_quarters (s : State) (n : Nat) (f : MemOp → MemOp) : (s.modOp n f).quarters = s.quarters := rfl
@[simp] theorem State.modOp_parts (s : State) (n : Nat) (f : MemOp → MemOp) : (s.modOp n f).parts = s.parts := rfl
@[simp] theorem State.modOp_polders (s : State) (n : Nat) (f : MemOp → MemOp) : (s.modOp n f).polders = s.polders := rfl
@[simp] theorem State.modOp_teams (s : State) (n : Nat) (f : MemOp → MemOp) : (s.modOp n f).teams = s.teams := rfl
@[simp] theorem State.modOp_wbq (s : State) (n : Nat) (f : MemOp → MemOp) : (s.modOp n f).wbq = s.wbq := rfl
@[simp] theorem State.modOp_launches (s : State) (n : Nat) (f : MemOp → MemOp) : (s.modOp n f).launches = s.launches := rfl
@[simp] theorem State.modOp_emits (s : State) (n : Nat) (f : MemOp → MemOp) : (s.modOp n f).emits = s.emits := rfl
@[simp] theorem State.modOp_regLog (s : State) (n : Nat) (f : MemOp → MemOp) : (s.modOp n f).regLog = s.regLog := rfl
@[simp] theorem State.modOp_ctxs (s : State) (n : Nat) (f : MemOp → MemOp) : (s.modOp n f).ctxs = s.ctxs := rfl
@[simp] theorem State.modOp_regions (s : State) (n : Nat) (f : MemOp → MemOp) : (s.modOp n f).regions = s.regions := rfl
@[simp] theorem State.modOp_links (s : State) (n : Nat) (f : MemOp → MemOp) : (s.modOp n f).links = s.links := rfl
@[simp] theorem State.modOp_keys (s : State) (n : Nat) (f : MemOp → MemOp) : (s.modOp n f).keys = s.keys := rfl
@[simp] theorem State.modOp_dev (s : State) (n : Nat) (f : MemOp → MemOp) : (s.modOp n f).dev = s.dev := rfl
@[simp] theorem State.modOp_home (s : State) (n : Nat) (f : MemOp → MemOp) : (s.modOp n f).home = s.home := rfl

/-! ## Updates of a group -/

@[simp] theorem Group.setLine_num (g : Group) (i : Nat) (m : Lanes) (f : Nat → Word) : (g.setLine i m f).num = g.num := rfl
@[simp] theorem Group.setLine_role (g : Group) (i : Nat) (m : Lanes) (f : Nat → Word) : (g.setLine i m f).role = g.role := rfl
@[simp] theorem Group.setLine_started (g : Group) (i : Nat) (m : Lanes) (f : Nat → Word) : (g.setLine i m f).started = g.started := rfl
@[simp] theorem Group.setLine_slices (g : Group) (i : Nat) (m : Lanes) (f : Nat → Word) : (g.setLine i m f).slices = g.slices := rfl
@[simp] theorem Group.setLine_budget (g : Group) (i : Nat) (m : Lanes) (f : Nat → Word) : (g.setLine i m f).budget = g.budget := rfl
@[simp] theorem Group.setLine_spill (g : Group) (i : Nat) (m : Lanes) (f : Nat → Word) : (g.setLine i m f).spill = g.spill := rfl
@[simp] theorem Group.setLine_resident (g : Group) (i : Nat) (m : Lanes) (f : Nat → Word) : (g.setLine i m f).resident = g.resident := rfl
@[simp] theorem Group.setLine_scalars (g : Group) (i : Nat) (m : Lanes) (f : Nat → Word) : (g.setLine i m f).scalars = g.scalars := rfl
@[simp] theorem Group.setLine_preds (g : Group) (i : Nat) (m : Lanes) (f : Nat → Word) : (g.setLine i m f).preds = g.preds := rfl
@[simp] theorem Group.setLine_index (g : Group) (i : Nat) (m : Lanes) (f : Nat → Word) : (g.setLine i m f).index = g.index := rfl
@[simp] theorem Group.setLine_bases (g : Group) (i : Nat) (m : Lanes) (f : Nat → Word) : (g.setLine i m f).bases = g.bases := rfl
@[simp] theorem Group.setLine_acc (g : Group) (i : Nat) (m : Lanes) (f : Nat → Word) : (g.setLine i m f).acc = g.acc := rfl
@[simp] theorem Group.setLine_latch (g : Group) (i : Nat) (m : Lanes) (f : Nat → Word) : (g.setLine i m f).latch = if m = 0 then g.latch else g.latchWithout i := rfl
@[simp] theorem Group.setLine_restart (g : Group) (i : Nat) (m : Lanes) (f : Nat → Word) : (g.setLine i m f).restart = g.restart := rfl
@[simp] theorem Group.setLine_ctl (g : Group) (i : Nat) (m : Lanes) (f : Nat → Word) : (g.setLine i m f).ctl = g.ctl := rfl
@[simp] theorem Group.setLine_flt (g : Group) (i : Nat) (m : Lanes) (f : Nat → Word) : (g.setLine i m f).flt = g.flt := rfl
@[simp] theorem Group.setLine_origins (g : Group) (i : Nat) (m : Lanes) (f : Nat → Word) : (g.setLine i m f).origins = g.origins := rfl

@[simp] theorem Group.setV_num (g : Group) (n : Nat) (m : Lanes) (f : Nat → Word) : (g.setV n m f).num = g.num := rfl
@[simp] theorem Group.setV_role (g : Group) (n : Nat) (m : Lanes) (f : Nat → Word) : (g.setV n m f).role = g.role := rfl
@[simp] theorem Group.setV_started (g : Group) (n : Nat) (m : Lanes) (f : Nat → Word) : (g.setV n m f).started = g.started := rfl
@[simp] theorem Group.setV_slices (g : Group) (n : Nat) (m : Lanes) (f : Nat → Word) : (g.setV n m f).slices = g.slices := rfl
@[simp] theorem Group.setV_budget (g : Group) (n : Nat) (m : Lanes) (f : Nat → Word) : (g.setV n m f).budget = g.budget := rfl
@[simp] theorem Group.setV_spill (g : Group) (n : Nat) (m : Lanes) (f : Nat → Word) : (g.setV n m f).spill = g.spill := rfl
@[simp] theorem Group.setV_resident (g : Group) (n : Nat) (m : Lanes) (f : Nat → Word) : (g.setV n m f).resident = g.resident := rfl
@[simp] theorem Group.setV_scalars (g : Group) (n : Nat) (m : Lanes) (f : Nat → Word) : (g.setV n m f).scalars = g.scalars := rfl
@[simp] theorem Group.setV_preds (g : Group) (n : Nat) (m : Lanes) (f : Nat → Word) : (g.setV n m f).preds = g.preds := rfl
@[simp] theorem Group.setV_index (g : Group) (n : Nat) (m : Lanes) (f : Nat → Word) : (g.setV n m f).index = g.index := rfl
@[simp] theorem Group.setV_bases (g : Group) (n : Nat) (m : Lanes) (f : Nat → Word) : (g.setV n m f).bases = g.bases := rfl
@[simp] theorem Group.setV_acc (g : Group) (n : Nat) (m : Lanes) (f : Nat → Word) : (g.setV n m f).acc = g.acc := rfl
@[simp] theorem Group.setV_restart (g : Group) (n : Nat) (m : Lanes) (f : Nat → Word) : (g.setV n m f).restart = g.restart := rfl
@[simp] theorem Group.setV_ctl (g : Group) (n : Nat) (m : Lanes) (f : Nat → Word) : (g.setV n m f).ctl = g.ctl := rfl
@[simp] theorem Group.setV_flt (g : Group) (n : Nat) (m : Lanes) (f : Nat → Word) : (g.setV n m f).flt = g.flt := rfl
@[simp] theorem Group.setV_origins (g : Group) (n : Nat) (m : Lanes) (f : Nat → Word) : (g.setV n m f).origins = g.origins := rfl

@[simp] theorem Group.setV64_num (g : Group) (n : Nat) (m : Lanes) (f : Nat → DWord) : (g.setV64 n m f).num = g.num := rfl
@[simp] theorem Group.setV64_role (g : Group) (n : Nat) (m : Lanes) (f : Nat → DWord) : (g.setV64 n m f).role = g.role := rfl
@[simp] theorem Group.setV64_started (g : Group) (n : Nat) (m : Lanes) (f : Nat → DWord) : (g.setV64 n m f).started = g.started := rfl
@[simp] theorem Group.setV64_slices (g : Group) (n : Nat) (m : Lanes) (f : Nat → DWord) : (g.setV64 n m f).slices = g.slices := rfl
@[simp] theorem Group.setV64_budget (g : Group) (n : Nat) (m : Lanes) (f : Nat → DWord) : (g.setV64 n m f).budget = g.budget := rfl
@[simp] theorem Group.setV64_spill (g : Group) (n : Nat) (m : Lanes) (f : Nat → DWord) : (g.setV64 n m f).spill = g.spill := rfl
@[simp] theorem Group.setV64_resident (g : Group) (n : Nat) (m : Lanes) (f : Nat → DWord) : (g.setV64 n m f).resident = g.resident := rfl
@[simp] theorem Group.setV64_scalars (g : Group) (n : Nat) (m : Lanes) (f : Nat → DWord) : (g.setV64 n m f).scalars = g.scalars := rfl
@[simp] theorem Group.setV64_preds (g : Group) (n : Nat) (m : Lanes) (f : Nat → DWord) : (g.setV64 n m f).preds = g.preds := rfl
@[simp] theorem Group.setV64_index (g : Group) (n : Nat) (m : Lanes) (f : Nat → DWord) : (g.setV64 n m f).index = g.index := rfl
@[simp] theorem Group.setV64_bases (g : Group) (n : Nat) (m : Lanes) (f : Nat → DWord) : (g.setV64 n m f).bases = g.bases := rfl
@[simp] theorem Group.setV64_acc (g : Group) (n : Nat) (m : Lanes) (f : Nat → DWord) : (g.setV64 n m f).acc = g.acc := rfl
@[simp] theorem Group.setV64_restart (g : Group) (n : Nat) (m : Lanes) (f : Nat → DWord) : (g.setV64 n m f).restart = g.restart := rfl
@[simp] theorem Group.setV64_ctl (g : Group) (n : Nat) (m : Lanes) (f : Nat → DWord) : (g.setV64 n m f).ctl = g.ctl := rfl
@[simp] theorem Group.setV64_flt (g : Group) (n : Nat) (m : Lanes) (f : Nat → DWord) : (g.setV64 n m f).flt = g.flt := rfl
@[simp] theorem Group.setV64_origins (g : Group) (n : Nat) (m : Lanes) (f : Nat → DWord) : (g.setV64 n m f).origins = g.origins := rfl

@[simp] theorem Group.setS_num (g : Group) (n : Nat) (x : DWord) : (g.setS n x).num = g.num := rfl
@[simp] theorem Group.setS_role (g : Group) (n : Nat) (x : DWord) : (g.setS n x).role = g.role := rfl
@[simp] theorem Group.setS_started (g : Group) (n : Nat) (x : DWord) : (g.setS n x).started = g.started := rfl
@[simp] theorem Group.setS_slices (g : Group) (n : Nat) (x : DWord) : (g.setS n x).slices = g.slices := rfl
@[simp] theorem Group.setS_budget (g : Group) (n : Nat) (x : DWord) : (g.setS n x).budget = g.budget := rfl
@[simp] theorem Group.setS_spill (g : Group) (n : Nat) (x : DWord) : (g.setS n x).spill = g.spill := rfl
@[simp] theorem Group.setS_lines (g : Group) (n : Nat) (x : DWord) : (g.setS n x).lines = g.lines := rfl
@[simp] theorem Group.setS_resident (g : Group) (n : Nat) (x : DWord) : (g.setS n x).resident = g.resident := rfl
@[simp] theorem Group.setS_dirty (g : Group) (n : Nat) (x : DWord) : (g.setS n x).dirty = g.dirty := rfl
@[simp] theorem Group.setS_lineErrs (g : Group) (n : Nat) (x : DWord) : (g.setS n x).lineErrs = g.lineErrs := rfl
@[simp] theorem Group.setS_preds (g : Group) (n : Nat) (x : DWord) : (g.setS n x).preds = g.preds := rfl
@[simp] theorem Group.setS_index (g : Group) (n : Nat) (x : DWord) : (g.setS n x).index = g.index := rfl
@[simp] theorem Group.setS_bases (g : Group) (n : Nat) (x : DWord) : (g.setS n x).bases = g.bases := rfl
@[simp] theorem Group.setS_acc (g : Group) (n : Nat) (x : DWord) : (g.setS n x).acc = g.acc := rfl
@[simp] theorem Group.setS_latch (g : Group) (n : Nat) (x : DWord) : (g.setS n x).latch = g.latch := rfl
@[simp] theorem Group.setS_restart (g : Group) (n : Nat) (x : DWord) : (g.setS n x).restart = g.restart := rfl
@[simp] theorem Group.setS_ctl (g : Group) (n : Nat) (x : DWord) : (g.setS n x).ctl = g.ctl := rfl
@[simp] theorem Group.setS_flt (g : Group) (n : Nat) (x : DWord) : (g.setS n x).flt = g.flt := rfl
@[simp] theorem Group.setS_origins (g : Group) (n : Nat) (x : DWord) : (g.setS n x).origins = g.origins := rfl

@[simp] theorem Group.setX_num (g : Group) (n : Nat) (m : Lanes) (f : Nat → BitVec 16) : (g.setX n m f).num = g.num := rfl
@[simp] theorem Group.setX_role (g : Group) (n : Nat) (m : Lanes) (f : Nat → BitVec 16) : (g.setX n m f).role = g.role := rfl
@[simp] theorem Group.setX_started (g : Group) (n : Nat) (m : Lanes) (f : Nat → BitVec 16) : (g.setX n m f).started = g.started := rfl
@[simp] theorem Group.setX_slices (g : Group) (n : Nat) (m : Lanes) (f : Nat → BitVec 16) : (g.setX n m f).slices = g.slices := rfl
@[simp] theorem Group.setX_budget (g : Group) (n : Nat) (m : Lanes) (f : Nat → BitVec 16) : (g.setX n m f).budget = g.budget := rfl
@[simp] theorem Group.setX_spill (g : Group) (n : Nat) (m : Lanes) (f : Nat → BitVec 16) : (g.setX n m f).spill = g.spill := rfl
@[simp] theorem Group.setX_lines (g : Group) (n : Nat) (m : Lanes) (f : Nat → BitVec 16) : (g.setX n m f).lines = g.lines := rfl
@[simp] theorem Group.setX_resident (g : Group) (n : Nat) (m : Lanes) (f : Nat → BitVec 16) : (g.setX n m f).resident = g.resident := rfl
@[simp] theorem Group.setX_dirty (g : Group) (n : Nat) (m : Lanes) (f : Nat → BitVec 16) : (g.setX n m f).dirty = g.dirty := rfl
@[simp] theorem Group.setX_lineErrs (g : Group) (n : Nat) (m : Lanes) (f : Nat → BitVec 16) : (g.setX n m f).lineErrs = g.lineErrs := rfl
@[simp] theorem Group.setX_scalars (g : Group) (n : Nat) (m : Lanes) (f : Nat → BitVec 16) : (g.setX n m f).scalars = g.scalars := rfl
@[simp] theorem Group.setX_preds (g : Group) (n : Nat) (m : Lanes) (f : Nat → BitVec 16) : (g.setX n m f).preds = g.preds := rfl
@[simp] theorem Group.setX_bases (g : Group) (n : Nat) (m : Lanes) (f : Nat → BitVec 16) : (g.setX n m f).bases = g.bases := rfl
@[simp] theorem Group.setX_acc (g : Group) (n : Nat) (m : Lanes) (f : Nat → BitVec 16) : (g.setX n m f).acc = g.acc := rfl
@[simp] theorem Group.setX_latch (g : Group) (n : Nat) (m : Lanes) (f : Nat → BitVec 16) : (g.setX n m f).latch = g.latch := rfl
@[simp] theorem Group.setX_restart (g : Group) (n : Nat) (m : Lanes) (f : Nat → BitVec 16) : (g.setX n m f).restart = g.restart := rfl
@[simp] theorem Group.setX_ctl (g : Group) (n : Nat) (m : Lanes) (f : Nat → BitVec 16) : (g.setX n m f).ctl = g.ctl := rfl
@[simp] theorem Group.setX_flt (g : Group) (n : Nat) (m : Lanes) (f : Nat → BitVec 16) : (g.setX n m f).flt = g.flt := rfl
@[simp] theorem Group.setX_origins (g : Group) (n : Nat) (m : Lanes) (f : Nat → BitVec 16) : (g.setX n m f).origins = g.origins := rfl

@[simp] theorem Group.modSlices_num (g : Group) (m : BitVec 8) (f : Nat → Slice → Slice) : (g.modSlices m f).num = g.num := rfl
@[simp] theorem Group.modSlices_role (g : Group) (m : BitVec 8) (f : Nat → Slice → Slice) : (g.modSlices m f).role = g.role := rfl
@[simp] theorem Group.modSlices_started (g : Group) (m : BitVec 8) (f : Nat → Slice → Slice) : (g.modSlices m f).started = g.started := rfl
@[simp] theorem Group.modSlices_budget (g : Group) (m : BitVec 8) (f : Nat → Slice → Slice) : (g.modSlices m f).budget = g.budget := rfl
@[simp] theorem Group.modSlices_spill (g : Group) (m : BitVec 8) (f : Nat → Slice → Slice) : (g.modSlices m f).spill = g.spill := rfl
@[simp] theorem Group.modSlices_lines (g : Group) (m : BitVec 8) (f : Nat → Slice → Slice) : (g.modSlices m f).lines = g.lines := rfl
@[simp] theorem Group.modSlices_resident (g : Group) (m : BitVec 8) (f : Nat → Slice → Slice) : (g.modSlices m f).resident = g.resident := rfl
@[simp] theorem Group.modSlices_dirty (g : Group) (m : BitVec 8) (f : Nat → Slice → Slice) : (g.modSlices m f).dirty = g.dirty := rfl
@[simp] theorem Group.modSlices_lineErrs (g : Group) (m : BitVec 8) (f : Nat → Slice → Slice) : (g.modSlices m f).lineErrs = g.lineErrs := rfl
@[simp] theorem Group.modSlices_scalars (g : Group) (m : BitVec 8) (f : Nat → Slice → Slice) : (g.modSlices m f).scalars = g.scalars := rfl
@[simp] theorem Group.modSlices_preds (g : Group) (m : BitVec 8) (f : Nat → Slice → Slice) : (g.modSlices m f).preds = g.preds := rfl
@[simp] theorem Group.modSlices_index (g : Group) (m : BitVec 8) (f : Nat → Slice → Slice) : (g.modSlices m f).index = g.index := rfl
@[simp] theorem Group.modSlices_bases (g : Group) (m : BitVec 8) (f : Nat → Slice → Slice) : (g.modSlices m f).bases = g.bases := rfl
@[simp] theorem Group.modSlices_acc (g : Group) (m : BitVec 8) (f : Nat → Slice → Slice) : (g.modSlices m f).acc = g.acc := rfl
@[simp] theorem Group.modSlices_latch (g : Group) (m : BitVec 8) (f : Nat → Slice → Slice) : (g.modSlices m f).latch = g.latch := rfl
@[simp] theorem Group.modSlices_restart (g : Group) (m : BitVec 8) (f : Nat → Slice → Slice) : (g.modSlices m f).restart = g.restart := rfl
@[simp] theorem Group.modSlices_ctl (g : Group) (m : BitVec 8) (f : Nat → Slice → Slice) : (g.modSlices m f).ctl = g.ctl := rfl
@[simp] theorem Group.modSlices_flt (g : Group) (m : BitVec 8) (f : Nat → Slice → Slice) : (g.modSlices m f).flt = g.flt := rfl
@[simp] theorem Group.modSlices_origins (g : Group) (m : BitVec 8) (f : Nat → Slice → Slice) : (g.modSlices m f).origins = g.origins := rfl

@[simp] theorem Group.modCtl_num (g : Group) (f : Ctl → Ctl) : (g.modCtl f).num = g.num := rfl
@[simp] theorem Group.modCtl_role (g : Group) (f : Ctl → Ctl) : (g.modCtl f).role = g.role := rfl
@[simp] theorem Group.modCtl_started (g : Group) (f : Ctl → Ctl) : (g.modCtl f).started = g.started := rfl
@[simp] theorem Group.modCtl_slices (g : Group) (f : Ctl → Ctl) : (g.modCtl f).slices = g.slices := rfl
@[simp] theorem Group.modCtl_budget (g : Group) (f : Ctl → Ctl) : (g.modCtl f).budget = g.budget := rfl
@[simp] theorem Group.modCtl_spill (g : Group) (f : Ctl → Ctl) : (g.modCtl f).spill = g.spill := rfl
@[simp] theorem Group.modCtl_lines (g : Group) (f : Ctl → Ctl) : (g.modCtl f).lines = g.lines := rfl
@[simp] theorem Group.modCtl_resident (g : Group) (f : Ctl → Ctl) : (g.modCtl f).resident = g.resident := rfl
@[simp] theorem Group.modCtl_dirty (g : Group) (f : Ctl → Ctl) : (g.modCtl f).dirty = g.dirty := rfl
@[simp] theorem Group.modCtl_lineErrs (g : Group) (f : Ctl → Ctl) : (g.modCtl f).lineErrs = g.lineErrs := rfl
@[simp] theorem Group.modCtl_scalars (g : Group) (f : Ctl → Ctl) : (g.modCtl f).scalars = g.scalars := rfl
@[simp] theorem Group.modCtl_preds (g : Group) (f : Ctl → Ctl) : (g.modCtl f).preds = g.preds := rfl
@[simp] theorem Group.modCtl_index (g : Group) (f : Ctl → Ctl) : (g.modCtl f).index = g.index := rfl
@[simp] theorem Group.modCtl_bases (g : Group) (f : Ctl → Ctl) : (g.modCtl f).bases = g.bases := rfl
@[simp] theorem Group.modCtl_acc (g : Group) (f : Ctl → Ctl) : (g.modCtl f).acc = g.acc := rfl
@[simp] theorem Group.modCtl_latch (g : Group) (f : Ctl → Ctl) : (g.modCtl f).latch = g.latch := rfl
@[simp] theorem Group.modCtl_restart (g : Group) (f : Ctl → Ctl) : (g.modCtl f).restart = g.restart := rfl
@[simp] theorem Group.modCtl_flt (g : Group) (f : Ctl → Ctl) : (g.modCtl f).flt = g.flt := rfl
@[simp] theorem Group.modCtl_origins (g : Group) (f : Ctl → Ctl) : (g.modCtl f).origins = g.origins := rfl

@[simp] theorem Group.modFlt_num (g : Group) (f : Flt → Flt) : (g.modFlt f).num = g.num := rfl
@[simp] theorem Group.modFlt_role (g : Group) (f : Flt → Flt) : (g.modFlt f).role = g.role := rfl
@[simp] theorem Group.modFlt_started (g : Group) (f : Flt → Flt) : (g.modFlt f).started = g.started := rfl
@[simp] theorem Group.modFlt_slices (g : Group) (f : Flt → Flt) : (g.modFlt f).slices = g.slices := rfl
@[simp] theorem Group.modFlt_budget (g : Group) (f : Flt → Flt) : (g.modFlt f).budget = g.budget := rfl
@[simp] theorem Group.modFlt_spill (g : Group) (f : Flt → Flt) : (g.modFlt f).spill = g.spill := rfl
@[simp] theorem Group.modFlt_lines (g : Group) (f : Flt → Flt) : (g.modFlt f).lines = g.lines := rfl
@[simp] theorem Group.modFlt_resident (g : Group) (f : Flt → Flt) : (g.modFlt f).resident = g.resident := rfl
@[simp] theorem Group.modFlt_dirty (g : Group) (f : Flt → Flt) : (g.modFlt f).dirty = g.dirty := rfl
@[simp] theorem Group.modFlt_lineErrs (g : Group) (f : Flt → Flt) : (g.modFlt f).lineErrs = g.lineErrs := rfl
@[simp] theorem Group.modFlt_scalars (g : Group) (f : Flt → Flt) : (g.modFlt f).scalars = g.scalars := rfl
@[simp] theorem Group.modFlt_preds (g : Group) (f : Flt → Flt) : (g.modFlt f).preds = g.preds := rfl
@[simp] theorem Group.modFlt_index (g : Group) (f : Flt → Flt) : (g.modFlt f).index = g.index := rfl
@[simp] theorem Group.modFlt_bases (g : Group) (f : Flt → Flt) : (g.modFlt f).bases = g.bases := rfl
@[simp] theorem Group.modFlt_acc (g : Group) (f : Flt → Flt) : (g.modFlt f).acc = g.acc := rfl
@[simp] theorem Group.modFlt_latch (g : Group) (f : Flt → Flt) : (g.modFlt f).latch = g.latch := rfl
@[simp] theorem Group.modFlt_restart (g : Group) (f : Flt → Flt) : (g.modFlt f).restart = g.restart := rfl
@[simp] theorem Group.modFlt_ctl (g : Group) (f : Flt → Flt) : (g.modFlt f).ctl = g.ctl := rfl
@[simp] theorem Group.modFlt_origins (g : Group) (f : Flt → Flt) : (g.modFlt f).origins = g.origins := rfl

@[simp] theorem Group.setP_num (g : Group) (n : Nat) (m b : Lanes) : (g.setP n m b).num = g.num := by unfold Group.setP; split <;> rfl
@[simp] theorem Group.setP_role (g : Group) (n : Nat) (m b : Lanes) : (g.setP n m b).role = g.role := by unfold Group.setP; split <;> rfl
@[simp] theorem Group.setP_started (g : Group) (n : Nat) (m b : Lanes) : (g.setP n m b).started = g.started := by unfold Group.setP; split <;> rfl
@[simp] theorem Group.setP_slices (g : Group) (n : Nat) (m b : Lanes) : (g.setP n m b).slices = g.slices := by unfold Group.setP; split <;> rfl
@[simp] theorem Group.setP_budget (g : Group) (n : Nat) (m b : Lanes) : (g.setP n m b).budget = g.budget := by unfold Group.setP; split <;> rfl
@[simp] theorem Group.setP_spill (g : Group) (n : Nat) (m b : Lanes) : (g.setP n m b).spill = g.spill := by unfold Group.setP; split <;> rfl
@[simp] theorem Group.setP_lines (g : Group) (n : Nat) (m b : Lanes) : (g.setP n m b).lines = g.lines := by unfold Group.setP; split <;> rfl
@[simp] theorem Group.setP_resident (g : Group) (n : Nat) (m b : Lanes) : (g.setP n m b).resident = g.resident := by unfold Group.setP; split <;> rfl
@[simp] theorem Group.setP_dirty (g : Group) (n : Nat) (m b : Lanes) : (g.setP n m b).dirty = g.dirty := by unfold Group.setP; split <;> rfl
@[simp] theorem Group.setP_lineErrs (g : Group) (n : Nat) (m b : Lanes) : (g.setP n m b).lineErrs = g.lineErrs := by unfold Group.setP; split <;> rfl
@[simp] theorem Group.setP_scalars (g : Group) (n : Nat) (m b : Lanes) : (g.setP n m b).scalars = g.scalars := by unfold Group.setP; split <;> rfl
@[simp] theorem Group.setP_index (g : Group) (n : Nat) (m b : Lanes) : (g.setP n m b).index = g.index := by unfold Group.setP; split <;> rfl
@[simp] theorem Group.setP_bases (g : Group) (n : Nat) (m b : Lanes) : (g.setP n m b).bases = g.bases := by unfold Group.setP; split <;> rfl
@[simp] theorem Group.setP_acc (g : Group) (n : Nat) (m b : Lanes) : (g.setP n m b).acc = g.acc := by unfold Group.setP; split <;> rfl
@[simp] theorem Group.setP_latch (g : Group) (n : Nat) (m b : Lanes) : (g.setP n m b).latch = g.latch := by unfold Group.setP; split <;> rfl
@[simp] theorem Group.setP_restart (g : Group) (n : Nat) (m b : Lanes) : (g.setP n m b).restart = g.restart := by unfold Group.setP; split <;> rfl
@[simp] theorem Group.setP_ctl (g : Group) (n : Nat) (m b : Lanes) : (g.setP n m b).ctl = g.ctl := by unfold Group.setP; split <;> rfl
@[simp] theorem Group.setP_flt (g : Group) (n : Nat) (m b : Lanes) : (g.setP n m b).flt = g.flt := by unfold Group.setP; split <;> rfl
@[simp] theorem Group.setP_origins (g : Group) (n : Nat) (m b : Lanes) : (g.setP n m b).origins = g.origins := by unfold Group.setP; split <;> rfl
@[simp] theorem Group.setVN_num (g : Group) (n : Nat) (m : Lanes) (f : Nat → Nat) (k : Nat) : (g.setVN n m f k).num = g.num := by
  induction k generalizing g n f with
  | zero => rfl
  | succ k ih => exact ih ..
@[simp] theorem Group.setVN_role (g : Group) (n : Nat) (m : Lanes) (f : Nat → Nat) (k : Nat) : (g.setVN n m f k).role = g.role := by
  induction k generalizing g n f with
  | zero => rfl
  | succ k ih => exact ih ..
@[simp] theorem Group.setVN_started (g : Group) (n : Nat) (m : Lanes) (f : Nat → Nat) (k : Nat) : (g.setVN n m f k).started = g.started := by
  induction k generalizing g n f with
  | zero => rfl
  | succ k ih => exact ih ..
@[simp] theorem Group.setVN_slices (g : Group) (n : Nat) (m : Lanes) (f : Nat → Nat) (k : Nat) : (g.setVN n m f k).slices = g.slices := by
  induction k generalizing g n f with
  | zero => rfl
  | succ k ih => exact ih ..
@[simp] theorem Group.setVN_budget (g : Group) (n : Nat) (m : Lanes) (f : Nat → Nat) (k : Nat) : (g.setVN n m f k).budget = g.budget := by
  induction k generalizing g n f with
  | zero => rfl
  | succ k ih => exact ih ..
@[simp] theorem Group.setVN_spill (g : Group) (n : Nat) (m : Lanes) (f : Nat → Nat) (k : Nat) : (g.setVN n m f k).spill = g.spill := by
  induction k generalizing g n f with
  | zero => rfl
  | succ k ih => exact ih ..
@[simp] theorem Group.setVN_resident (g : Group) (n : Nat) (m : Lanes) (f : Nat → Nat) (k : Nat) : (g.setVN n m f k).resident = g.resident := by
  induction k generalizing g n f with
  | zero => rfl
  | succ k ih => exact ih ..
@[simp] theorem Group.setVN_scalars (g : Group) (n : Nat) (m : Lanes) (f : Nat → Nat) (k : Nat) : (g.setVN n m f k).scalars = g.scalars := by
  induction k generalizing g n f with
  | zero => rfl
  | succ k ih => exact ih ..
@[simp] theorem Group.setVN_preds (g : Group) (n : Nat) (m : Lanes) (f : Nat → Nat) (k : Nat) : (g.setVN n m f k).preds = g.preds := by
  induction k generalizing g n f with
  | zero => rfl
  | succ k ih => exact ih ..
@[simp] theorem Group.setVN_index (g : Group) (n : Nat) (m : Lanes) (f : Nat → Nat) (k : Nat) : (g.setVN n m f k).index = g.index := by
  induction k generalizing g n f with
  | zero => rfl
  | succ k ih => exact ih ..
@[simp] theorem Group.setVN_bases (g : Group) (n : Nat) (m : Lanes) (f : Nat → Nat) (k : Nat) : (g.setVN n m f k).bases = g.bases := by
  induction k generalizing g n f with
  | zero => rfl
  | succ k ih => exact ih ..
@[simp] theorem Group.setVN_acc (g : Group) (n : Nat) (m : Lanes) (f : Nat → Nat) (k : Nat) : (g.setVN n m f k).acc = g.acc := by
  induction k generalizing g n f with
  | zero => rfl
  | succ k ih => exact ih ..
@[simp] theorem Group.setVN_restart (g : Group) (n : Nat) (m : Lanes) (f : Nat → Nat) (k : Nat) : (g.setVN n m f k).restart = g.restart := by
  induction k generalizing g n f with
  | zero => rfl
  | succ k ih => exact ih ..
@[simp] theorem Group.setVN_ctl (g : Group) (n : Nat) (m : Lanes) (f : Nat → Nat) (k : Nat) : (g.setVN n m f k).ctl = g.ctl := by
  induction k generalizing g n f with
  | zero => rfl
  | succ k ih => exact ih ..
@[simp] theorem Group.setVN_flt (g : Group) (n : Nat) (m : Lanes) (f : Nat → Nat) (k : Nat) : (g.setVN n m f k).flt = g.flt := by
  induction k generalizing g n f with
  | zero => rfl
  | succ k ih => exact ih ..
@[simp] theorem Group.setVN_origins (g : Group) (n : Nat) (m : Lanes) (f : Nat → Nat) (k : Nat) : (g.setVN n m f k).origins = g.origins := by
  induction k generalizing g n f with
  | zero => rfl
  | succ k ih => exact ih ..
@[simp] theorem Group.settle_num (g : Group) : g.settle.num = g.num := by unfold Group.settle; split <;> rfl
@[simp] theorem Group.settle_role (g : Group) : g.settle.role = g.role := by unfold Group.settle; split <;> rfl
@[simp] theorem Group.settle_started (g : Group) : g.settle.started = g.started := by unfold Group.settle; split <;> rfl
@[simp] theorem Group.settle_budget (g : Group) : g.settle.budget = g.budget := by unfold Group.settle; split <;> rfl
@[simp] theorem Group.settle_spill (g : Group) : g.settle.spill = g.spill := by unfold Group.settle; split <;> rfl
@[simp] theorem Group.settle_lines (g : Group) : g.settle.lines = g.lines := by unfold Group.settle; split <;> rfl
@[simp] theorem Group.settle_resident (g : Group) : g.settle.resident = g.resident := by unfold Group.settle; split <;> rfl
@[simp] theorem Group.settle_dirty (g : Group) : g.settle.dirty = g.dirty := by unfold Group.settle; split <;> rfl
@[simp] theorem Group.settle_lineErrs (g : Group) : g.settle.lineErrs = g.lineErrs := by unfold Group.settle; split <;> rfl
@[simp] theorem Group.settle_scalars (g : Group) : g.settle.scalars = g.scalars := by unfold Group.settle; split <;> rfl
@[simp] theorem Group.settle_preds (g : Group) : g.settle.preds = g.preds := by unfold Group.settle; split <;> rfl
@[simp] theorem Group.settle_index (g : Group) : g.settle.index = g.index := by unfold Group.settle; split <;> rfl
@[simp] theorem Group.settle_bases (g : Group) : g.settle.bases = g.bases := by unfold Group.settle; split <;> rfl
@[simp] theorem Group.settle_acc (g : Group) : g.settle.acc = g.acc := by unfold Group.settle; split <;> rfl
@[simp] theorem Group.settle_latch (g : Group) : g.settle.latch = g.latch := by unfold Group.settle; split <;> rfl
@[simp] theorem Group.settle_restart (g : Group) : g.settle.restart = g.restart := by unfold Group.settle; split <;> rfl
@[simp] theorem Group.settle_ctl (g : Group) : g.settle.ctl = g.ctl := by unfold Group.settle; split <;> rfl
@[simp] theorem Group.settle_flt (g : Group) : g.settle.flt = g.flt := by unfold Group.settle; split <;> rfl
@[simp] theorem Group.settle_origins (g : Group) : g.settle.origins = g.origins := by unfold Group.settle; split <;> rfl

/-! ## Updates of a team -/

@[simp] theorem Team.modGroup_id (t : Team) (g : Nat) (f : Group → Group) : (t.modGroup g f).id = t.id := by unfold Team.modGroup; split <;> rfl
@[simp] theorem Team.modGroup_launch (t : Team) (g : Nat) (f : Group → Group) : (t.modGroup g f).launch = t.launch := by unfold Team.modGroup; split <;> rfl
@[simp] theorem Team.modGroup_node (t : Team) (g : Nat) (f : Group → Group) : (t.modGroup g f).node = t.node := by unfold Team.modGroup; split <;> rfl
@[simp] theorem Team.modGroup_imageSlot (t : Team) (g : Nat) (f : Group → Group) : (t.modGroup g f).imageSlot = t.imageSlot := by unfold Team.modGroup; split <;> rfl
@[simp] theorem Team.modGroup_shape (t : Team) (g : Nat) (f : Group → Group) : (t.modGroup g f).shape = t.shape := by unfold Team.modGroup; split <;> rfl
@[simp] theorem Team.modGroup_vals (t : Team) (g : Nat) (f : Group → Group) : (t.modGroup g f).vals = t.vals := by unfold Team.modGroup; split <;> rfl
@[simp] theorem Team.modGroup_priv (t : Team) (g : Nat) (f : Group → Group) : (t.modGroup g f).priv = t.priv := by unfold Team.modGroup; split <;> rfl
@[simp] theorem Team.modGroup_rank (t : Team) (g : Nat) (f : Group → Group) : (t.modGroup g f).rank = t.rank := by unfold Team.modGroup; split <;> rfl
@[simp] theorem Team.modGroup_place (t : Team) (g : Nat) (f : Group → Group) : (t.modGroup g f).place = t.place := by unfold Team.modGroup; split <;> rfl
@[simp] theorem Team.modGroup_placedAt (t : Team) (g : Nat) (f : Group → Group) : (t.modGroup g f).placedAt = t.placedAt := by unfold Team.modGroup; split <;> rfl
@[simp] theorem Team.modGroup_lastCounted (t : Team) (g : Nat) (f : Group → Group) : (t.modGroup g f).lastCounted = t.lastCounted := by unfold Team.modGroup; split <;> rfl
@[simp] theorem Team.modGroup_skipped (t : Team) (g : Nat) (f : Group → Group) : (t.modGroup g f).skipped = t.skipped := by unfold Team.modGroup; split <;> rfl
@[simp] theorem Team.modGroup_reserved (t : Team) (g : Nat) (f : Group → Group) : (t.modGroup g f).reserved = t.reserved := by unfold Team.modGroup; split <;> rfl
@[simp] theorem Team.modGroup_scratch (t : Team) (g : Nat) (f : Group → Group) : (t.modGroup g f).scratch = t.scratch := by unfold Team.modGroup; split <;> rfl
@[simp] theorem Team.modGroup_bars (t : Team) (g : Nat) (f : Group → Group) : (t.modGroup g f).bars = t.bars := by unfold Team.modGroup; split <;> rfl
@[simp] theorem Team.modGroup_barEvents (t : Team) (g : Nat) (f : Group → Group) : (t.modGroup g f).barEvents = t.barEvents := by unfold Team.modGroup; split <;> rfl
@[simp] theorem Team.modGroup_obs (t : Team) (g : Nat) (f : Group → Group) : (t.modGroup g f).obs = t.obs := by unfold Team.modGroup; split <;> rfl
@[simp] theorem Team.modGroup_fifo (t : Team) (g : Nat) (f : Group → Group) : (t.modGroup g f).fifo = t.fifo := by unfold Team.modGroup; split <;> rfl
@[simp] theorem Team.modGroup_jobs (t : Team) (g : Nat) (f : Group → Group) : (t.modGroup g f).jobs = t.jobs := by unfold Team.modGroup; split <;> rfl
@[simp] theorem Team.modGroup_lastBatch (t : Team) (g : Nat) (f : Group → Group) : (t.modGroup g f).lastBatch = t.lastBatch := by unfold Team.modGroup; split <;> rfl
@[simp] theorem Team.modGroup_batches (t : Team) (g : Nat) (f : Group → Group) : (t.modGroup g f).batches = t.batches := by unfold Team.modGroup; split <;> rfl
@[simp] theorem Team.modGroup_holds (t : Team) (g : Nat) (f : Group → Group) : (t.modGroup g f).holds = t.holds := by unfold Team.modGroup; split <;> rfl
@[simp] theorem Team.modGroup_mxSaved (t : Team) (g : Nat) (f : Group → Group) : (t.modGroup g f).mxSaved = t.mxSaved := by unfold Team.modGroup; split <;> rfl
@[simp] theorem Team.modGroup_traps (t : Team) (g : Nat) (f : Group → Group) : (t.modGroup g f).traps = t.traps := by unfold Team.modGroup; split <;> rfl
@[simp] theorem Team.modGroup_fr (t : Team) (g : Nat) (f : Group → Group) : (t.modGroup g f).fr = t.fr := by unfold Team.modGroup; split <;> rfl
@[simp] theorem Team.modGroup_records (t : Team) (g : Nat) (f : Group → Group) : (t.modGroup g f).records = t.records := by unfold Team.modGroup; split <;> rfl
@[simp] theorem Team.modGroup_leaving (t : Team) (g : Nat) (f : Group → Group) : (t.modGroup g f).leaving = t.leaving := by unfold Team.modGroup; split <;> rfl
@[simp] theorem Team.modGroup_ended (t : Team) (g : Nat) (f : Group → Group) : (t.modGroup g f).ended = t.ended := by unfold Team.modGroup; split <;> rfl

end Sys2Proof.Machine
end

