-- ==== Sys2Proof/Laws/Memory.lean ====
section
/-! SUPPORT. Home memory: what a byte reads after a write, and that every operation over memory keeps its canonical form (log 1). -/
namespace Sys2Proof.Machine

/-! ## The list of bytes -/

theorem cellsRead_of_wf {m : List Host.Cell} {lo a : Nat} (h : cellsWfFrom lo m = true) (ha : a < lo) :
    cellsRead m a = Config.memDefault := by
  induction m generalizing lo with
  | nil => rfl
  | cons c cs ih =>
    simp only [cellsWfFrom, Bool.and_eq_true, decide_eq_true_eq] at h
    rw [cellsRead, if_neg (by omega), ih h.2 (by omega)]

/-- A write leaves the byte of every other address. -/
theorem cellsRead_write_ne (m : List Host.Cell) {a b : Nat} (x : Byte) (h : a ≠ b) :
    cellsRead (cellsWrite m a x) b = cellsRead m b := by
  induction m with
  | nil =>
    unfold cellsWrite
    split <;> simp [cellsRead, h]
  | cons c cs ih =>
    unfold cellsWrite
    split
    · split <;> simp [cellsRead, h]
    · split
      · rename_i e
        have : c.1 ≠ b := fun z => h (e.trans z)
        split <;> simp [cellsRead, h, this]
      · simp only [cellsRead, ih]

/-- A read after a write of the same address gives the byte written. -/
theorem cellsRead_write_same {m : List Host.Cell} {lo a : Nat} (h : cellsWfFrom lo m = true) (x : Byte) :
    cellsRead (cellsWrite m a x) a = x := by
  induction m generalizing lo with
  | nil =>
    unfold cellsWrite
    split <;> simp_all [cellsRead]
  | cons c cs ih =>
    simp only [cellsWfFrom, Bool.and_eq_true, decide_eq_true_eq] at h
    unfold cellsWrite
    split
    · split
      · rename_i hlt hx
        rw [cellsRead, if_neg (by omega), cellsRead_of_wf h.2 (by omega), hx]
      · simp [cellsRead]
    · split
      · rename_i e
        split
        · rename_i hx
          rw [cellsRead_of_wf h.2 (by omega), hx]
        · simp [cellsRead]
      · rename_i e1 e2
        rw [cellsRead, if_neg (by omega), ih h.2]

theorem cellsWfFrom_mono {m : List Host.Cell} {lo k : Nat} (h : cellsWfFrom lo m = true) (hk : k ≤ lo) :
    cellsWfFrom k m = true := by
  cases m with
  | nil => rfl
  | cons c cs =>
    simp only [cellsWfFrom, Bool.and_eq_true, decide_eq_true_eq] at *
    exact ⟨⟨by omega, h.1.2⟩, h.2⟩

/-- A write keeps the canonical form. -/
theorem cellsWrite_wf {m : List Host.Cell} {lo a : Nat} (h : cellsWfFrom lo m = true) (ha : lo ≤ a) (x : Byte) :
    cellsWfFrom lo (cellsWrite m a x) = true := by
  induction m generalizing lo with
  | nil =>
    unfold cellsWrite
    split <;> simp_all [cellsWfFrom]
  | cons c cs ih =>
    have h' := h
    simp only [cellsWfFrom, Bool.and_eq_true, decide_eq_true_eq] at h
    unfold cellsWrite
    split
    · split
      · exact h'
      · rename_i hlt hx
        simp only [cellsWfFrom, Bool.and_eq_true, decide_eq_true_eq]
        exact ⟨⟨ha, hx⟩, ⟨⟨by omega, h.1.2⟩, h.2⟩⟩
    · split
      · rename_i e
        split
        · exact cellsWfFrom_mono h.2 (by omega)
        · rename_i hx
          simp only [cellsWfFrom, Bool.and_eq_true, decide_eq_true_eq]
          exact ⟨⟨ha, hx⟩, by rw [e]; exact h.2⟩
      · simp only [cellsWfFrom, Bool.and_eq_true, decide_eq_true_eq]
        exact ⟨h.1, ih h.2 (by omega)⟩

/-! ## One byte -/

theorem Home.byte_setByte_ne (h : Home) {a b : Nat} (x : Byte) (hab : a ≠ b) : (h.setByte a x).byte b = h.byte b :=
  cellsRead_write_ne h.cells x hab

theorem Home.byte_setByte_same (h : Home) (a : Nat) (x : Byte) (hw : Memory.wf h.cells = true) : (h.setByte a x).byte a = x :=
  cellsRead_write_same hw x

theorem Home.setByte_wf (h : Home) (a : Nat) (x : Byte) (hw : Memory.wf h.cells = true) :
    Memory.wf (h.setByte a x).cells = true := cellsWrite_wf hw (Nat.zero_le a) x

@[simp] theorem Home.setByte_keys (h : Home) (a : Nat) (x : Byte) : (h.setByte a x).keys = h.keys := rfl
@[simp] theorem Home.setByte_poison (h : Home) (a : Nat) (x : Byte) : (h.setByte a x).poison = h.poison := rfl

/-! ## Several bytes -/

theorem Home.setNat_wf (h : Home) (a n v : Nat) (hw : Memory.wf h.cells = true) :
    Memory.wf (h.setNat a n v).cells = true := by
  induction n generalizing h a v with
  | zero => exact hw
  | succ n ih => exact ih _ _ _ (h.setByte_wf a _ hw)

/-- A write of n bytes leaves every byte outside them. -/
theorem Home.byte_setNat_other (h : Home) (a n v b : Nat) (hb : b < a ∨ a + n ≤ b) : (h.setNat a n v).byte b = h.byte b := by
  induction n generalizing h a v with
  | zero => rfl
  | succ n ih => rw [Home.setNat, ih _ _ _ (by omega), h.byte_setByte_ne _ (by omega)]

@[simp] theorem Home.setNat_keys (h : Home) (a n v : Nat) : (h.setNat a n v).keys = h.keys := by
  induction n generalizing h a v with
  | zero => rfl
  | succ n ih => rw [Home.setNat, ih, Home.setByte_keys]

@[simp] theorem Home.setNat_poison (h : Home) (a n v : Nat) : (h.setNat a n v).poison = h.poison := by
  induction n generalizing h a v with
  | zero => rfl
  | succ n ih => rw [Home.setNat, ih, Home.setByte_poison]

/-- A write of n bytes changes the cells only. -/
theorem Home.setNat_rest (h : Home) (a n v : Nat) :
    { h.setNat a n v with cells := [] } = { h with cells := ([] : List Host.Cell) } := by
  induction n generalizing h a v with
  | zero => rfl
  | succ n ih => rw [Home.setNat, ih]; rfl

/-- Byte k of n bytes written reads as byte k of their value. -/
theorem Home.byte_setNat (h : Home) (a n v k : Nat) (hk : k < n) (hw : Memory.wf h.cells = true) :
    (h.setNat a n v).byte (a + k) = BitVec.ofNat 8 (v / 256 ^ k) := by
  induction n generalizing h a v k with
  | zero => omega
  | succ n ih =>
    rw [Home.setNat]
    cases k with
    | zero => rw [Home.byte_setNat_other _ _ _ _ _ (by omega), Nat.add_zero, h.byte_setByte_same _ _ hw]; simp
    | succ k =>
      rw [show a + (k + 1) = a + 1 + k by omega, ih _ _ _ _ (by omega) (h.setByte_wf _ _ hw), Nat.div_div_eq_div_mul]
      congr 2
      rw [Nat.pow_succ']

/-! ## Writes under a key -/

theorem Home.writeAs_wf (h : Home) (ks : List KeySlot) (slot : Option Nat) (a : Nat) (x : Byte)
    (hw : Memory.wf h.cells = true) : Memory.wf (h.writeAs ks slot a x).cells = true := by
  unfold Home.writeAs
  dsimp only
  split
  · exact h.setByte_wf a x hw
  · exact Home.setByte_wf _ a x (h.setNat_wf _ _ _ hw)

theorem Home.setNatAs_wf (h : Home) (ks : List KeySlot) (slot : Option Nat) (a n v : Nat)
    (hw : Memory.wf h.cells = true) : Memory.wf (h.setNatAs ks slot a n v).cells = true := by
  induction n generalizing h a v with
  | zero => exact hw
  | succ n ih => exact ih _ _ _ (h.writeAs_wf ks slot a _ hw)

@[simp] theorem Home.poisonUnit_cells (h : Home) (u : Nat) : (h.poisonUnit u).cells = h.cells := by
  unfold Home.poisonUnit; split <;> rfl

@[simp] theorem Home.cleanUnit_cells (h : Home) (u : Nat) : (h.cleanUnit u).cells = h.cells := rfl

theorem foldl_keeps {α β : Type} (P : α → Prop) (f : α → β → α) (hf : ∀ a b, P a → P (f a b)) (xs : List β) (a : α) (h : P a) :
    P (xs.foldl f a) := by
  induction xs generalizing a with
  | nil => exact h
  | cons x xs ih => exact ih _ (hf _ _ h)

theorem Home.mergeTile_wf (h : Home) (ks : List KeySlot) (slot : Option Nat) (tile : Nat) (data : BitVec 32768)
    (mask : BitVec 4096) (poison : BitVec 64) (hw : Memory.wf h.cells = true) :
    Memory.wf (h.mergeTile ks slot tile data mask poison).cells = true := by
  unfold Home.mergeTile
  apply foldl_keeps (fun x : Home => Memory.wf x.cells = true)
  · intro x u hx
    split
    · simpa using hx
    · split <;> simpa using hx
  · apply foldl_keeps (fun x : Home => Memory.wf x.cells = true)
    · intro x i hx
      split
      · exact x.writeAs_wf ks slot _ _ hx
      · exact hx
    · exact hw

/-- Filtering keeps the canonical form. -/
theorem cellsWfFrom_filter {m : List Host.Cell} {lo : Nat} (f : Host.Cell → Bool) (h : cellsWfFrom lo m = true) :
    cellsWfFrom lo (m.filter f) = true := by
  induction m generalizing lo with
  | nil => rfl
  | cons c cs ih =>
    simp only [cellsWfFrom, Bool.and_eq_true, decide_eq_true_eq] at h
    rw [List.filter_cons]
    split
    · simp only [cellsWfFrom, Bool.and_eq_true, decide_eq_true_eq]
      exact ⟨h.1, ih h.2⟩
    · exact cellsWfFrom_mono (ih h.2) (by omega)

/-- Two runs of entries, one below the other. -/
theorem cellsWfFrom_append {xs ys : List Host.Cell} {lo k : Nat} (hx : cellsWfFrom lo xs = true) (hb : ∀ c ∈ xs, c.1 < k)
    (hy : cellsWfFrom k ys = true) (hk : lo ≤ k) : cellsWfFrom lo (xs ++ ys) = true := by
  induction xs generalizing lo with
  | nil => exact cellsWfFrom_mono hy hk
  | cons c cs ih =>
    simp only [cellsWfFrom, Bool.and_eq_true, decide_eq_true_eq, List.cons_append] at hx ⊢
    exact ⟨hx.1, ih hx.2 (fun x h => hb x (List.mem_cons_of_mem _ h)) (hb c List.mem_cons_self)⟩

/-- The entries from an address on. -/
theorem cellsWfFrom_above {m : List Host.Cell} {lo : Nat} (k : Nat) (h : cellsWfFrom lo m = true) :
    cellsWfFrom k (m.filter (fun c => decide (k ≤ c.1))) = true := by
  induction m generalizing lo with
  | nil => rfl
  | cons c cs ih =>
    simp only [cellsWfFrom, Bool.and_eq_true, decide_eq_true_eq] at h
    rw [List.filter_cons]
    split
    · simp only [cellsWfFrom, Bool.and_eq_true, decide_eq_true_eq]
      exact ⟨⟨of_decide_eq_true ‹_›, h.1.2⟩, cellsWfFrom_filter _ h.2⟩
    · exact ih h.2

/-- A run of bytes as entries, and where they stand. -/
theorem run_wf (a : Nat) (bs : List Byte) :
    cellsWfFrom a ((bs.mapIdx (fun i b => (a + i, b))).filter (fun c => c.2 != Config.memDefault)) = true ∧
    ∀ c ∈ (bs.mapIdx (fun i b => (a + i, b))).filter (fun c => c.2 != Config.memDefault), c.1 < a + bs.length := by
  induction bs generalizing a with
  | nil => exact ⟨rfl, fun c h => by cases h⟩
  | cons b bs ih =>
    obtain ⟨h, hb⟩ := ih (a + 1)
    have e : (fun (i : Nat) (b : Byte) => (a + (i + 1), b)) = fun i b => (a + 1 + i, b) := by funext i b; simp; omega
    simp only [List.mapIdx_cons, List.filter_cons, Nat.add_zero, List.length_cons, e]
    split
    · refine ⟨?_, fun c hc => ?_⟩
      · simp only [cellsWfFrom, Bool.and_eq_true, decide_eq_true_eq]
        exact ⟨⟨Nat.le_refl _, by simpa using ‹(b != Config.memDefault) = true›⟩, h⟩
      · rcases List.mem_cons.mp hc with rfl | hc
        · simp
        · have := hb c hc; omega
    · exact ⟨cellsWfFrom_mono h (by omega), fun c hc => by have := hb c hc; omega⟩

/-- A run of bytes written keeps the canonical form. -/
theorem cellsPut_wf {m : List Host.Cell} (a : Nat) (bs : List Byte) (h : Memory.wf m = true) : Memory.wf (cellsPut m a bs) = true := by
  obtain ⟨h1, h2⟩ := run_wf a bs
  rw [Memory.wf, cellsPut, List.append_assoc]
  refine cellsWfFrom_append (cellsWfFrom_filter _ h) (fun c hc => of_decide_eq_true (List.mem_filter.mp hc).2) ?_ (Nat.zero_le a)
  exact cellsWfFrom_append h1 h2 (cellsWfFrom_above _ h) (by omega)

/-- Whole units written keep the canonical form. -/
theorem Home.putUnits_wf (h : Home) (slot : Option Nat) (a : Nat) (bs : List Byte) (hw : Memory.wf h.cells = true) :
    Memory.wf (h.putUnits slot a bs).cells = true := cellsPut_wf a bs hw

/-- The memory after reset is in canonical form. -/
theorem reset_memory_wf : Memory.wf State.reset.home.cells = true := by decide

end Sys2Proof.Machine
end

