-- ==== Sys2Proof/Laws/PerInstr.lean ====
section
/-! SUPPORT. What holds of every instruction as syntax, one lemma per constructor: the family WordOrEvent, that a row of the instruction
table with an encoding (03 R81) has a word, and an event has none. -/
namespace Sys2Proof.Laws
open Sys2Proof.Machine

/-- An instruction is a word, which has its encoding, or an event, which has none. -/
def WordOrEvent.Statement (i : Instr) : Prop := (isEvent i = false ∧ (encode i).isSome = true) ∨ (isEvent i = true ∧ encode i = none)

theorem WordOrEvent.add (d : BitVec 6) (a : BitVec 6) (b : BitVec 6) (p : BitVec 3) : WordOrEvent.Statement (.add d a b p) := .inl ⟨rfl, rfl⟩
theorem WordOrEvent.sub (d : BitVec 6) (a : BitVec 6) (b : BitVec 6) (p : BitVec 3) : WordOrEvent.Statement (.sub d a b p) := .inl ⟨rfl, rfl⟩
theorem WordOrEvent.minI32 (d : BitVec 6) (a : BitVec 6) (b : BitVec 6) (p : BitVec 3) : WordOrEvent.Statement (.minI32 d a b p) := .inl ⟨rfl, rfl⟩
theorem WordOrEvent.minN32 (d : BitVec 6) (a : BitVec 6) (b : BitVec 6) (p : BitVec 3) : WordOrEvent.Statement (.minN32 d a b p) := .inl ⟨rfl, rfl⟩
theorem WordOrEvent.maxI32 (d : BitVec 6) (a : BitVec 6) (b : BitVec 6) (p : BitVec 3) : WordOrEvent.Statement (.maxI32 d a b p) := .inl ⟨rfl, rfl⟩
theorem WordOrEvent.maxN32 (d : BitVec 6) (a : BitVec 6) (b : BitVec 6) (p : BitVec 3) : WordOrEvent.Statement (.maxN32 d a b p) := .inl ⟨rfl, rfl⟩
theorem WordOrEvent.andB (d : BitVec 6) (a : BitVec 6) (b : BitVec 6) (p : BitVec 3) : WordOrEvent.Statement (.andB d a b p) := .inl ⟨rfl, rfl⟩
theorem WordOrEvent.orB (d : BitVec 6) (a : BitVec 6) (b : BitVec 6) (p : BitVec 3) : WordOrEvent.Statement (.orB d a b p) := .inl ⟨rfl, rfl⟩
theorem WordOrEvent.xorB (d : BitVec 6) (a : BitVec 6) (b : BitVec 6) (p : BitVec 3) : WordOrEvent.Statement (.xorB d a b p) := .inl ⟨rfl, rfl⟩
theorem WordOrEvent.andn (d : BitVec 6) (a : BitVec 6) (b : BitVec 6) (p : BitVec 3) : WordOrEvent.Statement (.andn d a b p) := .inl ⟨rfl, rfl⟩
theorem WordOrEvent.absdI32 (d : BitVec 6) (a : BitVec 6) (b : BitVec 6) (p : BitVec 3) : WordOrEvent.Statement (.absdI32 d a b p) := .inl ⟨rfl, rfl⟩
theorem WordOrEvent.absdN32 (d : BitVec 6) (a : BitVec 6) (b : BitVec 6) (p : BitVec 3) : WordOrEvent.Statement (.absdN32 d a b p) := .inl ⟨rfl, rfl⟩
theorem WordOrEvent.addsatI32 (d : BitVec 6) (a : BitVec 6) (b : BitVec 6) (p : BitVec 3) : WordOrEvent.Statement (.addsatI32 d a b p) := .inl ⟨rfl, rfl⟩
theorem WordOrEvent.addsatN32 (d : BitVec 6) (a : BitVec 6) (b : BitVec 6) (p : BitVec 3) : WordOrEvent.Statement (.addsatN32 d a b p) := .inl ⟨rfl, rfl⟩
theorem WordOrEvent.subsatI32 (d : BitVec 6) (a : BitVec 6) (b : BitVec 6) (p : BitVec 3) : WordOrEvent.Statement (.subsatI32 d a b p) := .inl ⟨rfl, rfl⟩
theorem WordOrEvent.subsatN32 (d : BitVec 6) (a : BitVec 6) (b : BitVec 6) (p : BitVec 3) : WordOrEvent.Statement (.subsatN32 d a b p) := .inl ⟨rfl, rfl⟩
theorem WordOrEvent.iopw (d : BitVec 6) (a : BitVec 6) (b : BitVec 6) (f : BitVec 5) (p : BitVec 3) : WordOrEvent.Statement (.iopw d a b f p) := .inl ⟨rfl, rfl⟩
theorem WordOrEvent.addi (d : BitVec 6) (a : BitVec 6) (i : BitVec 8) (p : BitVec 3) : WordOrEvent.Statement (.addi d a i p) := .inl ⟨rfl, rfl⟩
theorem WordOrEvent.muli (d : BitVec 6) (a : BitVec 6) (i : BitVec 8) (p : BitVec 3) : WordOrEvent.Statement (.muli d a i p) := .inl ⟨rfl, rfl⟩
theorem WordOrEvent.andi (d : BitVec 6) (a : BitVec 6) (i : BitVec 8) (p : BitVec 3) : WordOrEvent.Statement (.andi d a i p) := .inl ⟨rfl, rfl⟩
theorem WordOrEvent.ori (d : BitVec 6) (a : BitVec 6) (i : BitVec 8) (p : BitVec 3) : WordOrEvent.Statement (.ori d a i p) := .inl ⟨rfl, rfl⟩
theorem WordOrEvent.xori (d : BitVec 6) (a : BitVec 6) (i : BitVec 8) (p : BitVec 3) : WordOrEvent.Statement (.xori d a i p) := .inl ⟨rfl, rfl⟩
theorem WordOrEvent.shli (d : BitVec 6) (a : BitVec 6) (i : BitVec 8) (p : BitVec 3) : WordOrEvent.Statement (.shli d a i p) := .inl ⟨rfl, rfl⟩
theorem WordOrEvent.shri (d : BitVec 6) (a : BitVec 6) (i : BitVec 8) (p : BitVec 3) : WordOrEvent.Statement (.shri d a i p) := .inl ⟨rfl, rfl⟩
theorem WordOrEvent.sari (d : BitVec 6) (a : BitVec 6) (i : BitVec 8) (p : BitVec 3) : WordOrEvent.Statement (.sari d a i p) := .inl ⟨rfl, rfl⟩
theorem WordOrEvent.shl (d : BitVec 6) (a : BitVec 6) (b : BitVec 6) (p : BitVec 3) : WordOrEvent.Statement (.shl d a b p) := .inl ⟨rfl, rfl⟩
theorem WordOrEvent.shr (d : BitVec 6) (a : BitVec 6) (b : BitVec 6) (p : BitVec 3) : WordOrEvent.Statement (.shr d a b p) := .inl ⟨rfl, rfl⟩
theorem WordOrEvent.sar (d : BitVec 6) (a : BitVec 6) (b : BitVec 6) (p : BitVec 3) : WordOrEvent.Statement (.sar d a b p) := .inl ⟨rfl, rfl⟩
theorem WordOrEvent.rol (d : BitVec 6) (a : BitVec 6) (b : BitVec 6) (p : BitVec 3) : WordOrEvent.Statement (.rol d a b p) := .inl ⟨rfl, rfl⟩
theorem WordOrEvent.ror (d : BitVec 6) (a : BitVec 6) (b : BitVec 6) (p : BitVec 3) : WordOrEvent.Statement (.ror d a b p) := .inl ⟨rfl, rfl⟩
theorem WordOrEvent.popc (d : BitVec 6) (a : BitVec 6) (p : BitVec 3) : WordOrEvent.Statement (.popc d a p) := .inl ⟨rfl, rfl⟩
theorem WordOrEvent.clz (d : BitVec 6) (a : BitVec 6) (p : BitVec 3) : WordOrEvent.Statement (.clz d a p) := .inl ⟨rfl, rfl⟩
theorem WordOrEvent.ctz (d : BitVec 6) (a : BitVec 6) (p : BitVec 3) : WordOrEvent.Statement (.ctz d a p) := .inl ⟨rfl, rfl⟩
theorem WordOrEvent.brev (d : BitVec 6) (a : BitVec 6) (p : BitVec 3) : WordOrEvent.Statement (.brev d a p) := .inl ⟨rfl, rfl⟩
theorem WordOrEvent.bfxN32 (d : BitVec 6) (a : BitVec 6) (b : BitVec 6) (p : BitVec 3) : WordOrEvent.Statement (.bfxN32 d a b p) := .inl ⟨rfl, rfl⟩
theorem WordOrEvent.bfxI32 (d : BitVec 6) (a : BitVec 6) (b : BitVec 6) (p : BitVec 3) : WordOrEvent.Statement (.bfxI32 d a b p) := .inl ⟨rfl, rfl⟩
theorem WordOrEvent.bfi (d : BitVec 6) (a : BitVec 6) (b : BitVec 6) (p : BitVec 3) : WordOrEvent.Statement (.bfi d a b p) := .inl ⟨rfl, rfl⟩
theorem WordOrEvent.permb (d : BitVec 6) (a : BitVec 6) (b : BitVec 6) (p : BitVec 3) : WordOrEvent.Statement (.permb d a b p) := .inl ⟨rfl, rfl⟩
theorem WordOrEvent.shlB64 (d : BitVec 6) (a : BitVec 6) (b : BitVec 6) (p : BitVec 3) : WordOrEvent.Statement (.shlB64 d a b p) := .inl ⟨rfl, rfl⟩
theorem WordOrEvent.shrB64 (d : BitVec 6) (a : BitVec 6) (b : BitVec 6) (p : BitVec 3) : WordOrEvent.Statement (.shrB64 d a b p) := .inl ⟨rfl, rfl⟩
theorem WordOrEvent.sarB64 (d : BitVec 6) (a : BitVec 6) (b : BitVec 6) (p : BitVec 3) : WordOrEvent.Statement (.sarB64 d a b p) := .inl ⟨rfl, rfl⟩
theorem WordOrEvent.rolB64 (d : BitVec 6) (a : BitVec 6) (b : BitVec 6) (p : BitVec 3) : WordOrEvent.Statement (.rolB64 d a b p) := .inl ⟨rfl, rfl⟩
theorem WordOrEvent.rorB64 (d : BitVec 6) (a : BitVec 6) (b : BitVec 6) (p : BitVec 3) : WordOrEvent.Statement (.rorB64 d a b p) := .inl ⟨rfl, rfl⟩
theorem WordOrEvent.popcB64 (d : BitVec 6) (a : BitVec 6) (p : BitVec 3) : WordOrEvent.Statement (.popcB64 d a p) := .inl ⟨rfl, rfl⟩
theorem WordOrEvent.clzB64 (d : BitVec 6) (a : BitVec 6) (p : BitVec 3) : WordOrEvent.Statement (.clzB64 d a p) := .inl ⟨rfl, rfl⟩
theorem WordOrEvent.ctzB64 (d : BitVec 6) (a : BitVec 6) (p : BitVec 3) : WordOrEvent.Statement (.ctzB64 d a p) := .inl ⟨rfl, rfl⟩
theorem WordOrEvent.brevB64 (d : BitVec 6) (a : BitVec 6) (p : BitVec 3) : WordOrEvent.Statement (.brevB64 d a p) := .inl ⟨rfl, rfl⟩
theorem WordOrEvent.mul (d : BitVec 6) (a : BitVec 6) (b : BitVec 6) (p : BitVec 3) : WordOrEvent.Statement (.mul d a b p) := .inl ⟨rfl, rfl⟩
theorem WordOrEvent.mulhiI32 (d : BitVec 6) (a : BitVec 6) (b : BitVec 6) (p : BitVec 3) : WordOrEvent.Statement (.mulhiI32 d a b p) := .inl ⟨rfl, rfl⟩
theorem WordOrEvent.mulhiN32 (d : BitVec 6) (a : BitVec 6) (b : BitVec 6) (p : BitVec 3) : WordOrEvent.Statement (.mulhiN32 d a b p) := .inl ⟨rfl, rfl⟩
theorem WordOrEvent.mulwI32 (d : BitVec 6) (a : BitVec 6) (b : BitVec 6) (p : BitVec 3) : WordOrEvent.Statement (.mulwI32 d a b p) := .inl ⟨rfl, rfl⟩
theorem WordOrEvent.mulwN32 (d : BitVec 6) (a : BitVec 6) (b : BitVec 6) (p : BitVec 3) : WordOrEvent.Statement (.mulwN32 d a b p) := .inl ⟨rfl, rfl⟩
theorem WordOrEvent.mad (d : BitVec 6) (a : BitVec 6) (b : BitVec 6) (p : BitVec 3) : WordOrEvent.Statement (.mad d a b p) := .inl ⟨rfl, rfl⟩
theorem WordOrEvent.divI32 (d : BitVec 6) (a : BitVec 6) (b : BitVec 6) (p : BitVec 3) : WordOrEvent.Statement (.divI32 d a b p) := .inl ⟨rfl, rfl⟩
theorem WordOrEvent.divN32 (d : BitVec 6) (a : BitVec 6) (b : BitVec 6) (p : BitVec 3) : WordOrEvent.Statement (.divN32 d a b p) := .inl ⟨rfl, rfl⟩
theorem WordOrEvent.remI32 (d : BitVec 6) (a : BitVec 6) (b : BitVec 6) (p : BitVec 3) : WordOrEvent.Statement (.remI32 d a b p) := .inl ⟨rfl, rfl⟩
theorem WordOrEvent.remN32 (d : BitVec 6) (a : BitVec 6) (b : BitVec 6) (p : BitVec 3) : WordOrEvent.Statement (.remN32 d a b p) := .inl ⟨rfl, rfl⟩
theorem WordOrEvent.divI32Tz (d : BitVec 6) (a : BitVec 6) (b : BitVec 6) (p : BitVec 3) : WordOrEvent.Statement (.divI32Tz d a b p) := .inl ⟨rfl, rfl⟩
theorem WordOrEvent.divN32Tz (d : BitVec 6) (a : BitVec 6) (b : BitVec 6) (p : BitVec 3) : WordOrEvent.Statement (.divN32Tz d a b p) := .inl ⟨rfl, rfl⟩
theorem WordOrEvent.remI32Tz (d : BitVec 6) (a : BitVec 6) (b : BitVec 6) (p : BitVec 3) : WordOrEvent.Statement (.remI32Tz d a b p) := .inl ⟨rfl, rfl⟩
theorem WordOrEvent.remN32Tz (d : BitVec 6) (a : BitVec 6) (b : BitVec 6) (p : BitVec 3) : WordOrEvent.Statement (.remN32Tz d a b p) := .inl ⟨rfl, rfl⟩
theorem WordOrEvent.cmp (d : BitVec 3) (c : BitVec 4) (m : BitVec 2) (a : BitVec 6) (b : BitVec 6) (t : BitVec 2) (p : BitVec 3) : WordOrEvent.Statement (.cmp d c m a b t p) := .inl ⟨rfl, rfl⟩
theorem WordOrEvent.fcmp (d : BitVec 3) (c : BitVec 4) (m : BitVec 2) (a : BitVec 6) (b : BitVec 6) (t : BitVec 2) (p : BitVec 3) : WordOrEvent.Statement (.fcmp d c m a b t p) := .inl ⟨rfl, rfl⟩
theorem WordOrEvent.fclass (d : BitVec 3) (m : BitVec 2) (a : BitVec 6) (k : BitVec 6) (t : BitVec 2) (p : BitVec 3) : WordOrEvent.Statement (.fclass d m a k t p) := .inl ⟨rfl, rfl⟩
theorem WordOrEvent.pand (d : BitVec 6) (a : BitVec 6) (b : BitVec 6) (p : BitVec 3) : WordOrEvent.Statement (.pand d a b p) := .inl ⟨rfl, rfl⟩
theorem WordOrEvent.por (d : BitVec 6) (a : BitVec 6) (b : BitVec 6) (p : BitVec 3) : WordOrEvent.Statement (.por d a b p) := .inl ⟨rfl, rfl⟩
theorem WordOrEvent.pxor (d : BitVec 6) (a : BitVec 6) (b : BitVec 6) (p : BitVec 3) : WordOrEvent.Statement (.pxor d a b p) := .inl ⟨rfl, rfl⟩
theorem WordOrEvent.pnot (d : BitVec 6) (a : BitVec 6) (p : BitVec 3) : WordOrEvent.Statement (.pnot d a p) := .inl ⟨rfl, rfl⟩
theorem WordOrEvent.pmov (d : BitVec 6) (a : BitVec 6) (p : BitVec 3) : WordOrEvent.Statement (.pmov d a p) := .inl ⟨rfl, rfl⟩
theorem WordOrEvent.pmovFromScalar (d : BitVec 6) (a : BitVec 6) (p : BitVec 3) : WordOrEvent.Statement (.pmovFromScalar d a p) := .inl ⟨rfl, rfl⟩
theorem WordOrEvent.pmovToScalar (d : BitVec 6) (a : BitVec 6) : WordOrEvent.Statement (.pmovToScalar d a) := .inl ⟨rfl, rfl⟩
theorem WordOrEvent.sel (d : BitVec 6) (a : BitVec 6) (b : BitVec 6) (n : BitVec 3) (p : BitVec 3) : WordOrEvent.Statement (.sel d a b n p) := .inl ⟨rfl, rfl⟩
theorem WordOrEvent.fadd (d : BitVec 6) (a : BitVec 6) (b : BitVec 6) (t : BitVec 2) (p : BitVec 3) : WordOrEvent.Statement (.fadd d a b t p) := .inl ⟨rfl, rfl⟩
theorem WordOrEvent.fsub (d : BitVec 6) (a : BitVec 6) (b : BitVec 6) (t : BitVec 2) (p : BitVec 3) : WordOrEvent.Statement (.fsub d a b t p) := .inl ⟨rfl, rfl⟩
theorem WordOrEvent.fmul (d : BitVec 6) (a : BitVec 6) (b : BitVec 6) (t : BitVec 2) (p : BitVec 3) : WordOrEvent.Statement (.fmul d a b t p) := .inl ⟨rfl, rfl⟩
theorem WordOrEvent.fmin (d : BitVec 6) (a : BitVec 6) (b : BitVec 6) (t : BitVec 2) (p : BitVec 3) : WordOrEvent.Statement (.fmin d a b t p) := .inl ⟨rfl, rfl⟩
theorem WordOrEvent.fmax (d : BitVec 6) (a : BitVec 6) (b : BitVec 6) (t : BitVec 2) (p : BitVec 3) : WordOrEvent.Statement (.fmax d a b t p) := .inl ⟨rfl, rfl⟩
theorem WordOrEvent.fabs (d : BitVec 6) (a : BitVec 6) (t : BitVec 2) (p : BitVec 3) : WordOrEvent.Statement (.fabs d a t p) := .inl ⟨rfl, rfl⟩
theorem WordOrEvent.fneg (d : BitVec 6) (a : BitVec 6) (t : BitVec 2) (p : BitVec 3) : WordOrEvent.Statement (.fneg d a t p) := .inl ⟨rfl, rfl⟩
theorem WordOrEvent.fma (d : BitVec 6) (a : BitVec 6) (b : BitVec 6) (t : BitVec 2) (p : BitVec 3) : WordOrEvent.Statement (.fma d a b t p) := .inl ⟨rfl, rfl⟩
theorem WordOrEvent.fms (d : BitVec 6) (a : BitVec 6) (b : BitVec 6) (t : BitVec 2) (p : BitVec 3) : WordOrEvent.Statement (.fms d a b t p) := .inl ⟨rfl, rfl⟩
theorem WordOrEvent.fnma (d : BitVec 6) (a : BitVec 6) (b : BitVec 6) (t : BitVec 2) (p : BitVec 3) : WordOrEvent.Statement (.fnma d a b t p) := .inl ⟨rfl, rfl⟩
theorem WordOrEvent.fmad (d : BitVec 6) (a : BitVec 6) (b : BitVec 6) (t : BitVec 2) (p : BitVec 3) : WordOrEvent.Statement (.fmad d a b t p) := .inl ⟨rfl, rfl⟩
theorem WordOrEvent.rcp (d : BitVec 6) (a : BitVec 6) (t : BitVec 2) (p : BitVec 3) : WordOrEvent.Statement (.rcp d a t p) := .inl ⟨rfl, rfl⟩
theorem WordOrEvent.rsq (d : BitVec 6) (a : BitVec 6) (t : BitVec 2) (p : BitVec 3) : WordOrEvent.Statement (.rsq d a t p) := .inl ⟨rfl, rfl⟩
theorem WordOrEvent.sqrt (d : BitVec 6) (a : BitVec 6) (t : BitVec 2) (p : BitVec 3) : WordOrEvent.Statement (.sqrt d a t p) := .inl ⟨rfl, rfl⟩
theorem WordOrEvent.exp2 (d : BitVec 6) (a : BitVec 6) (t : BitVec 2) (p : BitVec 3) : WordOrEvent.Statement (.exp2 d a t p) := .inl ⟨rfl, rfl⟩
theorem WordOrEvent.log2 (d : BitVec 6) (a : BitVec 6) (t : BitVec 2) (p : BitVec 3) : WordOrEvent.Statement (.log2 d a t p) := .inl ⟨rfl, rfl⟩
theorem WordOrEvent.sin (d : BitVec 6) (a : BitVec 6) (t : BitVec 2) (p : BitVec 3) : WordOrEvent.Statement (.sin d a t p) := .inl ⟨rfl, rfl⟩
theorem WordOrEvent.cos (d : BitVec 6) (a : BitVec 6) (t : BitVec 2) (p : BitVec 3) : WordOrEvent.Statement (.cos d a t p) := .inl ⟨rfl, rfl⟩
theorem WordOrEvent.tanh (d : BitVec 6) (a : BitVec 6) (t : BitVec 2) (p : BitVec 3) : WordOrEvent.Statement (.tanh d a t p) := .inl ⟨rfl, rfl⟩
theorem WordOrEvent.cvt (d : BitVec 6) (a : BitVec 6) (t : BitVec 4) (s : BitVec 4) (p : BitVec 3) : WordOrEvent.Statement (.cvt d a t s p) := .inl ⟨rfl, rfl⟩
theorem WordOrEvent.cvts (d : BitVec 6) (a : BitVec 6) (t : BitVec 4) (s : BitVec 4) : WordOrEvent.Statement (.cvts d a t s) := .inl ⟨rfl, rfl⟩
theorem WordOrEvent.qblk (d : BitVec 6) (a : BitVec 6) (t : BitVec 4) (l : BitVec 1) (p : BitVec 3) : WordOrEvent.Statement (.qblk d a t l p) := .inl ⟨rfl, rfl⟩
theorem WordOrEvent.dqblk (d : BitVec 6) (a : BitVec 6) (t : BitVec 4) (l : BitVec 1) (p : BitVec 3) : WordOrEvent.Statement (.dqblk d a t l p) := .inl ⟨rfl, rfl⟩
theorem WordOrEvent.pack6 (d : BitVec 6) (a : BitVec 6) (t : BitVec 4) (p : BitVec 3) : WordOrEvent.Statement (.pack6 d a t p) := .inl ⟨rfl, rfl⟩
theorem WordOrEvent.unpk6 (d : BitVec 6) (a : BitVec 6) (t : BitVec 4) (p : BitVec 3) : WordOrEvent.Statement (.unpk6 d a t p) := .inl ⟨rfl, rfl⟩
theorem WordOrEvent.lgenc (d : BitVec 6) (a : BitVec 6) (p : BitVec 3) : WordOrEvent.Statement (.lgenc d a p) := .inl ⟨rfl, rfl⟩
theorem WordOrEvent.lgdec (d : BitVec 6) (a : BitVec 6) (p : BitVec 3) : WordOrEvent.Statement (.lgdec d a p) := .inl ⟨rfl, rfl⟩
theorem WordOrEvent.shflIdx (d : BitVec 6) (a : BitVec 6) (b : BitVec 6) (p : BitVec 3) : WordOrEvent.Statement (.shflIdx d a b p) := .inl ⟨rfl, rfl⟩
theorem WordOrEvent.shflUp (d : BitVec 6) (a : BitVec 6) (c : BitVec 5) (p : BitVec 3) : WordOrEvent.Statement (.shflUp d a c p) := .inl ⟨rfl, rfl⟩
theorem WordOrEvent.shflDown (d : BitVec 6) (a : BitVec 6) (c : BitVec 5) (p : BitVec 3) : WordOrEvent.Statement (.shflDown d a c p) := .inl ⟨rfl, rfl⟩
theorem WordOrEvent.shflXor (d : BitVec 6) (a : BitVec 6) (c : BitVec 5) (p : BitVec 3) : WordOrEvent.Statement (.shflXor d a c p) := .inl ⟨rfl, rfl⟩
theorem WordOrEvent.bcast (d : BitVec 6) (a : BitVec 6) (l : BitVec 5) (p : BitVec 3) : WordOrEvent.Statement (.bcast d a l p) := .inl ⟨rfl, rfl⟩
theorem WordOrEvent.ballot (d : BitVec 6) (a : BitVec 6) : WordOrEvent.Statement (.ballot d a) := .inl ⟨rfl, rfl⟩
theorem WordOrEvent.matchLanes (d : BitVec 6) (a : BitVec 6) (p : BitVec 3) : WordOrEvent.Statement (.matchLanes d a p) := .inl ⟨rfl, rfl⟩
theorem WordOrEvent.movsr (d : BitVec 6) (s : BitVec 6) (p : BitVec 3) : WordOrEvent.Statement (.movsr d s p) := .inl ⟨rfl, rfl⟩
theorem WordOrEvent.red (d : BitVec 6) (a : BitVec 6) (o : BitVec 3) (p : BitVec 3) : WordOrEvent.Statement (.red d a o p) := .inl ⟨rfl, rfl⟩
theorem WordOrEvent.scan (d : BitVec 6) (a : BitVec 6) (o : BitVec 3) (p : BitVec 3) : WordOrEvent.Statement (.scan d a o p) := .inl ⟨rfl, rfl⟩
theorem WordOrEvent.mov (d : BitVec 6) (a : BitVec 6) (p : BitVec 3) : WordOrEvent.Statement (.mov d a p) := .inl ⟨rfl, rfl⟩
theorem WordOrEvent.movi (d : BitVec 6) (i : BitVec 8) (p : BitVec 3) : WordOrEvent.Statement (.movi d i p) := .inl ⟨rfl, rfl⟩
theorem WordOrEvent.movhi (d : BitVec 6) (i : BitVec 8) (p : BitVec 3) : WordOrEvent.Statement (.movhi d i p) := .inl ⟨rfl, rfl⟩
theorem WordOrEvent.movx (d : BitVec 6) (x : BitVec 2) (i : BitVec 8) (p : BitVec 3) : WordOrEvent.Statement (.movx d x i p) := .inl ⟨rfl, rfl⟩
theorem WordOrEvent.movxw (x : BitVec 2) (a : BitVec 6) (i : BitVec 8) (p : BitVec 3) : WordOrEvent.Statement (.movxw x a i p) := .inl ⟨rfl, rfl⟩
theorem WordOrEvent.xset (x : BitVec 2) (a : BitVec 6) (i : BitVec 8) (p : BitVec 3) : WordOrEvent.Statement (.xset x a i p) := .inl ⟨rfl, rfl⟩
theorem WordOrEvent.xadd (x : BitVec 2) (i : BitVec 8) (p : BitVec 3) : WordOrEvent.Statement (.xadd x i p) := .inl ⟨rfl, rfl⟩
theorem WordOrEvent.movv2s (d : BitVec 6) (a : BitVec 6) (l : BitVec 5) : WordOrEvent.Statement (.movv2s d a l) := .inl ⟨rfl, rfl⟩
theorem WordOrEvent.movs2v (d : BitVec 6) (a : BitVec 6) (p : BitVec 3) : WordOrEvent.Statement (.movs2v d a p) := .inl ⟨rfl, rfl⟩
theorem WordOrEvent.sadd (d : BitVec 5) (a : BitVec 5) (b : BitVec 5) : WordOrEvent.Statement (.sadd d a b) := .inl ⟨rfl, rfl⟩
theorem WordOrEvent.ssub (d : BitVec 5) (a : BitVec 5) (b : BitVec 5) : WordOrEvent.Statement (.ssub d a b) := .inl ⟨rfl, rfl⟩
theorem WordOrEvent.smul (d : BitVec 5) (a : BitVec 5) (b : BitVec 5) : WordOrEvent.Statement (.smul d a b) := .inl ⟨rfl, rfl⟩
theorem WordOrEvent.sand (d : BitVec 5) (a : BitVec 5) (b : BitVec 5) : WordOrEvent.Statement (.sand d a b) := .inl ⟨rfl, rfl⟩
theorem WordOrEvent.sor (d : BitVec 5) (a : BitVec 5) (b : BitVec 5) : WordOrEvent.Statement (.sor d a b) := .inl ⟨rfl, rfl⟩
theorem WordOrEvent.sxor (d : BitVec 5) (a : BitVec 5) (b : BitVec 5) : WordOrEvent.Statement (.sxor d a b) := .inl ⟨rfl, rfl⟩
theorem WordOrEvent.sshl (d : BitVec 5) (a : BitVec 5) (b : BitVec 5) : WordOrEvent.Statement (.sshl d a b) := .inl ⟨rfl, rfl⟩
theorem WordOrEvent.sshr (d : BitVec 5) (a : BitVec 5) (b : BitVec 5) : WordOrEvent.Statement (.sshr d a b) := .inl ⟨rfl, rfl⟩
theorem WordOrEvent.sminI64 (d : BitVec 5) (a : BitVec 5) (b : BitVec 5) : WordOrEvent.Statement (.sminI64 d a b) := .inl ⟨rfl, rfl⟩
theorem WordOrEvent.sminN64 (d : BitVec 5) (a : BitVec 5) (b : BitVec 5) : WordOrEvent.Statement (.sminN64 d a b) := .inl ⟨rfl, rfl⟩
theorem WordOrEvent.smaxI64 (d : BitVec 5) (a : BitVec 5) (b : BitVec 5) : WordOrEvent.Statement (.smaxI64 d a b) := .inl ⟨rfl, rfl⟩
theorem WordOrEvent.smaxN64 (d : BitVec 5) (a : BitVec 5) (b : BitVec 5) : WordOrEvent.Statement (.smaxN64 d a b) := .inl ⟨rfl, rfl⟩
theorem WordOrEvent.smov (d : BitVec 5) (a : BitVec 5) : WordOrEvent.Statement (.smov d a) := .inl ⟨rfl, rfl⟩
theorem WordOrEvent.scmpI64 (d : BitVec 5) (a : BitVec 5) (b : BitVec 5) (c : BitVec 3) : WordOrEvent.Statement (.scmpI64 d a b c) := .inl ⟨rfl, rfl⟩
theorem WordOrEvent.scmpN64 (d : BitVec 5) (a : BitVec 5) (b : BitVec 5) (c : BitVec 3) : WordOrEvent.Statement (.scmpN64 d a b c) := .inl ⟨rfl, rfl⟩
theorem WordOrEvent.saddi (d : BitVec 5) (a : BitVec 5) (i : BitVec 13) : WordOrEvent.Statement (.saddi d a i) := .inl ⟨rfl, rfl⟩
theorem WordOrEvent.sandi (d : BitVec 5) (a : BitVec 5) (i : BitVec 13) : WordOrEvent.Statement (.sandi d a i) := .inl ⟨rfl, rfl⟩
theorem WordOrEvent.sshli (d : BitVec 5) (a : BitVec 5) (i : BitVec 13) : WordOrEvent.Statement (.sshli d a i) := .inl ⟨rfl, rfl⟩
theorem WordOrEvent.sshri (d : BitVec 5) (a : BitVec 5) (i : BitVec 13) : WordOrEvent.Statement (.sshri d a i) := .inl ⟨rfl, rfl⟩
theorem WordOrEvent.smovi (d : BitVec 5) (i : BitVec 13) : WordOrEvent.Statement (.smovi d i) := .inl ⟨rfl, rfl⟩
theorem WordOrEvent.sld (d : BitVec 6) (a : BitVec 6) (b : BitVec 6) (p : BitVec 3) : WordOrEvent.Statement (.sld d a b p) := .inl ⟨rfl, rfl⟩
theorem WordOrEvent.sst (d : BitVec 6) (a : BitVec 6) (b : BitVec 6) (p : BitVec 3) : WordOrEvent.Statement (.sst d a b p) := .inl ⟨rfl, rfl⟩
theorem WordOrEvent.scmp (d : BitVec 6) (a : BitVec 6) (b : BitVec 6) (p : BitVec 3) : WordOrEvent.Statement (.scmp d a b p) := .inl ⟨rfl, rfl⟩
theorem WordOrEvent.sfindb (d : BitVec 6) (a : BitVec 6) (b : BitVec 6) (p : BitVec 3) : WordOrEvent.Statement (.sfindb d a b p) := .inl ⟨rfl, rfl⟩
theorem WordOrEvent.sfold (d : BitVec 6) (a : BitVec 6) (p : BitVec 3) : WordOrEvent.Statement (.sfold d a p) := .inl ⟨rfl, rfl⟩
theorem WordOrEvent.smatch (d : BitVec 6) (a : BitVec 6) (b : BitVec 6) (p : BitVec 3) : WordOrEvent.Statement (.smatch d a b p) := .inl ⟨rfl, rfl⟩
theorem WordOrEvent.hcrc (d : BitVec 6) (a : BitVec 6) (b : BitVec 6) (p : BitVec 3) : WordOrEvent.Statement (.hcrc d a b p) := .inl ⟨rfl, rfl⟩
theorem WordOrEvent.hmix (d : BitVec 6) (a : BitVec 6) (p : BitVec 3) : WordOrEvent.Statement (.hmix d a p) := .inl ⟨rfl, rfl⟩
theorem WordOrEvent.rhash (d : BitVec 6) (a : BitVec 6) (b : BitVec 6) (p : BitVec 3) : WordOrEvent.Statement (.rhash d a b p) := .inl ⟨rfl, rfl⟩
theorem WordOrEvent.pbin (d : BitVec 6) (a : BitVec 6) (b : BitVec 6) (p : BitVec 3) : WordOrEvent.Statement (.pbin d a b p) := .inl ⟨rfl, rfl⟩
theorem WordOrEvent.bez (s : BitVec 5) (o : BitVec 18) : WordOrEvent.Statement (.bez s o) := .inl ⟨rfl, rfl⟩
theorem WordOrEvent.bnz (s : BitVec 5) (o : BitVec 18) : WordOrEvent.Statement (.bnz s o) := .inl ⟨rfl, rfl⟩
theorem WordOrEvent.bltz (s : BitVec 5) (o : BitVec 18) : WordOrEvent.Statement (.bltz s o) := .inl ⟨rfl, rfl⟩
theorem WordOrEvent.bgez (s : BitVec 5) (o : BitVec 18) : WordOrEvent.Statement (.bgez s o) := .inl ⟨rfl, rfl⟩
theorem WordOrEvent.bgtz (s : BitVec 5) (o : BitVec 18) : WordOrEvent.Statement (.bgtz s o) := .inl ⟨rfl, rfl⟩
theorem WordOrEvent.blez (s : BitVec 5) (o : BitVec 18) : WordOrEvent.Statement (.blez s o) := .inl ⟨rfl, rfl⟩
theorem WordOrEvent.loopW (s : BitVec 5) (o : BitVec 18) : WordOrEvent.Statement (.loopW s o) := .inl ⟨rfl, rfl⟩
theorem WordOrEvent.jmp (o : BitVec 20) : WordOrEvent.Statement (.jmp o) := .inl ⟨rfl, rfl⟩
theorem WordOrEvent.callW (l : BitVec 4) (o : BitVec 20) : WordOrEvent.Statement (.callW l o) := .inl ⟨rfl, rfl⟩
theorem WordOrEvent.jmpi (s : BitVec 5) : WordOrEvent.Statement (.jmpi s) := .inl ⟨rfl, rfl⟩
theorem WordOrEvent.trapW (c : BitVec 16) : WordOrEvent.Statement (.trapW c) := .inl ⟨rfl, rfl⟩
theorem WordOrEvent.brp (p : BitVec 3) (o : BitVec 18) : WordOrEvent.Statement (.brp p o) := .inl ⟨rfl, rfl⟩
theorem WordOrEvent.regang (o : BitVec 18) : WordOrEvent.Statement (.regang o) := .inl ⟨rfl, rfl⟩
theorem WordOrEvent.ld (d : BitVec 6) (b : BitVec 3) (o : BitVec 6) (w : BitVec 3) (y : BitVec 1) (p : BitVec 3) : WordOrEvent.Statement (.ld d b o w y p) := .inl ⟨rfl, rfl⟩
theorem WordOrEvent.ldAcq (d : BitVec 6) (b : BitVec 3) (o : BitVec 6) (w : BitVec 3) (s : BitVec 4) (p : BitVec 3) : WordOrEvent.Statement (.ldAcq d b o w s p) := .inl ⟨rfl, rfl⟩
theorem WordOrEvent.st (d : BitVec 6) (b : BitVec 3) (o : BitVec 6) (w : BitVec 3) (y : BitVec 1) (p : BitVec 3) : WordOrEvent.Statement (.st d b o w y p) := .inl ⟨rfl, rfl⟩
theorem WordOrEvent.stRel (d : BitVec 6) (b : BitVec 3) (o : BitVec 6) (w : BitVec 3) (s : BitVec 4) (p : BitVec 3) : WordOrEvent.Statement (.stRel d b o w s p) := .inl ⟨rfl, rfl⟩
theorem WordOrEvent.lds (d : BitVec 6) (o : BitVec 6) (w : BitVec 3) (y : BitVec 1) (t : BitVec 3) (p : BitVec 3) : WordOrEvent.Statement (.lds d o w y t p) := .inl ⟨rfl, rfl⟩
theorem WordOrEvent.sts (d : BitVec 6) (o : BitVec 6) (w : BitVec 3) (y : BitVec 1) (t : BitVec 3) (p : BitVec 3) : WordOrEvent.Statement (.sts d o w y t p) := .inl ⟨rfl, rfl⟩
theorem WordOrEvent.atomAdd (d : BitVec 6) (b : BitVec 3) (o : BitVec 4) (a : BitVec 4) (t : BitVec 2) (p : BitVec 3) : WordOrEvent.Statement (.atomAdd d b o a t p) := .inl ⟨rfl, rfl⟩
theorem WordOrEvent.atomMin (d : BitVec 6) (b : BitVec 3) (o : BitVec 4) (a : BitVec 4) (t : BitVec 2) (p : BitVec 3) : WordOrEvent.Statement (.atomMin d b o a t p) := .inl ⟨rfl, rfl⟩
theorem WordOrEvent.atomMax (d : BitVec 6) (b : BitVec 3) (o : BitVec 4) (a : BitVec 4) (t : BitVec 2) (p : BitVec 3) : WordOrEvent.Statement (.atomMax d b o a t p) := .inl ⟨rfl, rfl⟩
theorem WordOrEvent.atomAnd (d : BitVec 6) (b : BitVec 3) (o : BitVec 4) (a : BitVec 4) (t : BitVec 2) (p : BitVec 3) : WordOrEvent.Statement (.atomAnd d b o a t p) := .inl ⟨rfl, rfl⟩
theorem WordOrEvent.atomOr (d : BitVec 6) (b : BitVec 3) (o : BitVec 4) (a : BitVec 4) (t : BitVec 2) (p : BitVec 3) : WordOrEvent.Statement (.atomOr d b o a t p) := .inl ⟨rfl, rfl⟩
theorem WordOrEvent.atomXor (d : BitVec 6) (b : BitVec 3) (o : BitVec 4) (a : BitVec 4) (t : BitVec 2) (p : BitVec 3) : WordOrEvent.Statement (.atomXor d b o a t p) := .inl ⟨rfl, rfl⟩
theorem WordOrEvent.atomXchg (d : BitVec 6) (b : BitVec 3) (o : BitVec 4) (a : BitVec 4) (t : BitVec 2) (p : BitVec 3) : WordOrEvent.Statement (.atomXchg d b o a t p) := .inl ⟨rfl, rfl⟩
theorem WordOrEvent.atomCas (d : BitVec 6) (b : BitVec 3) (o : BitVec 4) (a : BitVec 4) (t : BitVec 2) (p : BitVec 3) : WordOrEvent.Statement (.atomCas d b o a t p) := .inl ⟨rfl, rfl⟩
theorem WordOrEvent.atomFadd (d : BitVec 6) (b : BitVec 3) (o : BitVec 4) (a : BitVec 4) (t : BitVec 2) (p : BitVec 3) : WordOrEvent.Statement (.atomFadd d b o a t p) := .inl ⟨rfl, rfl⟩
theorem WordOrEvent.atomg (d : BitVec 6) (b : BitVec 3) (o : BitVec 4) (a : BitVec 4) (t : BitVec 2) (p : BitVec 3) : WordOrEvent.Statement (.atomg d b o a t p) := .inl ⟨rfl, rfl⟩
theorem WordOrEvent.atomsAdd (d : BitVec 6) (o : BitVec 4) (a : BitVec 4) (t : BitVec 2) (p : BitVec 3) : WordOrEvent.Statement (.atomsAdd d o a t p) := .inl ⟨rfl, rfl⟩
theorem WordOrEvent.atomsMin (d : BitVec 6) (o : BitVec 4) (a : BitVec 4) (t : BitVec 2) (p : BitVec 3) : WordOrEvent.Statement (.atomsMin d o a t p) := .inl ⟨rfl, rfl⟩
theorem WordOrEvent.atomsMax (d : BitVec 6) (o : BitVec 4) (a : BitVec 4) (t : BitVec 2) (p : BitVec 3) : WordOrEvent.Statement (.atomsMax d o a t p) := .inl ⟨rfl, rfl⟩
theorem WordOrEvent.atomsAnd (d : BitVec 6) (o : BitVec 4) (a : BitVec 4) (t : BitVec 2) (p : BitVec 3) : WordOrEvent.Statement (.atomsAnd d o a t p) := .inl ⟨rfl, rfl⟩
theorem WordOrEvent.atomsOr (d : BitVec 6) (o : BitVec 4) (a : BitVec 4) (t : BitVec 2) (p : BitVec 3) : WordOrEvent.Statement (.atomsOr d o a t p) := .inl ⟨rfl, rfl⟩
theorem WordOrEvent.atomsXor (d : BitVec 6) (o : BitVec 4) (a : BitVec 4) (t : BitVec 2) (p : BitVec 3) : WordOrEvent.Statement (.atomsXor d o a t p) := .inl ⟨rfl, rfl⟩
theorem WordOrEvent.atomsXchg (d : BitVec 6) (o : BitVec 4) (a : BitVec 4) (t : BitVec 2) (p : BitVec 3) : WordOrEvent.Statement (.atomsXchg d o a t p) := .inl ⟨rfl, rfl⟩
theorem WordOrEvent.atomsCas (d : BitVec 6) (o : BitVec 4) (a : BitVec 4) (t : BitVec 2) (p : BitVec 3) : WordOrEvent.Statement (.atomsCas d o a t p) := .inl ⟨rfl, rfl⟩
theorem WordOrEvent.atomsFadd (d : BitVec 6) (o : BitVec 4) (a : BitVec 4) (t : BitVec 2) (p : BitVec 3) : WordOrEvent.Statement (.atomsFadd d o a t p) := .inl ⟨rfl, rfl⟩
theorem WordOrEvent.atomgScratch (d : BitVec 6) (o : BitVec 4) (a : BitVec 4) (t : BitVec 2) (p : BitVec 3) : WordOrEvent.Statement (.atomgScratch d o a t p) := .inl ⟨rfl, rfl⟩
theorem WordOrEvent.sdist (d : BitVec 6) (b : BitVec 3) (o : BitVec 6) (p : BitVec 3) : WordOrEvent.Statement (.sdist d b o p) := .inl ⟨rfl, rfl⟩
theorem WordOrEvent.spin (d : BitVec 6) (b : BitVec 3) (o : BitVec 6) (p : BitVec 3) : WordOrEvent.Statement (.spin d b o p) := .inl ⟨rfl, rfl⟩
theorem WordOrEvent.sunpin (b : BitVec 3) (o : BitVec 6) (p : BitVec 3) : WordOrEvent.Statement (.sunpin b o p) := .inl ⟨rfl, rfl⟩
theorem WordOrEvent.sbyp (b : BitVec 3) (o : BitVec 6) (p : BitVec 3) : WordOrEvent.Statement (.sbyp b o p) := .inl ⟨rfl, rfl⟩
theorem WordOrEvent.sclr (b : BitVec 3) (o : BitVec 6) (p : BitVec 3) : WordOrEvent.Statement (.sclr b o p) := .inl ⟨rfl, rfl⟩
theorem WordOrEvent.stouch (b : BitVec 3) (o : BitVec 6) (p : BitVec 3) : WordOrEvent.Statement (.stouch b o p) := .inl ⟨rfl, rfl⟩
theorem WordOrEvent.bset (n : BitVec 3) (s : BitVec 5) : WordOrEvent.Statement (.bset n s) := .inl ⟨rfl, rfl⟩
theorem WordOrEvent.blim (n : BitVec 3) (s : BitVec 5) : WordOrEvent.Statement (.blim n s) := .inl ⟨rfl, rfl⟩
theorem WordOrEvent.lduB32 (d : BitVec 5) (n : BitVec 3) : WordOrEvent.Statement (.lduB32 d n) := .inl ⟨rfl, rfl⟩
theorem WordOrEvent.lduB64 (d : BitVec 5) (n : BitVec 3) : WordOrEvent.Statement (.lduB64 d n) := .inl ⟨rfl, rfl⟩
theorem WordOrEvent.waitc (l : BitVec 6) (s : BitVec 6) (b : BitVec 4) (t : BitVec 5) : WordOrEvent.Statement (.waitc l s b t) := .inl ⟨rfl, rfl⟩
theorem WordOrEvent.waitb (s : BitVec 5) : WordOrEvent.Statement (.waitb s) := .inl ⟨rfl, rfl⟩
theorem WordOrEvent.waitv (b : BitVec 3) (s : BitVec 5) : WordOrEvent.Statement (.waitv b s) := .inl ⟨rfl, rfl⟩
theorem WordOrEvent.binit (s : BitVec 5) (w : BitVec 4) : WordOrEvent.Statement (.binit s w) := .inl ⟨rfl, rfl⟩
theorem WordOrEvent.barv (w : BitVec 4) : WordOrEvent.Statement (.barv w) := .inl ⟨rfl, rfl⟩
theorem WordOrEvent.bexp (s : BitVec 5) (w : BitVec 4) : WordOrEvent.Statement (.bexp s w) := .inl ⟨rfl, rfl⟩
theorem WordOrEvent.bwait (s : BitVec 5) (w : BitVec 4) : WordOrEvent.Statement (.bwait s w) := .inl ⟨rfl, rfl⟩
theorem WordOrEvent.btest (d : BitVec 5) (w : BitVec 4) : WordOrEvent.Statement (.btest d w) := .inl ⟨rfl, rfl⟩
theorem WordOrEvent.fence (s : BitVec 4) : WordOrEvent.Statement (.fence s) := .inl ⟨rfl, rfl⟩
theorem WordOrEvent.cpy (s : BitVec 5) (w : BitVec 4) (q : BitVec 1) : WordOrEvent.Statement (.cpy s w q) := .inl ⟨rfl, rfl⟩
theorem WordOrEvent.cpyg (s : BitVec 5) (w : BitVec 4) (q : BitVec 1) : WordOrEvent.Statement (.cpyg s w q) := .inl ⟨rfl, rfl⟩
theorem WordOrEvent.cpys (s : BitVec 5) (w : BitVec 4) (q : BitVec 1) : WordOrEvent.Statement (.cpys s w q) := .inl ⟨rfl, rfl⟩
theorem WordOrEvent.cpyc (s : BitVec 5) (w : BitVec 4) (q : BitVec 1) : WordOrEvent.Statement (.cpyc s w q) := .inl ⟨rfl, rfl⟩
theorem WordOrEvent.close (d : BitVec 5) : WordOrEvent.Statement (.close d) := .inl ⟨rfl, rfl⟩
theorem WordOrEvent.emit (a : BitVec 5) (b : BitVec 5) : WordOrEvent.Statement (.emit a b) := .inl ⟨rfl, rfl⟩
theorem WordOrEvent.emitNb (a : BitVec 5) (b : BitVec 5) (n : BitVec 3) : WordOrEvent.Statement (.emitNb a b n) := .inl ⟨rfl, rfl⟩
theorem WordOrEvent.rdsys (d : BitVec 5) (n : BitVec 11) : WordOrEvent.Statement (.rdsys d n) := .inl ⟨rfl, rfl⟩
theorem WordOrEvent.wrsys (s : BitVec 5) (n : BitVec 11) : WordOrEvent.Statement (.wrsys s n) := .inl ⟨rfl, rfl⟩
theorem WordOrEvent.tick (d : BitVec 5) : WordOrEvent.Statement (.tick d) := .inl ⟨rfl, rfl⟩
theorem WordOrEvent.cyc (d : BitVec 5) : WordOrEvent.Statement (.cyc d) := .inl ⟨rfl, rfl⟩
theorem WordOrEvent.timerRes (s : BitVec 5) : WordOrEvent.Statement (.timerRes s) := .inl ⟨rfl, rfl⟩
theorem WordOrEvent.timerWall (s : BitVec 5) : WordOrEvent.Statement (.timerWall s) := .inl ⟨rfl, rfl⟩
theorem WordOrEvent.haltx (c : BitVec 12) : WordOrEvent.Statement (.haltx c) := .inl ⟨rfl, rfl⟩
theorem WordOrEvent.shoot (s : BitVec 5) : WordOrEvent.Statement (.shoot s) := .inl ⟨rfl, rfl⟩
theorem WordOrEvent.mmq (c : BitVec 4) (a : BitVec 6) (o : BitVec 3) (f : BitVec 4) (r : BitVec 1) (k : BitVec 5) (p : BitVec 3) : WordOrEvent.Statement (.mmq c a o f r k p) := .inl ⟨rfl, rfl⟩
theorem WordOrEvent.mms (c : BitVec 4) (a : BitVec 6) (o : BitVec 3) (f : BitVec 4) (r : BitVec 1) (k : BitVec 5) (p : BitVec 3) : WordOrEvent.Statement (.mms c a o f r k p) := .inl ⟨rfl, rfl⟩
theorem WordOrEvent.obres (s : BitVec 5) (o : BitVec 3) : WordOrEvent.Statement (.obres s o) := .inl ⟨rfl, rfl⟩
theorem WordOrEvent.obrel (o : BitVec 3) : WordOrEvent.Statement (.obrel o) := .inl ⟨rfl, rfl⟩
theorem WordOrEvent.obld (s : BitVec 5) (t : BitVec 5) (o : BitVec 3) : WordOrEvent.Statement (.obld s t o) := .inl ⟨rfl, rfl⟩
theorem WordOrEvent.scfifo (s : BitVec 5) (o : BitVec 3) : WordOrEvent.Statement (.scfifo s o) := .inl ⟨rfl, rfl⟩
theorem WordOrEvent.scpush (s : BitVec 5) (t : BitVec 5) : WordOrEvent.Statement (.scpush s t) := .inl ⟨rfl, rfl⟩
theorem WordOrEvent.sccache (s : BitVec 5) (t : BitVec 5) : WordOrEvent.Statement (.sccache s t) := .inl ⟨rfl, rfl⟩
theorem WordOrEvent.accz (c : BitVec 4) : WordOrEvent.Statement (.accz c) := .inl ⟨rfl, rfl⟩
theorem WordOrEvent.accld (s : BitVec 5) (c : BitVec 4) : WordOrEvent.Statement (.accld s c) := .inl ⟨rfl, rfl⟩
theorem WordOrEvent.accst (s : BitVec 5) (c : BitVec 4) : WordOrEvent.Statement (.accst s c) := .inl ⟨rfl, rfl⟩
theorem WordOrEvent.accrst (i : BitVec 5) : WordOrEvent.Statement (.accrst i) := .inl ⟨rfl, rfl⟩
theorem WordOrEvent.snput (d : BitVec 6) (a : BitVec 6) (b : BitVec 6) : WordOrEvent.Statement (.snput d a b) := .inl ⟨rfl, rfl⟩
theorem WordOrEvent.snfind (d : BitVec 6) (a : BitVec 6) (b : BitVec 6) : WordOrEvent.Statement (.snfind d a b) := .inl ⟨rfl, rfl⟩
theorem WordOrEvent.snget (d : BitVec 6) (a : BitVec 6) : WordOrEvent.Statement (.snget d a) := .inl ⟨rfl, rfl⟩
theorem WordOrEvent.snrel (a : BitVec 6) : WordOrEvent.Statement (.snrel a) := .inl ⟨rfl, rfl⟩
theorem WordOrEvent.kvmap (d : BitVec 6) (a : BitVec 6) (b : BitVec 6) (p : BitVec 3) : WordOrEvent.Statement (.kvmap d a b p) := .inl ⟨rfl, rfl⟩
theorem WordOrEvent.kvapp (d : BitVec 6) (a : BitVec 6) (b : BitVec 6) (p : BitVec 3) : WordOrEvent.Statement (.kvapp d a b p) := .inl ⟨rfl, rfl⟩
theorem WordOrEvent.kvcommit (a : BitVec 6) (b : BitVec 6) : WordOrEvent.Statement (.kvcommit a b) := .inl ⟨rfl, rfl⟩
theorem WordOrEvent.kvfree (a : BitVec 6) : WordOrEvent.Statement (.kvfree a) := .inl ⟨rfl, rfl⟩
theorem WordOrEvent.himm (p : BitVec 22) : WordOrEvent.Statement (.himm p) := .inl ⟨rfl, rfl⟩
theorem WordOrEvent.hoff (p : BitVec 22) : WordOrEvent.Statement (.hoff p) := .inl ⟨rfl, rfl⟩
theorem WordOrEvent.hsched (m : BitVec 2) (s : BitVec 4) (y : BitVec 1) : WordOrEvent.Statement (.hsched m s y) := .inl ⟨rfl, rfl⟩
theorem WordOrEvent.hmod (i : BitVec 1) (f : BitVec 1) (s : BitVec 1) (m : BitVec 3) : WordOrEvent.Statement (.hmod i f s m) := .inl ⟨rfl, rfl⟩
theorem WordOrEvent.hreg (r : BitVec 6) : WordOrEvent.Statement (.hreg r) := .inl ⟨rfl, rfl⟩
theorem WordOrEvent.hscope (o : BitVec 2) (s : BitVec 4) : WordOrEvent.Statement (.hscope o s) := .inl ⟨rfl, rfl⟩
theorem WordOrEvent.hareg (a : BitVec 2) (o : BitVec 2) : WordOrEvent.Statement (.hareg a o) := .inl ⟨rfl, rfl⟩
theorem WordOrEvent.hmark (m : BitVec 16) : WordOrEvent.Statement (.hmark m) := .inl ⟨rfl, rfl⟩
theorem WordOrEvent.ret : WordOrEvent.Statement .ret := .inl ⟨rfl, rfl⟩
theorem WordOrEvent.exitW : WordOrEvent.Statement .exitW := .inl ⟨rfl, rfl⟩
theorem WordOrEvent.rcv : WordOrEvent.Statement .rcv := .inl ⟨rfl, rfl⟩
theorem WordOrEvent.yieldW : WordOrEvent.Statement .yieldW := .inl ⟨rfl, rfl⟩
theorem WordOrEvent.fencex : WordOrEvent.Statement .fencex := .inl ⟨rfl, rfl⟩
theorem WordOrEvent.loadReturn (op slice : Nat) : WordOrEvent.Statement (.loadReturn op slice) := .inr ⟨rfl, rfl⟩
theorem WordOrEvent.matrixWordComplete (core : Nat) : WordOrEvent.Statement (.matrixWordComplete core) := .inr ⟨rfl, rfl⟩
theorem WordOrEvent.joinComplete (team g : Nat) : WordOrEvent.Statement (.joinComplete team g) := .inr ⟨rfl, rfl⟩
theorem WordOrEvent.rcvRelease (team g : Nat) (at_ : Word) : WordOrEvent.Statement (.rcvRelease team g at_) := .inr ⟨rfl, rfl⟩
theorem WordOrEvent.timerFire (team g : Nat) : WordOrEvent.Statement (.timerFire team g) := .inr ⟨rfl, rfl⟩
theorem WordOrEvent.yieldExpire (team g : Nat) : WordOrEvent.Statement (.yieldExpire team g) := .inr ⟨rfl, rfl⟩
theorem WordOrEvent.handlerFormation (team : Nat) : WordOrEvent.Statement (.handlerFormation team) := .inr ⟨rfl, rfl⟩
theorem WordOrEvent.trapRelease (team g : Nat) (slices : BitVec 8) : WordOrEvent.Statement (.trapRelease team g slices) := .inr ⟨rfl, rfl⟩
theorem WordOrEvent.jobAccept (team job : Nat) : WordOrEvent.Statement (.jobAccept team job) := .inr ⟨rfl, rfl⟩
theorem WordOrEvent.jobLand (team job row lo n : Nat) : WordOrEvent.Statement (.jobLand team job row lo n) := .inr ⟨rfl, rfl⟩
theorem WordOrEvent.jobComplete (team job : Nat) : WordOrEvent.Statement (.jobComplete team job) := .inr ⟨rfl, rfl⟩
theorem WordOrEvent.jobStop (team job : Nat) : WordOrEvent.Statement (.jobStop team job) := .inr ⟨rfl, rfl⟩
theorem WordOrEvent.engineStep (polder op : Nat) : WordOrEvent.Statement (.engineStep polder op) := .inr ⟨rfl, rfl⟩
theorem WordOrEvent.admission (q : Nat) : WordOrEvent.Statement (.admission q) := .inr ⟨rfl, rfl⟩
theorem WordOrEvent.fillLands (q tile : Nat) : WordOrEvent.Statement (.fillLands q tile) := .inr ⟨rfl, rfl⟩
theorem WordOrEvent.writeBackAtHome (entry : Nat) : WordOrEvent.Statement (.writeBackAtHome entry) := .inr ⟨rfl, rfl⟩
theorem WordOrEvent.drainRequest (home q : Nat) : WordOrEvent.Statement (.drainRequest home q) := .inr ⟨rfl, rfl⟩
theorem WordOrEvent.maskDrain (home q : Nat) : WordOrEvent.Statement (.maskDrain home q) := .inr ⟨rfl, rfl⟩
theorem WordOrEvent.backInvalidation (line : Nat) : WordOrEvent.Statement (.backInvalidation line) := .inr ⟨rfl, rfl⟩
theorem WordOrEvent.hostSnoop (line : Nat) : WordOrEvent.Statement (.hostSnoop line) := .inr ⟨rfl, rfl⟩
theorem WordOrEvent.hostRead (pa n : Nat) : WordOrEvent.Statement (.hostRead pa n) := .inr ⟨rfl, rfl⟩
theorem WordOrEvent.hostWrite (pa n value : Nat) : WordOrEvent.Statement (.hostWrite pa n value) := .inr ⟨rfl, rfl⟩
theorem WordOrEvent.peerRequest (link kind asid va n value : Nat) : WordOrEvent.Statement (.peerRequest link kind asid va n value) := .inr ⟨rfl, rfl⟩
theorem WordOrEvent.flitReceive (link seq : Nat) (good : Bool) : WordOrEvent.Statement (.flitReceive link seq good) := .inr ⟨rfl, rfl⟩
theorem WordOrEvent.replay (link : Nat) : WordOrEvent.Statement (.replay link) := .inr ⟨rfl, rfl⟩
theorem WordOrEvent.linkRetrain (link : Nat) : WordOrEvent.Statement (.linkRetrain link) := .inr ⟨rfl, rfl⟩
theorem WordOrEvent.hold (link : Nat) : WordOrEvent.Statement (.hold link) := .inr ⟨rfl, rfl⟩
theorem WordOrEvent.go (link : Nat) : WordOrEvent.Statement (.go link) := .inr ⟨rfl, rfl⟩
theorem WordOrEvent.poolLinkLost (port : Nat) (expander : Option Nat) : WordOrEvent.Statement (.poolLinkLost port expander) := .inr ⟨rfl, rfl⟩
theorem WordOrEvent.degradedService (region : Nat) : WordOrEvent.Statement (.degradedService region) := .inr ⟨rfl, rfl⟩
theorem WordOrEvent.serviceRestored (region : Nat) : WordOrEvent.Statement (.serviceRestored region) := .inr ⟨rfl, rfl⟩
theorem WordOrEvent.online (region : Nat) : WordOrEvent.Statement (.online region) := .inr ⟨rfl, rfl⟩
theorem WordOrEvent.regionFence (region : Nat) : WordOrEvent.Statement (.regionFence region) := .inr ⟨rfl, rfl⟩
theorem WordOrEvent.rehome (region : Nat) : WordOrEvent.Statement (.rehome region) := .inr ⟨rfl, rfl⟩
theorem WordOrEvent.discard (region : Nat) : WordOrEvent.Statement (.discard region) := .inr ⟨rfl, rfl⟩
theorem WordOrEvent.closeRefuse (polder : Nat) : WordOrEvent.Statement (.closeRefuse polder) := .inr ⟨rfl, rfl⟩
theorem WordOrEvent.closeDrain (polder : Nat) : WordOrEvent.Statement (.closeDrain polder) := .inr ⟨rfl, rfl⟩
theorem WordOrEvent.openSluice (polder : Nat) : WordOrEvent.Statement (.openSluice polder) := .inr ⟨rfl, rfl⟩
theorem WordOrEvent.sluiceClosed (polder : Nat) : WordOrEvent.Statement (.sluiceClosed polder) := .inr ⟨rfl, rfl⟩
theorem WordOrEvent.pshapeWrite (q : Nat) (v : DWord) : WordOrEvent.Statement (.pshapeWrite q v) := .inr ⟨rfl, rfl⟩
theorem WordOrEvent.biasFlip (polder : Nat) (v : DWord) : WordOrEvent.Statement (.biasFlip polder v) := .inr ⟨rfl, rfl⟩
theorem WordOrEvent.qtailWrite (polder queue : Nat) (v : DWord) : WordOrEvent.Statement (.qtailWrite polder queue v) := .inr ⟨rfl, rfl⟩
theorem WordOrEvent.qcfgWrite (polder queue : Nat) (v : DWord) : WordOrEvent.Statement (.qcfgWrite polder queue v) := .inr ⟨rfl, rfl⟩
theorem WordOrEvent.tokenWrite (polder token : Nat) (v : DWord) : WordOrEvent.Statement (.tokenWrite polder token v) := .inr ⟨rfl, rfl⟩
theorem WordOrEvent.noOperation (polder queue : Nat) : WordOrEvent.Statement (.noOperation polder queue) := .inr ⟨rfl, rfl⟩
theorem WordOrEvent.kernelLaunch (polder queue : Nat) : WordOrEvent.Statement (.kernelLaunch polder queue) := .inr ⟨rfl, rfl⟩
theorem WordOrEvent.signalOnly (polder queue : Nat) : WordOrEvent.Statement (.signalOnly polder queue) := .inr ⟨rfl, rfl⟩
theorem WordOrEvent.prefixLookup (launch : Nat) : WordOrEvent.Statement (.prefixLookup launch) := .inr ⟨rfl, rfl⟩
theorem WordOrEvent.launchComplete (launch : Nat) : WordOrEvent.Statement (.launchComplete launch) := .inr ⟨rfl, rfl⟩
theorem WordOrEvent.placeTeam (polder q : Nat) : WordOrEvent.Statement (.placeTeam polder q) := .inr ⟨rfl, rfl⟩
theorem WordOrEvent.candidateReserved (team : Nat) : WordOrEvent.Statement (.candidateReserved team) := .inr ⟨rfl, rfl⟩
theorem WordOrEvent.forwardProgressSwap (core : Nat) : WordOrEvent.Statement (.forwardProgressSwap core) := .inr ⟨rfl, rfl⟩
theorem WordOrEvent.dispatchRecord (polder : Nat) : WordOrEvent.Statement (.dispatchRecord polder) := .inr ⟨rfl, rfl⟩
theorem WordOrEvent.nodeTeamCreate (launch node : Nat) : WordOrEvent.Statement (.nodeTeamCreate launch node) := .inr ⟨rfl, rfl⟩
theorem WordOrEvent.nodeTimeout (launch node : Nat) : WordOrEvent.Statement (.nodeTimeout launch node) := .inr ⟨rfl, rfl⟩
theorem WordOrEvent.create (polder ctx : Nat) : WordOrEvent.Statement (.create polder ctx) := .inr ⟨rfl, rfl⟩
theorem WordOrEvent.quota (polder ctx : Nat) : WordOrEvent.Statement (.quota polder ctx) := .inr ⟨rfl, rfl⟩
theorem WordOrEvent.sync (polder ctx : Nat) : WordOrEvent.Statement (.sync polder ctx) := .inr ⟨rfl, rfl⟩
theorem WordOrEvent.preempt (polder ctx : Nat) : WordOrEvent.Statement (.preempt polder ctx) := .inr ⟨rfl, rfl⟩
theorem WordOrEvent.resume (polder ctx : Nat) : WordOrEvent.Statement (.resume polder ctx) := .inr ⟨rfl, rfl⟩
theorem WordOrEvent.teardown (polder ctx : Nat) : WordOrEvent.Statement (.teardown polder ctx) := .inr ⟨rfl, rfl⟩
theorem WordOrEvent.shootall (polder ctx : Nat) : WordOrEvent.Statement (.shootall polder ctx) := .inr ⟨rfl, rfl⟩
theorem WordOrEvent.retry (polder index : Nat) : WordOrEvent.Statement (.retry polder index) := .inr ⟨rfl, rfl⟩
theorem WordOrEvent.deny (polder index : Nat) : WordOrEvent.Statement (.deny polder index) := .inr ⟨rfl, rfl⟩
theorem WordOrEvent.dupfill (polder index frame : Nat) : WordOrEvent.Statement (.dupfill polder index frame) := .inr ⟨rfl, rfl⟩
theorem WordOrEvent.spflush (q : Nat) (v : DWord) : WordOrEvent.Statement (.spflush q v) := .inr ⟨rfl, rfl⟩
theorem WordOrEvent.broleWrite (core : Nat) (v : DWord) : WordOrEvent.Statement (.broleWrite core v) := .inr ⟨rfl, rfl⟩
theorem WordOrEvent.pipeRatioWrite (core : Nat) (v : DWord) : WordOrEvent.Statement (.pipeRatioWrite core v) := .inr ⟨rfl, rfl⟩
theorem WordOrEvent.thset (v : DWord) : WordOrEvent.Statement (.thset v) := .inr ⟨rfl, rfl⟩
theorem WordOrEvent.featonWrite (polder n : Nat) (v : DWord) : WordOrEvent.Statement (.featonWrite polder n v) := .inr ⟨rfl, rfl⟩
theorem WordOrEvent.sensorSample (region : Nat) (temp : BitVec 12) : WordOrEvent.Statement (.sensorSample region temp) := .inr ⟨rfl, rfl⟩
theorem WordOrEvent.refresh (channel length : Nat) : WordOrEvent.Statement (.refresh channel length) := .inr ⟨rfl, rfl⟩
theorem WordOrEvent.thermalWindow : WordOrEvent.Statement .thermalWindow := .inr ⟨rfl, rfl⟩
theorem WordOrEvent.scrub (unit : Nat) : WordOrEvent.Statement (.scrub unit) := .inr ⟨rfl, rfl⟩
theorem WordOrEvent.retentionEntry (core : Nat) : WordOrEvent.Statement (.retentionEntry core) := .inr ⟨rfl, rfl⟩
theorem WordOrEvent.retentionExit (core : Nat) (parityOk : Bool) : WordOrEvent.Statement (.retentionExit core parityOk) := .inr ⟨rfl, rfl⟩
theorem WordOrEvent.reset : WordOrEvent.Statement .reset := .inr ⟨rfl, rfl⟩
theorem WordOrEvent.powerLoss : WordOrEvent.Statement .powerLoss := .inr ⟨rfl, rfl⟩
theorem WordOrEvent.releaseFromReset (ok0 ok1 : Bool) (svn0 svn1 : BitVec 16) : WordOrEvent.Statement (.releaseFromReset ok0 ok1 svn0 svn1) := .inr ⟨rfl, rfl⟩
theorem WordOrEvent.readySet (bits : DWord) : WordOrEvent.Statement (.readySet bits) := .inr ⟨rfl, rfl⟩
theorem WordOrEvent.getVersion (fn : Nat) : WordOrEvent.Statement (.getVersion fn) := .inr ⟨rfl, rfl⟩
theorem WordOrEvent.getCapabilities (fn : Nat) : WordOrEvent.Statement (.getCapabilities fn) := .inr ⟨rfl, rfl⟩
theorem WordOrEvent.negotiateAlgorithms (fn : Nat) : WordOrEvent.Statement (.negotiateAlgorithms fn) := .inr ⟨rfl, rfl⟩
theorem WordOrEvent.getDigests (fn : Nat) : WordOrEvent.Statement (.getDigests fn) := .inr ⟨rfl, rfl⟩
theorem WordOrEvent.getCertificate (fn : Nat) : WordOrEvent.Statement (.getCertificate fn) := .inr ⟨rfl, rfl⟩
theorem WordOrEvent.challenge (fn : Nat) : WordOrEvent.Statement (.challenge fn) := .inr ⟨rfl, rfl⟩
theorem WordOrEvent.getMeasurements (fn : Nat) : WordOrEvent.Statement (.getMeasurements fn) := .inr ⟨rfl, rfl⟩
theorem WordOrEvent.keyExchange (fn : Nat) : WordOrEvent.Statement (.keyExchange fn) := .inr ⟨rfl, rfl⟩
theorem WordOrEvent.finish (fn : Nat) : WordOrEvent.Statement (.finish fn) := .inr ⟨rfl, rfl⟩
theorem WordOrEvent.keyLoad (fn slot : Nat) (data tweak : BitVec 256) : WordOrEvent.Statement (.keyLoad fn slot data tweak) := .inr ⟨rfl, rfl⟩
theorem WordOrEvent.stopTick : WordOrEvent.Statement .stopTick := .inr ⟨rfl, rfl⟩
theorem WordOrEvent.execWords (core : Nat) (v : DWord) : WordOrEvent.Statement (.execWords core v) := .inr ⟨rfl, rfl⟩
theorem WordOrEvent.dbgResume (core : Nat) : WordOrEvent.Statement (.dbgResume core) := .inr ⟨rfl, rfl⟩
theorem WordOrEvent.halt (core : Nat) : WordOrEvent.Statement (.halt core) := .inr ⟨rfl, rfl⟩
theorem WordOrEvent.clr (core : Nat) : WordOrEvent.Statement (.clr core) := .inr ⟨rfl, rfl⟩
theorem WordOrEvent.regWrite (space : Nat) (num : Nat) (v : DWord) : WordOrEvent.Statement (.regWrite space num v) := .inr ⟨rfl, rfl⟩
theorem WordOrEvent.notAnInstruction (word : Option Word) : WordOrEvent.Statement (.notAnInstruction word) := .inr ⟨rfl, rfl⟩
theorem WordOrEvent.lineFill (team g line : Nat) : WordOrEvent.Statement (.lineFill team g line) := .inr ⟨rfl, rfl⟩
theorem WordOrEvent.motionEnd (q tile : Nat) : WordOrEvent.Statement (.motionEnd q tile) := .inr ⟨rfl, rfl⟩
theorem WordOrEvent.cycleEnd : WordOrEvent.Statement .cycleEnd := .inr ⟨rfl, rfl⟩
theorem WordOrEvent.poolLinkUp (port : Nat) : WordOrEvent.Statement (.poolLinkUp port) := .inr ⟨rfl, rfl⟩
theorem WordOrEvent.linkTrained (link : Nat) : WordOrEvent.Statement (.linkTrained link) := .inr ⟨rfl, rfl⟩
theorem WordOrEvent.sncfgWrite (polder : Nat) (v : DWord) : WordOrEvent.Statement (.sncfgWrite polder v) := .inr ⟨rfl, rfl⟩
theorem WordOrEvent.fqheadWrite (polder : Nat) (v : DWord) : WordOrEvent.Statement (.fqheadWrite polder v) := .inr ⟨rfl, rfl⟩
theorem WordOrEvent.fqcfgWrite (polder : Nat) (v : DWord) : WordOrEvent.Statement (.fqcfgWrite polder v) := .inr ⟨rfl, rfl⟩
theorem WordOrEvent.readClear (space num : Nat) : WordOrEvent.Statement (.readClear space num) := .inr ⟨rfl, rfl⟩
theorem WordOrEvent.serviceKernel (core code len kdata kconst producer matrix vector budget scratch : Nat) : WordOrEvent.Statement (.serviceKernel core code len kdata kconst producer matrix vector budget scratch) := .inr ⟨rfl, rfl⟩

end Sys2Proof.Laws
end

