-- ==== Sys2Proof/Laws/Regs.lean ====
section
/-! SUPPORT. What the accessors of a group's registers read after a write: one law per pair. -/
namespace Sys2Proof.Machine

/-! ## Lists -/

theorem modAt_length {α : Type} (xs : List α) (i : Nat) (f : α → α) : (modAt xs i f).length = xs.length := by
  simp [modAt]

theorem modAt_getD {α : Type} (xs : List α) (i j : Nat) (f : α → α) (d : α) :
    (modAt xs i f).getD j d = if i = j ∧ j < xs.length then f (xs.getD j d) else xs.getD j d := by
  simp only [modAt, List.getD_eq_getElem?_getD, List.getElem?_modify]
  by_cases hj : j < xs.length
  · by_cases hi : i = j <;> simp [hi, hj]
  · simp [hj]

theorem modAt_getD_ne {α : Type} {xs : List α} {i j : Nat} {f : α → α} {d : α} (h : i ≠ j) :
    (modAt xs i f).getD j d = xs.getD j d := by
  rw [modAt_getD, if_neg (fun x => h x.1)]

theorem getD_set {α : Type} (xs : List α) (i j : Nat) (x d : α) :
    (xs.set i x).getD j d = if i = j ∧ j < xs.length then x else xs.getD j d := by
  simp only [List.getD_eq_getElem?_getD, List.getElem?_set]
  by_cases hi : i = j
  · subst hi; by_cases h : i < xs.length <;> simp [h]
  · simp [hi]

/-! ## Lines and lanes -/

theorem at_mkLine (f : Nat → Word) {l : Nat} (h : l < 32) : Line.at (mkLine f) l = f l := by
  simp [Line.at, mkLine, laneList, List.getD_eq_getElem?_getD, h]

theorem at_getD (xs : List Line) (n l : Nat) (h : xs.length ≤ n) : Line.at (xs.getD n zeroLine) l = 0 := by
  rw [List.getD_eq_getElem?_getD, List.getElem?_eq_none h]
  by_cases hl : l < 32
  · have e : zeroLine[l]? = some 0 := List.getElem?_replicate_of_lt hl
    simp [Line.at, List.getD_eq_getElem?_getD, e]
  · simp only [Option.getD_none, Line.at, zeroLine, List.getD_eq_getElem?_getD]
    rw [List.getElem?_eq_none (by simpa using hl)]
    rfl

/-- Lane l of line j after a write of line i. -/
theorem Group.line_setLine (g : Group) (i j : Nat) (m : Lanes) (f : Nat → Word) {l : Nat} (h : l < 32) :
    Line.at ((g.setLine i m f).line j) l =
      if i = j ∧ j < g.lines.length ∧ m.getLsbD l then f l else Line.at (g.line j) l := by
  simp only [Group.setLine, Group.line, modAt_getD]
  by_cases hi : i = j ∧ j < g.lines.length
  · rw [if_pos hi, at_mkLine _ h]
    by_cases hm : m.getLsbD l <;> simp [hi, hm]
  · rw [if_neg hi, if_neg (fun x => hi ⟨x.1, x.2.1⟩)]

/-- Lane l of vector register k after a write of vector register n. -/
theorem Group.v_setV (g : Group) (n k : Nat) (m : Lanes) (f : Nat → Word) {l : Nat} (h : l < 32) :
    (g.setV n m f).v k l =
      if n = k ∧ g.ctl.base + k < g.lines.length ∧ m.getLsbD l then f l else g.v k l := by
  have e := g.line_setLine (g.ctl.base + n) (g.ctl.base + k) m f h
  simp only [Group.v, Group.setV, Group.setLine_ctl] at *
  rw [e]
  by_cases hn : n = k <;> simp [hn]

@[simp] theorem Group.setLine_length (g : Group) (i : Nat) (m : Lanes) (f : Nat → Word) :
    (g.setLine i m f).lines.length = g.lines.length := by simp [Group.setLine, modAt_length]

@[simp] theorem Group.setV_length (g : Group) (n : Nat) (m : Lanes) (f : Nat → Word) :
    (g.setV n m f).lines.length = g.lines.length := by simp [Group.setV]

@[simp] theorem Group.setVN_length (g : Group) (n : Nat) (m : Lanes) (f : Nat → Nat) (k : Nat) :
    (g.setVN n m f k).lines.length = g.lines.length := by
  induction k generalizing g n f with
  | zero => rfl
  | succ k ih => rw [Group.setVN, ih, Group.setV_length]

/-- A register outside a run of registers written keeps its lanes; a lane that is not selected keeps every register. -/
theorem Group.v_setVN_other (g : Group) (n k j : Nat) (m : Lanes) (f : Nat → Nat) {l : Nat} (h : l < 32)
    (hj : j < n ∨ n + k ≤ j ∨ m.getLsbD l = false) : (g.setVN n m f k).v j l = g.v j l := by
  induction k generalizing g n f with
  | zero => rfl
  | succ k ih =>
    rw [Group.setVN, ih _ _ _ (by rcases hj with a | a | a <;> first | exact .inr (.inr a) | omega), Group.v_setV _ _ _ _ _ h,
      if_neg]
    rintro ⟨h1, -, h3⟩
    rcases hj with a | a | a
    · omega
    · omega
    · simp [a] at h3

/-- Register j of a run of registers written from one number a lane, in a selected lane. -/
theorem Group.v_setVN (g : Group) (n k j : Nat) (m : Lanes) (f : Nat → Nat) {l : Nat} (h : l < 32) (hm : m.getLsbD l = true)
    (h1 : n ≤ j) (h2 : j < n + k) (hl : g.ctl.base + j < g.lines.length) :
    (g.setVN n m f k).v j l = BitVec.ofNat 32 (f l / 2 ^ (32 * (j - n))) := by
  induction k generalizing g n f with
  | zero => omega
  | succ k ih =>
    rw [Group.setVN]
    by_cases hj : n = j
    · subst hj
      rw [Group.v_setVN_other _ _ _ _ _ _ h (Or.inl (by omega)), Group.v_setV _ _ _ _ _ h, if_pos ⟨rfl, hl, hm⟩]
      simp
    · rw [ih _ _ _ (by omega) (by omega) (by simpa using hl)]
      congr 1
      rw [Nat.div_div_eq_div_mul, ← Nat.pow_add]
      congr 2
      omega

/-- The pair of registers k after a pair n is written, both even. -/
theorem Group.v_setV64 (g : Group) (n k : Nat) (m : Lanes) (f : Nat → DWord) {l : Nat} (h : l < 32) :
    (g.setV64 n m f).v k l =
      if g.ctl.base + k < g.lines.length ∧ m.getLsbD l ∧ n = k then (f l).extractLsb' 0 32
      else if g.ctl.base + k < g.lines.length ∧ m.getLsbD l ∧ n + 1 = k then (f l).extractLsb' 32 32
      else g.v k l := by
  rw [Group.setV64, Group.v_setV _ _ _ _ _ h, Group.v_setV _ _ _ _ _ h]
  simp only [Group.setV_ctl, Group.setV_length]
  by_cases hb : g.ctl.base + k < g.lines.length <;> by_cases hm : m.getLsbD l <;> by_cases h0 : n = k <;>
    by_cases h1 : n + 1 = k <;> simp_all

/-! ## Scalars, predicates, index registers -/

theorem Group.s_setS (g : Group) (n k : Nat) (x : DWord) :
    (g.setS n x).s k = if n = k ∧ k < g.scalars.length then x else g.s k := by
  simp only [Group.s, Group.setS, getD_set]

theorem Group.s_setS_ne (g : Group) {n k : Nat} (x : DWord) (h : n ≠ k) : (g.setS n x).s k = g.s k := by
  rw [Group.s_setS, if_neg (fun x => h x.1)]

theorem Group.p_setP (g : Group) (n k : Nat) (m b : Lanes) :
    (g.setP n m b).p k = if n = k ∧ n ≠ 0 ∧ k < g.preds.length then (g.p k &&& ~~~m) ||| (b &&& m) else g.p k := by
  unfold Group.setP Group.p
  by_cases hn : n = 0
  · subst hn; simp
  · simp only [hn, if_false, modAt_getD]
    by_cases hk : k = 0
    · subst hk; simp [hn]
    · simp only [hk, if_false]
      by_cases h : n = k ∧ k < g.preds.length
      · rw [if_pos h, if_pos ⟨h.1, hn, h.2⟩]
      · rw [if_neg h, if_neg (fun x => h ⟨x.1, x.2.2⟩)]

theorem Group.p_zero (g : Group) : g.p 0 = BitVec.allOnes 32 := rfl

theorem Group.x_setX (g : Group) (n k : Nat) (m : Lanes) (f : Nat → BitVec 16) {l : Nat} (h : l < 32) :
    (g.setX n m f).x k l = if n = k ∧ k < g.index.length ∧ m.getLsbD l then f l else g.x k l := by
  simp only [Group.x, Group.setX, modAt_getD]
  by_cases hi : n = k ∧ k < g.index.length
  · rw [if_pos hi]
    simp only [laneList, List.getD_eq_getElem?_getD, List.getElem?_map, List.getElem?_range h, Option.map_some,
      Option.getD_some]
    by_cases hm : m.getLsbD l <;> simp [hi, hm]
  · rw [if_neg hi, if_neg (fun x => hi ⟨x.1, x.2.1⟩)]

/-! ## Slices -/

theorem Group.slice_modSlices (g : Group) (m : BitVec 8) (f : Nat → Slice → Slice) (k : Nat) :
    (g.modSlices m f).slice k = if m.getLsbD k ∧ k < g.slices.length then f k (g.slice k) else g.slice k := by
  simp only [Group.slice, Group.modSlices, List.getD_eq_getElem?_getD, List.getElem?_mapIdx]
  by_cases hk : k < g.slices.length
  · by_cases hm : m.getLsbD k <;> simp [hk, hm]
  · simp [hk]

@[simp] theorem Group.modSlices_length (g : Group) (m : BitVec 8) (f : Nat → Slice → Slice) :
    (g.modSlices m f).slices.length = g.slices.length := by simp [Group.modSlices]

/-- What settling makes of a slice: only its waiting at an armed label can change. -/
theorem Group.slice_settle (g : Group) (k : Nat) :
    g.settle.slice k = g.slice k ∨
      ∃ label d rest, g.ctl.joins = (label, d) :: rest ∧ (g.slice k).pc = label ∧ (g.slice k).live = true ∧
        (g.slice k).wait = .running ∧ g.settle.slice k = { g.slice k with wait := .atJoin } := by
  unfold Group.settle
  split
  · exact .inl rfl
  · rename_i label d rest hj
    by_cases hk : k < g.slices.length
    · by_cases hc : ((g.slice k).live && (g.slice k).wait == .running && (g.slice k).pc == label) = true
      · right
        refine ⟨label, d, rest, hj, ?_⟩
        simp only [Bool.and_eq_true, beq_iff_eq] at hc
        refine ⟨hc.2, hc.1.1, hc.1.2, ?_⟩
        simp only [Group.slice, List.getD_eq_getElem?_getD, List.getElem?_map, List.getElem?_eq_getElem hk, Option.map_some,
          Option.getD_some] at *
        simp [hc.1.1, hc.1.2, hc.2]
      · left
        simp only [Group.slice, List.getD_eq_getElem?_getD, List.getElem?_map, List.getElem?_eq_getElem hk, Option.map_some,
          Option.getD_some] at *
        simp only [hc, if_false, Bool.false_eq_true]
    · left
      simp [Group.slice, List.getD_eq_getElem?_getD, hk]

/-! ## Teams and groups -/

theorem State.team?_modTeam (s : State) (n k : Nat) (f : Team → Team) (h : ∀ t, (f t).id = t.id) :
    (s.modTeam n f).team? k = (s.team? k).map (fun t => if t.id == n then f t else t) := by
  simp only [State.team?, State.modTeam, List.find?_map]
  congr 1
  apply congrArg (fun p => List.find? p s.teams)
  funext t
  by_cases e : t.id = n <;> simp [Function.comp, e, h]

theorem State.team?_modTeam_same (s : State) (n : Nat) (f : Team → Team) (h : ∀ t, (f t).id = t.id) :
    (s.modTeam n f).team? n = (s.team? n).map f := by
  rw [s.team?_modTeam n n f h]
  cases e : s.team? n with
  | none => rfl
  | some t =>
    have := List.find?_some e
    simp only [beq_iff_eq] at this
    simp [this]

theorem State.team?_modTeam_ne (s : State) {n k : Nat} (f : Team → Team) (h : ∀ t, (f t).id = t.id) (hn : n ≠ k) :
    (s.modTeam n f).team? k = s.team? k := by
  rw [s.team?_modTeam n k f h]
  cases e : s.team? k with
  | none => rfl
  | some t =>
    have := List.find?_some e
    simp only [beq_iff_eq] at this
    simp [this, Ne.symm hn]

theorem Team.group?_modGroup (t : Team) (n k : Nat) (f : Group → Group) :
    (t.modGroup n f).group? k = if n = k then (t.group? k).map f else t.group? k := by
  unfold Team.modGroup Team.group?
  by_cases hn : n = 32
  · subst hn
    by_cases hk : k = 32
    · subst hk; simp
    · simp [hk, Ne.symm hk]
  · by_cases hk : k = 32
    · subst hk; simp [hn]
    · simp only [hn, hk, if_false, modAt, List.getElem?_modify]
      by_cases e : n = k <;> simp [e]

/-- The group an update names, after it. -/
theorem State.group?_modGroup_same (s : State) (r : GRef) (f : Group → Group) :
    (s.modGroup r f).group? r = (s.group? r).map f := by
  simp only [State.group?, State.modGroup]
  rw [s.team?_modTeam_same _ _ (fun t => t.modGroup_id r.g f)]
  cases s.team? r.team with
  | none => rfl
  | some t => simp [Team.group?_modGroup]

/-- Any other group, after it. -/
theorem State.group?_modGroup_ne (s : State) {r q : GRef} (f : Group → Group) (h : r ≠ q) :
    (s.modGroup r f).group? q = s.group? q := by
  simp only [State.group?, State.modGroup]
  by_cases ht : r.team = q.team
  · rw [ht, s.team?_modTeam_same _ _ (fun t => t.modGroup_id r.g f)]
    cases s.team? q.team with
    | none => rfl
    | some t =>
      have : r.g ≠ q.g := fun e => h (by cases r; cases q; simp_all)
      simp [Team.group?_modGroup, this]
  · rw [s.team?_modTeam_ne _ (fun t => t.modGroup_id r.g f) ht]

theorem getLsbD_lanesFold (f : Nat → Bool) (xs : List Nat) (acc : Lanes) {l : Nat} (hl : l < 32) :
    (xs.foldl (fun acc l => if f l then acc ||| ((1#32) <<< l) else acc) acc).getLsbD l = (acc.getLsbD l || (xs.contains l && f l)) := by
  induction xs generalizing acc with
  | nil => simp
  | cons x xs ih =>
    rw [List.foldl_cons, ih]
    by_cases h : l = x
    · subst h
      cases f l <;> simp [hl]
    · have hx : ((1#32) <<< x).getLsbD l = false := by
        rw [BitVec.getLsbD_shiftLeft]
        by_cases h2 : l < x
        · simp [h2]
        · have : l - x ≠ 0 := by omega
          simp [hl, this]
      cases hf : f x <;> simp [hx, h]

/-- The lanes for which a test holds. -/
theorem getLsbD_lanesWhere (f : Nat → Bool) {l : Nat} (hl : l < 32) : (lanesWhere f).getLsbD l = f l := by
  rw [lanesWhere, getLsbD_lanesFold f _ _ hl]
  simp [laneList, hl]
end Sys2Proof.Machine
end

