-- ==== Sys2Proof/Laws/Words.lean ====
section
/-! SUPPORT. What issuing a word does, said once: `retireBy_spec` for a word that leaves its sub-gang, `aluWord_spec` for a word that
writes registers of its group and goes on, and the pieces they are made of. -/
namespace Sys2Proof.Machine
open Sys2Proof.Safety

/-! ## The issuing context -/

/-- What the issuing context says of the state. -/
theorem cxOf_some {s : State} {c : Cx} (h : cxOf s = some c) :
    s.group? c.ref = some c.grp ∧ s.team? c.ref.team = some c.team ∧ c.team.place = .resident c.core c.slot ∧
    (∃ is, s.iss = some is ∧ c.ref = is.ref ∧ c.slices = is.slices ∧ c.word = is.word ∧ c.stuffed = is.stuffed) ∧
    c.pc = (c.grp.slice (((sliceNums c.slices).head?).getD 0)).pc ∧ c.act = c.grp.activeLanes c.slices := by
  unfold cxOf at h
  split at h
  · cases h
  · rename_i is hi
    split at h
    · cases h
    · rename_i t ht
      split at h
      · rename_i g core slot hg hp
        cases h
        refine ⟨?_, ht, hp, ⟨is, hi, rfl, rfl, rfl, rfl⟩, rfl, rfl⟩
        simp only [State.group?, ht]
        exact hg
      · cases h

/-- A word that passes its checks has its effect. -/
theorem word_next {i : Instr} {s : State} {c : Cx} (h : Issues s c i) (effect : Cx → State → State) :
    word i s effect = .next (effect c s) := by
  unfold word
  rw [h.here]
  simp only [h.allowed]

/-- A word that fails a check halts its team, or ends its EXEC, with the check's code. -/
theorem word_refused {i : Instr} {s : State} {c : Cx} {code : Nat} (h : cxOf s = some c) (hp : precheck s c i = some code)
    (effect : Cx → State → State) : word i s effect = .next (raiseOp c s code (c.word.setWidth 56)) := by
  unfold word
  rw [h]
  simp only [hp]

/-! ## What a change of one group leaves alone -/

/-- As `Elsewhere`, what it says of bytes left to `home` and `rest`. -/
structure Quiet (s t : State) (c : Cx) : Prop where
  groups : ∀ r, r ≠ c.ref → t.group? r = s.group? r
  teams : t.teams.map teamRest = s.teams.map teamRest
  cores : t.cores.map coreRest = s.cores.map coreRest
  home : t.home = s.home
  rest : { t with teams := [], cores := [], home := Home.reset } = { s with teams := [], cores := [], home := Home.reset }

theorem Quiet.refl (s : State) (c : Cx) : Quiet s s c := ⟨fun _ _ => rfl, rfl, rfl, rfl, rfl⟩

theorem Quiet.trans {s t u : State} {c : Cx} (h : Quiet s t c) (k : Quiet t u c) : Quiet s u c :=
  ⟨fun r hr => (k.groups r hr).trans (h.groups r hr), k.teams.trans h.teams, k.cores.trans h.cores, k.home.trans h.home,
   k.rest.trans h.rest⟩

theorem Quiet.quarters {s t : State} {c : Cx} (h : Quiet s t c) : t.quarters = s.quarters := by
  have := congrArg State.quarters h.rest
  simpa using this

theorem byteAt_congr {s t : State} (hq : t.quarters = s.quarters) (hh : t.home = s.home) (q pa : Nat) :
    byteAt t q pa = byteAt s q pa := by simp [byteAt, State.quarter, hq, hh]

theorem Quiet.elsewhere {s t : State} {c : Cx} (h : Quiet s t c) : Elsewhere s t c :=
  ⟨h.groups, h.teams, h.cores, fun q pa => byteAt_congr h.quarters h.home q pa, h.home, h.rest⟩

/-- A quiet change first. -/
theorem Elsewhere.after {s t u : State} {c : Cx} (b : Elsewhere t u c) (a : Quiet s t c) : Elsewhere s u c :=
  ⟨fun r hr => (b.groups r hr).trans (a.groups r hr), b.teams.trans a.teams, b.cores.trans a.cores,
   fun q pa => (b.bytes q pa).trans (byteAt_congr a.quarters a.home q pa), b.home.trans a.home, b.rest.trans a.rest⟩

theorem Team.modGroup_rest (t : Team) (n : Nat) (f : Group → Group) : teamRest (t.modGroup n f) = teamRest t := by
  unfold Team.modGroup teamRest
  split <;> rfl

/-- A change of the issuing group. -/
theorem quiet_modGroup (s : State) (c : Cx) (f : Group → Group) : Quiet s (s.modGroup c.ref f) c where
  groups r hr := s.group?_modGroup_ne f (Ne.symm hr)
  teams := by
    simp only [State.modGroup, State.modTeam, List.map_map]
    apply List.map_congr_left
    intro t _
    simp only [Function.comp]
    split
    · exact t.modGroup_rest _ _
    · rfl
  cores := rfl
  home := rfl
  rest := rfl

theorem map_modAt {α β : Type} (xs : List α) (n : Nat) (f : α → α) (g : α → β) (h : ∀ x, g (f x) = g x) :
    (modAt xs n f).map g = xs.map g := by
  apply List.ext_getElem (by simp [modAt])
  intro k h1 h2
  simp only [List.getElem_map, modAt, List.getElem_modify]
  split <;> simp [h]

/-- A change of a core's issue accounts. -/
theorem quiet_modCore (s : State) (c : Cx) (n : Nat) (f : Core → Core) (h : ∀ k, coreRest (f k) = coreRest k) :
    Quiet s (s.modCore n f) c where
  groups _ _ := rfl
  teams := rfl
  cores := by simp only [State.modCore]; exact map_modAt _ _ _ _ h
  home := rfl
  rest := rfl

theorem group?_of_teams {s t : State} (h : t.teams = s.teams) (r : GRef) : t.group? r = s.group? r := by
  simp only [State.group?, State.team?, h]

/-- A change of a team that keeps its groups. -/
theorem group?_modTeam (s : State) (n : Nat) (f : Team → Team) (hid : ∀ t, (f t).id = t.id)
    (hg : ∀ t k, (f t).group? k = t.group? k) (r : GRef) : (s.modTeam n f).group? r = s.group? r := by
  simp only [State.group?]
  rw [s.team?_modTeam n r.team f hid]
  cases s.team? r.team with
  | none => rfl
  | some t =>
    simp only [Option.map_some]
    split <;> simp [hg]

/-- A change of a team's count of its last word. -/
theorem quiet_counted (s : State) (c : Cx) (n k : Nat) : Quiet s (s.modTeam n (fun t => { t with lastCounted := k })) c where
  groups r _ := group?_modTeam s n (fun t => { t with lastCounted := k }) (fun _ => rfl) (fun _ _ => rfl) r
  teams := by
    simp only [State.modTeam, List.map_map]
    apply List.map_congr_left
    intro t _
    simp only [Function.comp]
    split <;> rfl
  cores := rfl
  home := rfl
  rest := rfl

/-! ## The accounts of a word that issues -/

/-- The change of the issuing core's accounts. -/
def account (c : Cx) (i : Instr) (s : State) (x : Core) : Core :=
  { x with clk := x.clk.account (issuedOf c s i ((s.core c.core).clk.pipeFor i)) (repeatOf i) (c.groupSlot s) }

/-- A stuffed word's count is all that `noteDone` changes. -/
theorem noteDone_quiet (c : Cx) (s : State) : Quiet s (noteDone c s) c := by
  unfold noteDone
  split
  · apply quiet_modCore
    intro k; rfl
  · exact Quiet.refl _ _

theorem noteDone_group (c : Cx) (s : State) (r : GRef) : (noteDone c s).group? r = s.group? r := by
  unfold noteDone
  split <;> rfl

theorem noteMark_quiet (c : Cx) (i : Instr) (s : State) : Quiet s (noteMark c i s) c := by
  unfold noteMark State.traceMark
  split
  · split
    · exact Quiet.refl _ _
    · apply quiet_modCore
      intro k; dsimp only; split <;> rfl
  · exact Quiet.refl _ _

theorem noteMark_group (c : Cx) (i : Instr) (s : State) (r : GRef) : (noteMark c i s).group? r = s.group? r := by
  unfold noteMark State.traceMark
  split
  · split <;> rfl
  · rfl

theorem noteIssue_quiet (c : Cx) (i : Instr) (s : State) : Quiet s (noteIssue c i s) c := by
  unfold noteIssue
  dsimp only
  have q1 := (noteDone_quiet c s).trans (quiet_modCore (noteDone c s) c c.core (account c i s) (fun k => rfl))
  split
  · exact (q1.trans (quiet_counted _ _ _ _)).trans (noteMark_quiet _ _ _)
  · exact q1.trans (noteMark_quiet _ _ _)

theorem noteIssue_group (c : Cx) (i : Instr) (s : State) (r : GRef) : (noteIssue c i s).group? r = s.group? r := by
  unfold noteIssue
  dsimp only
  rw [noteMark_group]
  split
  · exact (group?_modTeam ((noteDone c s).modCore c.core (account c i s)) c.ref.team (fun t => { t with lastCounted := s.cycle })
        (fun _ => rfl) (fun _ _ => rfl) r).trans (noteDone_group c s r)
  · exact noteDone_group c s r

/-! ## HSCHED -/

theorem schedule_quiet (c : Cx) (s : State) : Quiet s (schedule c s) c := by
  unfold schedule
  split
  · exact Quiet.refl _ _
  · dsimp only
    split
    · apply (quiet_modGroup _ _ _).trans
      apply quiet_modCore
      intro k; rfl
    · exact quiet_modGroup _ _ _

/-- HSCHED moves a group's stall only. -/
theorem schedule_group (c : Cx) (s : State) {g : Group} (h : s.group? c.ref = some g) :
    ∃ n, (schedule c s).group? c.ref = some { g with ctl := { g.ctl with stallUntil := n } } := by
  unfold schedule
  split
  · exact ⟨g.ctl.stallUntil, h⟩
  · rename_i p _
    refine ⟨max g.ctl.stallUntil (s.cycle + max (p.toNat / 2 % 16 + 1) (if p.toNat % 2 = 1 then 2 else 1)), ?_⟩
    have e : ∀ f : Group → Group, (s.modGroup c.ref f).group? c.ref = some (f g) := by
      intro f; rw [s.group?_modGroup_same, h]; rfl
    dsimp only
    split
    · exact (e _)
    · exact (e _)

/-! ## A word that leaves its sub-gang -/

theorem settle_regs (g : Group) : regsOf g.settle = regsOf g := by
  unfold Group.settle; split <;> rfl

theorem settle_ctl (g : Group) : g.settle.ctl = g.ctl := by
  unfold Group.settle; split <;> rfl

theorem settle_length (g : Group) : g.settle.slices.length = g.slices.length := by
  unfold Group.settle; split <;> simp

/-- A slice after settling, in the terms of `waitAt`. -/
theorem settle_slice (g : Group) (k : Nat) (hk : k < g.slices.length) :
    g.settle.slice k = { g.slice k with wait := waitAt g (g.slice k) (g.slice k).wait } := by
  cases hj : g.ctl.joins with
  | nil => simp only [Group.settle, waitAt, hj]
  | cons e rest =>
    simp only [Group.settle, waitAt, hj, Group.slice, List.getD_eq_getElem?_getD, List.getElem?_map, List.getElem?_eq_getElem hk,
      Option.map_some, Option.getD_some]
    by_cases hc : (g.slices[k]).live = true ∧ (g.slices[k]).wait = .running ∧ (g.slices[k]).pc = e.1
    · rw [if_pos (by simp [hc.1, hc.2.1, hc.2.2]), if_pos hc]
    · rw [if_neg, if_neg hc]
      intro hb
      simp only [Bool.and_eq_true, beq_iff_eq] at hb
      exact hc ⟨hb.1.1, hb.1.2, hb.2⟩

theorem waitAt_congr {g h : Group} {a b : Slice} (hj : h.ctl.joins = g.ctl.joins) (hp : b.pc = a.pc) (hl : b.live = a.live)
    (w : SliceWait) : waitAt h b w = waitAt g a w := by
  unfold waitAt
  rw [hj]
  split
  · rfl
  · rw [hp, hl]

theorem sliceRest_wait (a : Slice) (w : SliceWait) : sliceRest { a with wait := w } = sliceRest a := rfl

/-- What a word that leaves its sub-gang does: its slices move on, every other register of its group and everything else stays. -/
theorem retireBy_spec (c : Cx) (i : Instr) (s : State) (next : Nat → Word × Bool) {g : Group} (h : s.group? c.ref = some g) :
    ∃ g', (retireBy c i s next).group? c.ref = some g' ∧ Elsewhere s (retireBy c i s next) c ∧ Advanced c g g' next ∧
      regsOf g' = regsOf g := by
  unfold retireBy
  have hn := noteIssue_quiet c i s
  have hgn : (noteIssue c i s).group? c.ref = some g := by rw [noteIssue_group, h]
  generalize noteIssue c i s = s1 at *
  have hq := quiet_modGroup s1 c (fun g => (c.moved i next g).settle)
  have hgF : (s1.modGroup c.ref (fun g => (c.moved i next g).settle)).group? c.ref = some (c.moved i next g).settle := by
    rw [s1.group?_modGroup_same, hgn]; rfl
  obtain ⟨n, hgs⟩ := schedule_group c _ hgF
  refine ⟨_, hgs, (hn.trans (hq.trans (schedule_quiet c _))).elsewhere, ?_, ?_⟩
  · have hlen : (c.moved i next g).slices.length = g.slices.length := by simp [Cx.moved]
    have hsl : ∀ k, (c.moved i next g).slice k =
        if c.slices.getLsbD k ∧ k < g.slices.length then c.movedSlice (next k) (g.slice k) else g.slice k :=
      fun k => g.slice_modSlices c.slices _ k
    have hst : ∀ k, k < g.slices.length → (c.moved i next g).settle.slice k =
        { (c.moved i next g).slice k with
          wait := waitAt (c.moved i next g) ((c.moved i next g).slice k) ((c.moved i next g).slice k).wait } :=
      fun k hk => settle_slice _ k (by rw [hlen]; exact hk)
    refine ⟨by rw [settle_length, hlen], ?_, ?_, ?_⟩
    · intro k hk hc
      show sliceRest ((c.moved i next g).settle.slice k) = _
      rw [hst k hk, sliceRest_wait, hsl, if_pos ⟨hc, hk⟩]
      unfold Cx.movedSlice
      split <;> rfl
    · intro k hk hc
      show sliceRest ((c.moved i next g).settle.slice k) = _
      rw [hst k hk, sliceRest_wait, hsl, if_neg (by simp [hc])]
    · intro k hk
      show ((c.moved i next g).settle.slice k).wait = waitAt _ ((c.moved i next g).settle.slice k) _
      rw [hst k hk]
      have hw : ((c.moved i next g).slice k).wait = (if c.slices.getLsbD k = true ∧ c.stuffed = none ∧
          ((g.slice k).wait = .inWord ∨ (g.slice k).wait = .inTimed) then .running else (g.slice k).wait) := by
        rw [hsl]
        unfold Cx.movedSlice
        by_cases hc : c.slices.getLsbD k = true
        · rw [if_pos ⟨hc, hk⟩]
          cases c.stuffed <;> simp [hc]
        · rw [if_neg (fun x => hc x.1)]; simp [hc]
      dsimp only
      rw [hw]
      exact waitAt_congr (by show _ = (c.moved i next g).settle.ctl.joins; rw [settle_ctl]) rfl rfl _
  · show regsOf (c.moved i next g).settle = _
    rw [settle_regs]
    unfold Cx.moved Cx.movedCtl
    split <;> rfl

/-- What a word does that writes registers of its group and goes on (05 R149): the group's registers are as the word's function gives
them, its slices move to the next word, and everything else stays. -/
theorem aluWord_spec {i : Instr} {s : State} {c : Cx} (h : Issues s c i) (f : Cx → Group → Group)
    (hf : (f c c.grp).slices = c.grp.slices) :
    ∃ t g', aluWord i s f = .next t ∧ t.group? c.ref = some g' ∧ Elsewhere s t c ∧ Advanced c c.grp g' (onward c) ∧
      regsOf g' = regsOf (f c c.grp) := by
  have hg := (cxOf_some h.here).1
  have hg1 : (s.modGroup c.ref (f c)).group? c.ref = some (f c c.grp) := by rw [s.group?_modGroup_same, hg]; rfl
  obtain ⟨g', h1, h2, h3, h4⟩ := retireBy_spec c i (s.modGroup c.ref (f c)) (onward c) hg1
  refine ⟨_, g', ?_, h1, Elsewhere.after h2 (quiet_modGroup s c _), ?_, h4⟩
  · unfold aluWord
    rw [word_next h]
    rfl
  · have e : ∀ k, (f c c.grp).slice k = c.grp.slice k := by intro k; simp [Group.slice, hf]
    exact ⟨by rw [h3.count, hf], fun k hk hc => by rw [h3.issued k (by rwa [hf]) hc, e],
      fun k hk hc => by rw [h3.others k (by rwa [hf]) hc, e], fun k hk => by rw [h3.waits k (by rwa [hf]), e]⟩

end Sys2Proof.Machine
end

