-- ==== Sys2Proof/Laws/Translate.lean ====
section
/-! SUPPORT. Translation and the device's own accesses leave the teams, their groups and registers, alone, and where no byte is on its
way the bytes that a quarter sees (16 R432, 08 R258). -/
namespace Sys2Proof.Machine

/-- A fold of steps that each keep the teams keeps them. -/
theorem foldl_teams {α : Type} {f : State → α → State} (hf : ∀ s a, (f s a).teams = s.teams) (xs : List α) (s : State) :
    (xs.foldl f s).teams = s.teams := by
  induction xs generalizing s with
  | nil => rfl
  | cons x xs ih => rw [List.foldl_cons, ih, hf]

@[simp] theorem State.countDrop_teams (s : State) (q : Nat) : (s.countDrop q).teams = s.teams := rfl
@[simp] theorem State.countEcc_teams (s : State) (q i : Nat) : (s.countEcc q i).teams = s.teams := rfl
@[simp] theorem State.homeWritten_teams (s : State) (q : Option Nat) (t : Nat) (m : BitVec 4096) : (s.homeWritten q t m).teams = s.teams := by
  unfold State.homeWritten; rw [foldl_teams (fun s x => State.countDrop_teams s _)]
@[simp] theorem State.walkerPut_teams (s : State) (q : Nat) (e : WalkEntry) : (s.walkerPut q e).teams = s.teams := rfl

@[simp] theorem State.applyWb_teams (s : State) (w : WriteBack) : (s.applyWb w).teams = s.teams := by
  unfold State.applyWb; split <;> simp

@[simp] theorem State.flushWb_teams (s : State) (t : Nat) : (s.flushWb t).teams = s.teams := by
  unfold State.flushWb; exact foldl_teams State.applyWb_teams _ _

@[simp] theorem State.healCopy_teams (s : State) (q t : Nat) (m : BitVec 4096) : (s.healCopy q t m).teams = s.teams := by
  unfold State.healCopy
  split
  · rfl
  · split
    · rfl
    · rw [foldl_teams (fun s e => by simp)]; simp

@[simp] theorem State.cleanCopy_teams (s : State) (q t : Nat) (m : BitVec 4096) : (s.cleanCopy q t m).teams = s.teams := by
  unfold State.cleanCopy
  split
  · rfl
  · simp only
    split <;> simp

@[simp] theorem State.cleanEverywhere_teams (s : State) (t : Nat) (m : BitVec 4096) : (s.cleanEverywhere t m).teams = s.teams := by
  unfold State.cleanEverywhere; rw [foldl_teams (fun s q => by simp)]; simp

@[simp] theorem State.poisonAtHome_teams (s : State) (q u t : Nat) : (s.poisonAtHome q u t).teams = s.teams := by
  unfold State.poisonAtHome
  simp only
  split
  · split <;> simp
  · simp
  · simp

@[simp] theorem State.correctUnit_teams (s : State) (q u : Nat) : (s.correctUnit q u).teams = s.teams := by
  unfold State.correctUnit; repeat' (first | split | simp)

@[simp] theorem State.readUnit_teams (s : State) (q u : Nat) (l : DWord × DWord) : (s.readUnit q u l).teams = s.teams := by
  unfold State.readUnit
  split
  · rfl
  · simp only
    repeat' (first | split | simp)

@[simp] theorem State.devRead_teams (s : State) (q a n : Nat) : (s.devRead q a n).1.teams = s.teams := by
  unfold State.devRead
  simp only
  split
  · rw [foldl_teams (fun s x => by simp)]; simp
  · simp
  · rfl

/-- A walk changes no team (R432). -/
@[simp] theorem State.walk_teams (q : Nat) (x : BitVec 16) (va : Nat) (ls : List (Nat × Nat × Nat)) (t : Nat) (s : State) :
    (State.walk q x va ls t s).1.teams = s.teams := by
  induction ls generalizing t s with
  | nil => rfl
  | cons l ls ih =>
    unfold State.walk
    simp only
    repeat' split
    all_goals simp [ih]

/-- Finding a leaf changes no team (R432). -/
@[simp] theorem State.leafOf_teams (s : State) (core x va : Nat) : (s.leafOf core x va).1.teams = s.teams := by
  unfold State.leafOf State.walkFor
  simp only
  have h := State.walk_teams (quarterOf core) (s.ctx x).asid va ((s.quarter (quarterOf core)).walkStart (s.ctx x).asid va (s.ctx x).root.toNat).1
    ((s.quarter (quarterOf core)).walkStart (s.ctx x).asid va (s.ctx x).root.toNat).2 s
  split
  · rfl
  · split
    · simp
    · split
      · rename_i e; rw [e] at h; simpa using h
      · exact h

/-- BSET's and BLIM's look at a leaf changes no team (R258, R259). -/
@[simp] theorem State.leafFor_teams (s : State) (core : Nat) (x : Option Nat) (va : Nat) : (s.leafFor core x va).1.teams = s.teams := by
  unfold State.leafFor
  split
  · split <;> rfl
  · have h := State.leafOf_teams s core
    split
    · rename_i e; rw [← h, e]
    · rename_i e; rw [← h, e]

/-- Finding the entry of a leaf changes no team (R429, R437). -/
@[simp] theorem State.leafEntry_teams (q va : Nat) (ls : List (Nat × Nat × Nat)) (t : Nat) (s : State) :
    (State.leafEntry q va ls t s).1.teams = s.teams := by
  induction ls generalizing t s with
  | nil => rfl
  | cons l ls ih =>
    unfold State.leafEntry
    simp only
    repeat' split
    all_goals simp [ih]

/-- A translation changes no team (R431, R432). -/
@[simp] theorem State.xlate_teams (s : State) (core : Nat) (x : Option Nat) (app : Bool) (k : Kind) (va : Nat) :
    (s.xlate core x app k va).1.teams = s.teams := by
  unfold State.xlate
  split
  · split <;> rfl
  · have h := State.leafOf_teams s core
    split <;> (rename_i e; rw [← h, e])

@[simp] theorem State.laneXlate_teams (s : State) (c : Cx) (b : BaseReg) (k : Kind) (off : Int) (va n : Nat) :
    (s.laneXlate c b k off va n).1.teams = s.teams := by
  unfold State.laneXlate
  simp only
  split
  · rfl
  · simp

/-- Placing the lanes of a memory word changes no team (R257, R260). -/
@[simp] theorem State.placeLanes_teams (s : State) (c : Cx) (m : MemWord) : (s.placeLanes c m).1.teams = s.teams := by
  have h : ∀ (ls : List Nat) (acc : State × List (Nat × Nat × Xlat)), (ls.foldl (fun (acc : State × List (Nat × Nat × Xlat)) l =>
      let va := (m.addr c l).toNat
      let x := match c.keptLoc l va with
        | some loc => (acc.1, Xlat.at loc)
        | none => acc.1.laneXlate c (c.bn m.base) m.acc (m.off l) va (m.width / 8)
      (x.1, acc.2 ++ [(l, va, x.2)])) acc).1.teams = acc.1.teams := by
    intro ls
    induction ls with
    | nil => intro acc; rfl
    | cons l ls ih =>
      intro acc
      rw [List.foldl_cons, ih]
      simp only
      split <;> simp
  exact h (laneNums m.checked) (s, [])

/-- The registers of every group are as they were. -/
theorem State.placeLanes_group (s : State) (c : Cx) (m : MemWord) (r : GRef) : (s.placeLanes c m).1.group? r = s.group? r :=
  group?_of_teams (by simp) r

theorem State.leafFor_group (s : State) (core : Nat) (x : Option Nat) (va : Nat) (r : GRef) :
    (s.leafFor core x va).1.group? r = s.group? r := group?_of_teams (by simp) r

/-! ## The bytes -/

/-- No byte of memory is on its way or stands dirty in a copy, and none holds an error: a walk finds nothing to write back and nothing to correct. -/
structure State.Settled (s : State) : Prop where
  sent : s.wbq = []
  whole : s.home.errors = []
  clean : ∀ q t c, (s.quarter q).copy? t = some c → c.dirty = 0

/-- Two states with the same bytes at home and the same copies: every quarter sees the same bytes. -/
structure SameBytes (s t : State) : Prop where
  home : t.home = s.home
  copies : ∀ q, (t.quarter q).copies = (s.quarter q).copies
  sent : t.wbq = s.wbq

theorem SameBytes.refl (s : State) : SameBytes s s := ⟨rfl, fun _ => rfl, rfl⟩
theorem SameBytes.trans {s t u : State} (a : SameBytes s t) (b : SameBytes t u) : SameBytes s u :=
  ⟨b.home.trans a.home, fun q => (b.copies q).trans (a.copies q), b.sent.trans a.sent⟩

theorem SameBytes.byteAt {s t : State} (h : SameBytes s t) (q pa : Nat) : Safety.byteAt t q pa = Safety.byteAt s q pa := by
  simp [Safety.byteAt, Quarter.copy?, h.copies q, h.home]

theorem SameBytes.settled {s t : State} (h : SameBytes s t) (k : s.Settled) : t.Settled :=
  ⟨h.sent.trans k.sent, h.home ▸ k.whole, fun q x c e => k.clean q x c (by simpa [Quarter.copy?, h.copies q] using e)⟩

theorem sameBytes_modQuarter (s : State) (q : Nat) (f : Quarter → Quarter) (h : ∀ k, (f k).copies = k.copies) : SameBytes s (s.modQuarter q f) :=
  ⟨rfl, fun k => by
    simp only [State.quarter, State.modQuarter, modAt_getD]
    split
    · exact h _
    · rfl, rfl⟩

theorem State.Settled.cleanCopy {s : State} (h : s.Settled) (q t : Nat) (m : BitVec 4096) : s.cleanCopy q t m = s := by
  unfold State.cleanCopy
  split
  · rfl
  · rename_i e; simp [h.clean q t _ e]

theorem State.Settled.flushWb {s : State} (h : s.Settled) (t : Nat) : s.flushWb t = s := by
  unfold State.flushWb
  simp only [h.sent, List.filter_nil, List.foldl_nil]
  rw [← h.sent]

theorem State.Settled.cleanEverywhere {s : State} (h : s.Settled) (t : Nat) (m : BitVec 4096) : s.cleanEverywhere t m = s := by
  unfold State.cleanEverywhere
  rw [h.flushWb]
  have : ∀ ls : List Nat, ls.foldl (fun s q => State.cleanCopy s q t m) s = s := by
    intro ls; induction ls with
    | nil => rfl
    | cons a ls ih => rw [List.foldl_cons, h.cleanCopy, ih]
  exact this _

theorem State.Settled.devRead {s : State} (h : s.Settled) (q a n : Nat) : SameBytes s (s.devRead q a n).1 := by
  unfold State.devRead
  simp only
  split
  · rw [h.cleanEverywhere]
    have e : ∀ (ls : List (Nat × Nat)) (l : DWord × DWord), ls.foldl (fun s x => State.readUnit s q (x.1 / 64) l) s = s := by
      intro ls l; induction ls with
      | nil => rfl
      | cons x ls ih => rw [List.foldl_cons]; simp only [State.readUnit, h.whole]; exact ih
    rw [e]; exact .refl s
  · exact ⟨rfl, fun _ => rfl, rfl⟩
  · exact .refl s

theorem sameBytes_walkerPut (s : State) (q : Nat) (e : WalkEntry) : SameBytes s (s.walkerPut q e) := sameBytes_modQuarter _ _ _ (fun _ => rfl)

theorem State.Settled.walk {s : State} (h : s.Settled) (q : Nat) (x : BitVec 16) (va : Nat) (ls : List (Nat × Nat × Nat)) (t : Nat) :
    SameBytes s (State.walk q x va ls t s).1 := by
  induction ls generalizing t s with
  | nil => exact .refl s
  | cons l ls ih =>
    unfold State.walk
    simp only
    have d := h.devRead q (t + 16 * (va / 2 ^ l.2.1 % 2 ^ l.2.2)) 16
    repeat' split
    all_goals first
      | exact .refl s
      | exact d
      | exact (d.trans (sameBytes_walkerPut _ _ _)).trans (ih ((d.trans (sameBytes_walkerPut _ _ _)).settled h) _)

theorem State.Settled.leafEntry {s : State} (h : s.Settled) (q va : Nat) (ls : List (Nat × Nat × Nat)) (t : Nat) :
    SameBytes s (State.leafEntry q va ls t s).1 := by
  induction ls generalizing t s with
  | nil => exact .refl s
  | cons l ls ih =>
    unfold State.leafEntry
    simp only
    have d := h.devRead q (t + 16 * (va / 2 ^ l.2.1 % 2 ^ l.2.2)) 16
    repeat' split
    all_goals first
      | exact d
      | exact d.trans (ih (d.settled h) _)

theorem sameBytes_modCore (s : State) (n : Nat) (f : Core → Core) : SameBytes s (s.modCore n f) := ⟨rfl, fun _ => rfl, rfl⟩

theorem State.Settled.leafOf {s : State} (h : s.Settled) (core x va : Nat) : SameBytes s (s.leafOf core x va).1 := by
  unfold State.leafOf State.walkFor
  simp only
  have w := h.walk (quarterOf core) (s.ctx x).asid va ((s.quarter (quarterOf core)).walkStart (s.ctx x).asid va (s.ctx x).root.toNat).1
    ((s.quarter (quarterOf core)).walkStart (s.ctx x).asid va (s.ctx x).root.toNat).2
  split
  · exact .refl s
  · split
    · exact sameBytes_modCore _ _ _
    · split
      · rename_i e; rw [e] at w
        exact (w.trans (sameBytes_modCore _ _ _)).trans (sameBytes_modQuarter _ _ _ (fun _ => rfl))
      · exact w

/-- BSET's and BLIM's look at a leaf changes no byte that a quarter sees, where none is on its way (R258, R259). -/
theorem State.Settled.leafFor {s : State} (h : s.Settled) (core : Nat) (x : Option Nat) (va : Nat) : SameBytes s (s.leafFor core x va).1 := by
  unfold State.leafFor
  split
  · split <;> exact .refl s
  · have l := h.leafOf core
    split <;> (rename_i e; exact (congrArg Prod.fst e) ▸ l _ _)

theorem State.Settled.xlate {s : State} (h : s.Settled) (core : Nat) (x : Option Nat) (app : Bool) (k : Kind) (va : Nat) :
    SameBytes s (s.xlate core x app k va).1 := by
  unfold State.xlate
  split
  · split <;> exact .refl s
  · have l := h.leafOf core
    split <;> (rename_i e; exact (congrArg Prod.fst e) ▸ l _ _)

theorem State.Settled.laneXlate {s : State} (h : s.Settled) (c : Cx) (b : BaseReg) (k : Kind) (off : Int) (va n : Nat) :
    SameBytes s (s.laneXlate c b k off va n).1 := by
  unfold State.laneXlate
  simp only
  split
  · exact .refl s
  · exact h.xlate _ _ _ _ _

/-- Placing the lanes of a memory word changes no byte that a quarter sees, where none is on its way (R257, R260). -/
theorem State.Settled.placeLanes {s : State} (h : s.Settled) (c : Cx) (m : MemWord) : SameBytes s (s.placeLanes c m).1 := by
  have k : ∀ (ls : List Nat) (acc : State × List (Nat × Nat × Xlat)), SameBytes s acc.1 →
      SameBytes s (ls.foldl (fun (acc : State × List (Nat × Nat × Xlat)) l =>
      let va := (m.addr c l).toNat
      let x := match c.keptLoc l va with
        | some loc => (acc.1, Xlat.at loc)
        | none => acc.1.laneXlate c (c.bn m.base) m.acc (m.off l) va (m.width / 8)
      (x.1, acc.2 ++ [(l, va, x.2)])) acc).1 := by
    intro ls
    induction ls with
    | nil => intro acc a; exact a
    | cons l ls ih =>
      intro acc a
      rw [List.foldl_cons]
      apply ih
      simp only
      split
      · exact a
      · exact a.trans ((a.settled h).laneXlate _ _ _ _ _ _)
  exact k (laneNums m.checked) (s, []) (.refl s)

end Sys2Proof.Machine
end

