-- ==== Sys2Proof/Laws/Reads.lean ====
section
/-! SUPPORT. What the reads and writes of the units, the registers read, and a shoot-down leave of the groups and of the bytes: `Steady` (a group's
registers and slices stand) and `SameBytes` (08 R261, R284, R289, 09 R315, 16 R436). -/
namespace Sys2Proof.Machine

/-! ## Registers read, translations shot down -/

/-- A read of a register clears counters and takes a sample, and leaves every group and every byte alone (R289, 00 R25). -/
theorem State.regCleared_keeps (s : State) (a : RegAcc) (n : Nat) : (∀ r, (s.regCleared a n).group? r = s.group? r) ∧ SameBytes s (s.regCleared a n) := by
  unfold State.regCleared
  simp only
  split
  all_goals first
    | exact ⟨fun _ => rfl, ⟨rfl, fun _ => rfl, rfl⟩⟩
    | exact ⟨fun r => rfl, sameBytes_modQuarter _ _ _ (fun _ => rfl)⟩
    | skip
  · split
    · rename_i t _
      exact ⟨fun r => group?_modTeam s t.id (fun t => { t with fr := { t.fr with handlers := 0, killed := 0, badDisp := 0, lost := 0, defExit := 0 } })
        (fun _ => rfl) (fun _ _ => rfl) r, ⟨rfl, fun _ => rfl, rfl⟩⟩
    · exact ⟨fun _ => rfl, .refl s⟩
  · have k : ∀ (p : Prop) [Decidable p] (t : State), (∀ r, t.group? r = s.group? r) ∧ SameBytes s t →
        (∀ r, (if p then t else s).group? r = s.group? r) ∧ SameBytes s (if p then t else s) := by
      intro p _ t h; split
      · exact h
      · exact ⟨fun _ => rfl, .refl s⟩
    have l : ∀ (m : Nat) (f : Link → Link), (∀ r, (s.modLink m f).group? r = s.group? r) ∧ SameBytes s (s.modLink m f) :=
      fun _ _ => ⟨fun _ => rfl, ⟨rfl, fun _ => rfl, rfl⟩⟩
    exact k _ _ (l _ _)

theorem State.takeSample_keeps (s : State) (n : Nat) : (∀ r, (s.takeSample n).group? r = s.group? r) ∧ SameBytes s (s.takeSample n) := by
  unfold State.takeSample State.sample
  simp only
  repeat' split
  all_goals exact ⟨fun _ => rfl, ⟨rfl, fun _ => rfl, rfl⟩⟩

/-- RDSYS's read of a register leaves every group and every byte as they were (R289). -/
theorem State.regRead_keeps {s t : State} {a : RegAcc} {n : Nat} {v : DWord} (h : s.regRead a n = some (t, v)) :
    (∀ r, t.group? r = s.group? r) ∧ SameBytes s t := by
  unfold State.regRead at h
  split at h
  · have e : t = (s.sampledFor a.core n).regCleared a n := by simpa using (congrArg Prod.fst (Option.some.inj h)).symm
    have k := (s.sampledFor a.core n).regCleared_keeps a n
    have j : (∀ r, (s.sampledFor a.core n).group? r = s.group? r) ∧ SameBytes s (s.sampledFor a.core n) := by
      unfold State.sampledFor
      repeat' split
      all_goals first
        | exact s.takeSample_keeps _
        | exact ⟨fun _ => rfl, .refl s⟩
    rw [e]
    exact ⟨fun r => (k.1 r).trans (j.1 r), j.2.trans k.2⟩
  · cases h
/-! ## What a unit's access leaves of the groups -/

/-- A group without what the accesses of a core's units, the fills that land with them and a shoot-down may change of it: its recorded faults
(13 R392), the spans of its base registers (08 R261) and the translations kept for a replay (13 R377). Every register that an instruction
reads or writes is left, and where each slice stands. -/
def Group.steady (g : Group) : Group :=
  { g with bases := g.bases.map (fun b => { b with limit := 0 }), ctl := { g.ctl with kept := [] }, flt := { g.flt with pending := [] } }

/-- Every group stands, steady. -/
def Steady (s t : State) : Prop := ∀ r, (t.group? r).map Group.steady = (s.group? r).map Group.steady

theorem Steady.refl (s : State) : Steady s s := fun _ => rfl
theorem Steady.trans {s t u : State} (a : Steady s t) (b : Steady t u) : Steady s u := fun r => (b r).trans (a r)

theorem Steady.of_teams {s t : State} (h : t.teams = s.teams) : Steady s t := fun r => by rw [group?_of_teams h]

theorem Steady.foldl {α : Type} {f : State → α → State} (h : ∀ s a, Steady s (f s a)) (xs : List α) (s : State) : Steady s (xs.foldl f s) := by
  induction xs generalizing s with
  | nil => exact .refl s
  | cons x xs ih => exact (h s x).trans (ih _)

/-- What a group of a state is, read off the same group of another that keeps it steady. -/
theorem Steady.group {s t : State} (h : Steady s t) {r : GRef} {g : Group} (e : s.group? r = some g) :
    ∃ g', t.group? r = some g' ∧ g'.steady = g.steady := by
  have := h r
  rw [e] at this
  cases k : t.group? r with
  | none => rw [k] at this; cases this
  | some g' => rw [k] at this; exact ⟨g', rfl, Option.some.inj this⟩

/-- A change that keeps what is steady of a group. -/
theorem steady_modGroup (s : State) (r : GRef) (f : Group → Group) (h : ∀ g, (f g).steady = g.steady) : Steady s (s.modGroup r f) := fun q => by
  by_cases e : r = q
  · subst e
    rw [s.group?_modGroup_same r f]
    cases s.group? r with
    | none => rfl
    | some g => exact congrArg some (h g)
  · rw [s.group?_modGroup_ne f e]

theorem steady_modTeams (s : State) (f : Team → Team) (hi : ∀ t, (f t).id = t.id)
    (hg : ∀ t k, ((f t).group? k).map Group.steady = (t.group? k).map Group.steady) : Steady s { s with teams := s.teams.map f } := fun r => by
  simp only [State.group?, State.team?, List.find?_map]
  have : ((fun t : Team => t.id == r.team) ∘ f) = fun t : Team => t.id == r.team := funext fun t => by simp [hi t]
  rw [this]
  cases s.teams.find? (fun t => t.id == r.team) with
  | none => rfl
  | some t => exact hg t r.g

/-! ## The spiral's own work changes no team (09 R304, R306, R318) -/

@[simp] theorem State.draw_teams (s : State) : s.draw.2.teams = s.teams := rfl
@[simp] theorem State.serveVals_teams (s : State) (id : Nat) (m : Lanes) (v : List (Nat × Nat)) : (s.serveVals id m v).teams = s.teams := rfl

@[simp] theorem State.drainQuarter_teams (s : State) (q : Nat) (p : Nat → Bool) : (s.drainQuarter q p).teams = s.teams := by
  unfold State.drainQuarter
  rw [foldl_teams (fun s t => State.cleanCopy_teams s q t _), foldl_teams State.flushWb_teams]

@[simp] theorem State.recordRelease_teams (s : State) (q h : Nat) : (s.recordRelease q h).teams = s.teams := by
  unfold State.recordRelease; split <;> simp

@[simp] theorem State.drainMask_teams (s : State) (h : Nat) (p : Nat → Bool) : (s.drainMask h p).teams = s.teams := by
  unfold State.drainMask
  simp only [State.modQuarter_teams]
  exact foldl_teams (fun s k => by split <;> simp) _ _

@[simp] theorem State.release_teams (s : State) (q c : Nat) (hs : List Nat) : (s.release q c hs).teams = s.teams := by
  have h : (hs.foldl (fun s h => s.recordRelease q h) s).teams = s.teams := foldl_teams (fun s h => State.recordRelease_teams s q h) _ _
  unfold State.release
  simp only
  repeat' split
  all_goals simp [h]

@[simp] theorem State.acquire_teams (s : State) (q c : Nat) (hs : List Nat) : (s.acquire q c hs).teams = s.teams := by
  unfold State.acquire
  split
  · exact foldl_teams (fun s h => by split <;> simp) _ _
  · rfl

@[simp] theorem State.readTile_teams (s : State) (q t : Nat) (l : DWord × DWord) : (s.readTile q t l).teams = s.teams :=
  foldl_teams (fun s u => State.readUnit_teams s q u l) _ _

@[simp] theorem State.leave_teams (s : State) (q t : Nat) : (s.leave q t).teams = s.teams := by
  unfold State.leave
  split
  · rfl
  · simp only
    split <;> simp

@[simp] theorem State.roomQuota_teams (q x n : Nat) (s : State) : (State.roomQuota q x n s).1.teams = s.teams := by
  induction n generalizing s with
  | zero => rfl
  | succ n ih =>
    unfold State.roomQuota
    simp only
    repeat' split
    all_goals simp [ih]

@[simp] theorem State.roomCapacity_teams (q : Nat) (s : State) : (State.roomCapacity q s).1.teams = s.teams := by
  unfold State.roomCapacity
  simp only
  repeat' split
  all_goals simp

@[simp] theorem State.makeRoom_teams (q x : Nat) (s : State) : (State.makeRoom q x s).1.teams = s.teams := by
  unfold State.makeRoom
  have h := State.roomQuota_teams q x ((s.quarter q).chain.length + 1) s
  split
  · rename_i e; rw [e] at h; simpa using h
  · exact h

@[simp] theorem State.shed_teams (q x t n : Nat) (s : State) : (State.shed q x t n s).teams = s.teams := by
  induction n generalizing s with
  | zero => rfl
  | succ n ih =>
    unfold State.shed
    split
    · simp [ih]
    · rfl

@[simp] theorem State.transfer_teams (q t y : Nat) (s : State) : (State.transfer q t y s).teams = s.teams := by
  unfold State.transfer
  simp only
  split <;> simp

@[simp] theorem State.insertTile_teams (q t x : Nat) (k : Option Nat) (l : DWord × DWord) (s : State) :
    (State.insertTile q t x k l s).1.teams = s.teams := by
  unfold State.insertTile
  have h := State.makeRoom_teams q x s
  split
  · rename_i e; rw [e] at h; simpa using h
  · exact h

@[simp] theorem State.touch_teams (q t x : Nat) (k : Option Nat) (l : DWord × DWord) (s : State) : (State.touch q t x k l s).1.teams = s.teams := by
  unfold State.touch
  simp only
  repeat' split
  all_goals simp

@[simp] theorem State.fetchMissing_teams (s : State) (q t : Nat) (m : BitVec 4096) : (s.fetchMissing q t m).teams = s.teams := by
  unfold State.fetchMissing
  split
  · rfl
  · simp only
    split <;> simp

@[simp] theorem State.landFill_teams (s : State) (q t : Nat) : (s.landFill q t).teams = s.teams := by
  unfold State.landFill
  repeat' split
  all_goals simp

@[simp] theorem State.readyBytes_teams (s : State) (q : Nat) (i : Bool) (t : Nat) (m : BitVec 4096) (l : DWord × DWord) :
    (s.readyBytes q i t m l).teams = s.teams := by
  unfold State.readyBytes
  split
  · simp
  · rw [foldl_teams (fun s u => State.readUnit_teams s q _ l), State.flushWb_teams]

@[simp] theorem State.writeAt_teams (s : State) (q : Nat) (i : Bool) (k : Option Nat) (a n v : Nat) : (s.writeAt q i k a n v).teams = s.teams := by
  unfold State.writeAt; split <;> simp

@[simp] theorem State.wroteBytesBut_teams (s : State) (q : Nat) (i : Bool) (k : Option Nat) (t : Nat) (m : BitVec 4096) :
    (s.wroteBytesBut q i k t m).teams = s.teams := by
  unfold State.wroteBytesBut; split <;> simp

@[simp] theorem State.wroteBytes_teams (s : State) (q : Nat) (i : Bool) (t : Nat) (m : BitVec 4096) : (s.wroteBytes q i t m).teams = s.teams := by
  unfold State.wroteBytes; simp

@[simp] theorem State.takeResult_teams (s : State) (q t : Nat) (m : BitVec 4096) : (s.takeResult q t m).teams = s.teams := by
  unfold State.takeResult
  simp only
  split <;> simp

@[simp] theorem State.noteReader_teams (s : State) (n a t : Nat) : (s.noteReader n a t).teams = s.teams := by
  unfold State.noteReader; repeat' split
  all_goals simp

@[simp] theorem State.orderLanes_teams (s : State) (o : MemOp) (m : Lanes) : (s.orderLanes o m).1.teams = s.teams := by
  unfold State.orderLanes
  simp only
  split <;> simp

@[simp] theorem State.peerByte_teams (s : State) (d a v : Nat) : (s.peerByte d a v).1.teams = s.teams := by
  unfold State.peerByte; split <;> rfl

@[simp] theorem State.peerRead_teams (d a v n : Nat) (s : State) : (s.peerRead d a v n).1.teams = s.teams := by
  induction n generalizing s v with
  | zero => rfl
  | succ n ih => simp [State.peerRead, ih]

@[simp] theorem State.peerWrite_teams (d a v n x : Nat) (s : State) : (s.peerWrite d a v n x).teams = s.teams := by
  induction n generalizing s v x with
  | zero => rfl
  | succ n ih => simp [State.peerWrite, ih]

@[simp] theorem State.devWrite_teams (s : State) (q a n v : Nat) : (s.devWrite q a n v).teams = s.teams := by
  unfold State.devWrite
  split <;> simp

@[simp] theorem State.quarterLeaf_teams (s : State) (q x va : Nat) : (s.quarterLeaf q x va).1.teams = s.teams := by
  unfold State.quarterLeaf State.walkFor
  simp only
  have h := State.walk_teams q (s.ctx x).asid va ((s.quarter q).walkStart (s.ctx x).asid va (s.ctx x).root.toNat).1
    ((s.quarter q).walkStart (s.ctx x).asid va (s.ctx x).root.toNat).2 s
  split
  · rfl
  · split
    · rename_i e; rw [e] at h; simpa using h
    · exact h

@[simp] theorem State.endReplicas_teams (s : State) (p : Nat) (a : BitVec 16) (va n : Nat) : (s.endReplicas p a va n).teams = s.teams := by
  unfold State.endReplicas
  split
  · rfl
  · refine foldl_teams (fun u r => ?_) _ _
    have h := fun y => State.leafEntry_teams p (65536 * r.1) levels y u
    split
    · rename_i e
      have k := (congrArg (fun x => x.1.teams) e).symm.trans (h _)
      split <;> exact k
    · rename_i e
      exact (congrArg (fun x => x.1.teams) e).symm.trans (h _)

/-! ## What a unit of a core or of the device does keeps every group steady -/

theorem State.deferFault_steady (s : State) (r : GRef) (c : Nat) (o : BitVec 56) : Steady s (s.deferFault r c o) :=
  steady_modGroup _ _ _ (fun _ => rfl)

theorem State.notePoison_steady (s : State) (r : GRef) (v a t : Nat) : Steady s (s.notePoison r v a t) :=
  (s.deferFault_steady _ _ _).trans (.of_teams (State.noteReader_teams _ _ _ _))

theorem State.serveVals_steady (s : State) (id : Nat) (m : Lanes) (v : List (Nat × Nat)) : Steady s (s.serveVals id m v) := .of_teams rfl

theorem State.serveLost_steady (s : State) (o : MemOp) (m : Lanes) (c : Nat) (x : BitVec 56) : Steady s (s.serveLost o m c x) :=
  (s.deferFault_steady _ _ _).trans (State.serveVals_steady _ _ _ _)

theorem State.failFar_steady (s : State) (o : MemOp) (m : Lanes) (l : Nat) : Steady s (s.failFar o m l) :=
  (Steady.of_teams rfl).trans ((State.deferFault_steady _ _ _ _).trans (State.serveVals_steady _ _ _ _))

/-- The groups of some teams changed, each kept steady. -/
theorem steady_allGroups (s : State) (P : Team → Bool) (f : Group → Group) (h : ∀ g, (f g).steady = g.steady) :
    Steady s { s with teams := s.teams.map (fun t => if P t then { t with groups := t.groups.map f, handler := t.handler.map f } else t) } := by
  refine steady_modTeams s _ (fun t => by split <;> rfl) (fun t k => ?_)
  have e : ∀ o : Option Group, (o.map f).map Group.steady = o.map Group.steady := fun o => by cases o <;> simp [h]
  split
  · simp only [Team.group?]
    split
    · exact e _
    · rw [List.getElem?_map]; exact e _
  · rfl

/-- A shoot-down cuts the spans of base registers and drops translations, and keeps every group steady (R261, R293). -/
theorem State.shootDown_steady (s : State) (p : Nat) (a : BitVec 16) (va n : Nat) : Steady s (s.shootDown p a va n) := by
  unfold State.shootDown
  simp only
  refine Steady.trans (Steady.of_teams ?_) (steady_allGroups _ _ _ ?_)
  · exact State.endReplicas_teams _ _ _ _ _
  · have e : ∀ (P : Prop) [Decidable P] (b : BaseReg), { (if P then { b with limit := 0 } else b) with limit := 0 } = { b with limit := 0 } := by
      intro P _ b; split <;> rfl
    intro g
    simp only [Group.steady, List.map_map]
    congr 1
    exact List.map_congr_left (fun b _ => e _ b)

/-- A served access, its group's recorded faults aside, changes memory alone (R264, R270, R271). -/
theorem State.perform_steady (s : State) (q t : Nat) (o : MemOp) (m : Lanes) (i : Bool) : Steady s (s.perform q t o m i) := by
  have bad : ∀ (u : State) (xs : List Nat), Steady u (match xs.head? with
      | some l => u.notePoison o.ref (o.va l) (o.pa l) (leafTier (o.leaf (((laneNums m).head?).getD 0)).1)
      | none => u) := by
    intro u xs; split
    · exact u.notePoison_steady _ _ _ _
    · exact .refl u
  have folds : ∀ (k : Option Nat) (op ty : Nat) (ls : List Nat) (acc : State × List (Nat × Nat) × List Nat),
      (ls.foldl (fun (acc : State × List (Nat × Nat) × List Nat) l =>
        match acc.1.readAt q i k (o.pa l) o.bytes with
        | some old =>
          (acc.1.writeAt q i k (o.pa l) o.bytes (atomNew op ty old (o.arg l) (o.arg2 l)), acc.2.1 ++ [(l, old)], acc.2.2)
        | none => (acc.1, acc.2.1 ++ [(l, onesOf o.width)], acc.2.2 ++ [l])) acc).1.teams = acc.1.teams := by
    intro k op ty ls
    induction ls with
    | nil => intro acc; rfl
    | cons l ls ih =>
      intro acc
      rw [List.foldl_cons, ih]
      split <;> simp
  unfold State.perform
  simp only
  split
  · exact ((Steady.of_teams (by simp)).trans (bad _ _)).trans (State.serveVals_steady _ _ _ _)
  · exact ((Steady.of_teams (by simp)).trans (bad _ _)).trans (State.serveVals_steady _ _ _ _)
  · refine .of_teams ?_
    rw [State.serveVals_teams, State.wroteBytes_teams, foldl_teams (fun s l => State.writeAt_teams s _ _ _ _ _ _)]
    split <;> simp
  · refine (Steady.trans (.of_teams ?_) (bad _ _)).trans (State.serveVals_steady _ _ _ _)
    exact (State.wroteBytesBut_teams _ _ _ _ _ _).trans ((folds _ _ _ _ _).trans (by simp))
  · split
    · exact ((Steady.of_teams (by simp)).trans (bad _ [_])).trans (State.serveVals_steady _ _ _ _)
    · exact .of_teams (by simp)
  · exact State.serveVals_steady _ _ _ _

theorem State.performAtomic_steady (s : State) (q t : Nat) (o : MemOp) (m : Lanes) (i : Bool) : Steady s (s.performAtomic q t o m i) := by
  unfold State.performAtomic
  simp only
  split
  · exact s.perform_steady _ _ _ _ _
  · refine Steady.trans ?_ (State.failFar_steady _ _ _ _)
    repeat' split
    all_goals first
      | exact .refl s
      | exact s.perform_steady _ _ _ _ _

theorem State.performOrdered_steady (s : State) (q t : Nat) (o : MemOp) (m : Lanes) (i : Bool) : Steady s (s.performOrdered q t o m i) := by
  unfold State.performOrdered
  simp only
  split
  · refine (s.perform_steady q t o m i).trans (.of_teams ?_)
    split <;> simp
  · have e : ∀ u : State, u.teams = s.teams → ∀ (v : State) (b : Bool), v = u → Steady s (if b then (v.performAtomic q t o m false).takeResult q t
        (match o.kind with
        | .aggregate _ => byteMask (o.pa (((laneNums m).head?).getD 0) % 4096) o.bytes
        | _ => o.mask m) else v.performAtomic q t o m i) := by
      intro u hu v b hv
      subst hv
      refine (Steady.of_teams hu).trans ?_
      split
      · exact (v.performAtomic_steady _ _ _ _ _).trans (.of_teams (State.takeResult_teams _ _ _ _))
      · exact v.performAtomic_steady _ _ _ _ _
    refine e _ ?_ _ _ rfl
    repeat' split
    all_goals simp

theorem State.fillLands_steady (s : State) (q t : Nat) : Steady s (s.fillLands q t) := by
  unfold State.fillLands
  split
  · exact .refl s
  · split
    · exact .refl s
    · refine Steady.trans (.of_teams ?_) (Steady.foldl (fun u w => ?_) _ _)
      · simp
      · split
        · exact u.performOrdered_steady _ _ _ _ _
        · exact .refl u

theorem State.removeCopy_steady (s : State) (q t : Nat) : Steady s (s.removeCopy q t) := by
  unfold State.removeCopy
  split
  · exact .refl s
  · refine Steady.trans (.of_teams (State.leave_teams s q t)) (Steady.foldl (fun u w => ?_) _ _)
    split
    · simp only
      split
      · exact u.performOrdered_steady _ _ _ _ _
      · exact (Steady.of_teams (State.countDrop_teams u q)).trans (State.serveLost_steady _ _ _ _ _)
      · exact u.serveLost_steady _ _ _ _
    · exact .refl u

theorem State.touchTile_steady (s : State) (q t x : Nat) (k : Option Nat) (l : DWord × DWord) : Steady s (s.touchTile q t x k l).1 := by
  unfold State.touchTile
  refine Steady.trans ?_ (.of_teams (State.touch_teams _ _ _ _ _ _))
  unfold State.rekeyTile
  repeat' split
  all_goals first
    | exact s.removeCopy_steady _ _
    | exact .refl s

theorem State.directTouch_steady (s : State) (q t : Nat) (c : Option Nat) (l : DWord × DWord) (v : Via) : Steady s (s.directTouch q t c l v).1 := by
  unfold State.directTouch State.directTouchAs
  simp only
  have f : ∀ u : State, u.teams = s.teams → Steady s (u.fillLands q t) := fun u h => (Steady.of_teams h).trans (u.fillLands_steady q t)
  have k := s.touchTile_steady q t (c.getD 64) (s.keyFor q c l) l
  repeat' split
  all_goals first
    | exact .refl s
    | exact f _ rfl
    | (rename_i e; rw [e] at k; exact k)
    | (rename_i e; rw [e] at k; exact k.trans ((Steady.of_teams rfl).trans (State.fillLands_steady _ q t)))

theorem State.admitPiece_steady (s : State) (q : Nat) (c : Option Nat) (v : Via) (l : Loc) (a : Nat) : Steady s (s.admitPiece q c v l a).1 := by
  unfold State.admitPiece
  repeat' split
  all_goals first
    | exact .refl s
    | (rename_i e; exact ((congrArg (fun x => Steady s x.1) e).mp (State.directTouch_steady s q _ c _ v)).trans (.of_teams rfl))
    | exact s.directTouch_steady _ _ _ _ _

theorem State.admitSome_steady (q : Nat) (c : Option Nat) (v : Via) (ps : List (Loc × Nat × Nat)) (s : State) : Steady s (s.admitSome q c v ps).1 := by
  induction ps generalizing s with
  | nil => exact .refl s
  | cons p ps ih =>
    obtain ⟨loc, va, n⟩ := p
    unfold State.admitSome
    have k := s.admitPiece_steady q c v loc va
    split
    all_goals rename_i e; rw [e] at k
    · exact k.trans (ih _)
    · exact k

theorem State.admitUnit_steady (s : State) (n : Nat) (c : Option Nat) (v : Via) (ps : List (Loc × Nat × Nat)) : Steady s (s.admitUnit n c v ps).1 := by
  unfold State.admitUnit
  simp only
  split
  · exact .of_teams rfl
  · exact State.admitSome_steady _ _ _ _ _

@[simp] theorem State.xlateRange_teams (n : Nat) (c : Option Nat) (app : Bool) (k : Kind) (ps : List (Nat × Nat)) (s : State) :
    (s.xlateRange n c app k ps).1.teams = s.teams := by
  induction ps generalizing s with
  | nil => rfl
  | cons p ps ih =>
    obtain ⟨va, m⟩ := p
    unfold State.xlateRange
    have x := s.xlate_teams n c app k va
    split
    · rfl
    · split
      all_goals rename_i e
      · rw [e] at x; simpa [ih] using x
      all_goals (rw [e] at x; exact x)

theorem State.peerPerform_steady (s : State) (q x k va n v a : Nat) (l : DWord × DWord) : Steady s (s.peerPerform q x k va n v a l).1 := by
  have cl : ((List.range 16).foldl (fun s i => s.cleanEverywhere (16 * (a / 65536) + i) (BitVec.allOnes 4096)) s).teams = s.teams :=
    foldl_teams (fun s i => State.cleanEverywhere_teams s _ _) _ _
  unfold State.peerPerform
  simp only
  split
  · exact .of_teams (by simp)
  · split
    · split <;> exact .of_teams (by simp)
    · split
      · have e := State.leafEntry_teams q va levels (s.ctx x).root.toNat ((List.range 16).foldl (fun s i =>
          s.cleanEverywhere (16 * (a / 65536) + i) (BitVec.allOnes 4096)) s)
        split
        all_goals rename_i j; rw [j] at e
        · refine Steady.trans (.of_teams ?_) (State.shootDown_steady _ _ _ _ _)
          rw [State.devWrite_teams]; exact e.trans cl
        · exact .of_teams (e.trans cl)
      · exact .of_teams (by simp)

theorem State.peerWaits_teams (s : State) (x q va k : Nat) (w : Waiter) : (s.peerWaits x q va k w).teams = s.teams := by
  unfold State.peerWaits State.addFault State.pumpFault
  simp only
  repeat' split
  all_goals simp

/-- A request of a peer at its home keeps every group steady (16 R436). -/
theorem State.homeAsk_steady (s : State) (q k a va n v : Nat) (w : Waiter) : Steady s (s.homeAsk q k a va n v w).1 := by
  unfold State.homeAsk
  split
  · exact .refl s
  · have e := State.quarterLeaf_teams s q
    split
    all_goals first
      | exact .refl s
      | skip
    all_goals rename_i j; have i := (congrArg (fun x => x.1.teams) j).symm.trans (e _ va)
    · exact .of_teams ((State.peerWaits_teams _ _ _ _ _ _).trans i)
    · exact .of_teams i
    · exact .of_teams ((State.countDrop_teams _ _).trans i)
    · simp only
      repeat' split
      all_goals first
        | exact .of_teams i
        | exact .of_teams ((State.peerWaits_teams _ _ _ _ _ _).trans i)
        | exact .refl s
        | exact (Steady.of_teams i).trans (State.peerPerform_steady _ _ _ _ _ _ _ _ _)

theorem State.readAdmitted_steady (s : State) (q : Nat) (c : Option Nat) (l : Loc) (va n : Nat) : Steady s (s.readAdmitted q c l va n).1 := by
  unfold State.readAdmitted
  split
  · have h := s.homeAsk_steady q 1 (s.peerAsid c) va n 0 (.peer (4 * q) 1 (s.peerAsid c) va n 0)
    simp only
    split
    · exact .of_teams rfl
    · split
      · split
        all_goals rename_i e; exact (congrArg (fun x => Steady s x.1) e).mp h
      · split
        · exact .of_teams rfl
        · exact .of_teams (by simp [State.peerRefuses])
  · exact .refl s
  · split
    · exact .of_teams rfl
    · exact .refl s
    · simp only
      split <;> exact .of_teams (by simp)

theorem State.writeAdmitted_steady (s : State) (q : Nat) (c : Option Nat) (l : Loc) (va n v : Nat) : Steady s (s.writeAdmitted q c l va n v).1 := by
  unfold State.writeAdmitted
  split
  · have h := s.homeAsk_steady q 2 (s.peerAsid c) va n v (.peer (4 * q) 2 (s.peerAsid c) va n v)
    simp only
    split
    · exact .of_teams rfl
    · split
      · split
        all_goals rename_i e; exact (congrArg (fun x => Steady s x.1) e).mp h
      · split
        · exact .of_teams rfl
        · exact .of_teams (by simp [State.peerRefuses])
  · exact .refl s
  · split
    · exact .of_teams rfl
    · exact .refl s
    · simp only
      split <;> exact .of_teams (by simp)

theorem State.readPieces_steady (q : Nat) (c : Option Nat) (ps : List (Loc × Nat × Nat)) (s : State) : Steady s (s.readPieces q c ps).1 := by
  induction ps generalizing s with
  | nil => exact .refl s
  | cons p ps ih =>
    obtain ⟨loc, va, n⟩ := p
    unfold State.readPieces
    have k := s.readAdmitted_steady q c loc va n
    split
    · rename_i e; rw [e] at k; exact k.trans (ih _)
    · rename_i e; rw [e] at k; exact k.trans (ih _)
    · exact k

theorem State.writePieces_steady (q : Nat) (c : Option Nat) (ps : List (Loc × Nat × Nat)) (v : Nat) (s : State) :
    Steady s (s.writePieces q c ps v).1 := by
  induction ps generalizing s v with
  | nil => exact .refl s
  | cons p ps ih =>
    obtain ⟨loc, va, n⟩ := p
    unfold State.writePieces
    have k := s.writeAdmitted_steady q c loc va n (v % 2 ^ (8 * n))
    split
    · rename_i e; rw [e] at k; exact k.trans (ih _ _)
    · rename_i e; rw [e] at k; exact k.trans (ih _ _)
    · exact k

theorem State.noteRefresh_teams (s : State) (n : Nat) (ps : List (Loc × Nat × Nat)) : (s.noteRefresh n ps).teams = s.teams := by
  unfold State.noteRefresh; split <;> rfl

/-- A unit's read of memory at a virtual address keeps every group steady, whatever it comes to (R284, R287, R231). The bytes that a quarter sees
need not stand: a fill that lands with it makes the stores that waited for it (09 R315). -/
theorem State.vRead_steady (s : State) (n : Nat) (c : Option Nat) (app : Bool) (v : Via) (va k : Nat) : Steady s (s.vRead n c app v va k).1 := by
  unfold State.vRead
  have x := State.xlateRange_teams n c app 1 (pieces va k) s
  split
  all_goals rename_i e; rw [e] at x
  · exact .of_teams x
  · have a := fun u => State.admitUnit_steady u n c v
    split
    all_goals rename_i j
    · exact (Steady.of_teams x).trans (((congrArg (fun y => Steady _ y.1) j).mp (a _ _)).trans (.of_teams (State.noteRefresh_teams _ _ _)))
    · exact (Steady.of_teams x).trans (((congrArg (fun y => Steady _ y.1) j).mp (a _ _)).trans (State.readPieces_steady _ _ _ _))

/-- The same of its write. -/
theorem State.vWrite_steady (s : State) (n : Nat) (c : Option Nat) (app : Bool) (v : Via) (va k x : Nat) :
    Steady s (s.vWrite n c app v va k x).1 := by
  unfold State.vWrite
  have h := State.xlateRange_teams n c app 2 (pieces va k) s
  split
  all_goals rename_i e; rw [e] at h
  · exact .of_teams h
  · have a := fun u => State.admitUnit_steady u n c v
    split
    all_goals rename_i j
    · exact (Steady.of_teams h).trans ((congrArg (fun y => Steady _ y.1) j).mp (a _ _))
    · exact (Steady.of_teams h).trans (((congrArg (fun y => Steady _ y.1) j).mp (a _ _)).trans (State.writePieces_steady _ _ _ _ _))

/-- A long read of a unit, of which a cycle's front admits a part (R311, 06 R231). -/
theorem State.readOn_steady (s : State) (n : Nat) (c : Option Nat) (app : Bool) (va k : Nat) (g : Nat × Nat × Option (Nat × Nat)) :
    Steady s (s.readOn n c app va k g).1 := by
  unfold State.readOn
  have x := State.xlateRange_teams n c app 1 (pieces va k) s
  simp only
  split
  all_goals rename_i e; rw [e] at x
  · exact .of_teams x
  · exact .of_teams x
  · exact .of_teams x
  · split
    · exact .of_teams x
    · have a := fun (u : State) (m : Nat) ps qs => ((Steady.of_teams (State.noteRefresh_teams u n qs)).trans (State.admitSome_steady m c .touching ps _))
      have r := fun m ps (u : State) => State.readPieces_steady m c ps u
      split
      all_goals rename_i j; exact (Steady.of_teams x).trans ((a _ _ _ _).trans ((congrArg (fun y => Steady _ y.1) j).mp (r _ _ _)))

/-! ## Bytes where none is on its way -/

theorem sameBytes_foldl {α : Type} {f : State → α → State} (h : ∀ s a, s.Settled → SameBytes s (f s a)) (xs : List α) (s : State) (k : s.Settled) :
    SameBytes s (xs.foldl f s) := by
  induction xs generalizing s with
  | nil => exact .refl s
  | cons x xs ih => exact (h s x k).trans (ih _ ((h s x k).settled k))

theorem State.Settled.endReplicas {s : State} (h : s.Settled) (p : Nat) (a : BitVec 16) (va n : Nat) : SameBytes s (s.endReplicas p a va n) := by
  unfold State.endReplicas
  split
  · exact .refl s
  · refine sameBytes_foldl (fun u r k => ?_) _ _ h
    have d : ∀ (w : State) (x : Nat), SameBytes w (w.dropReplica x r) := fun w x => ⟨rfl, fun _ => rfl, rfl⟩
    have e := fun y => k.leafEntry p (65536 * r.1) levels y
    split
    all_goals rename_i j; have i := (congrArg (fun x => SameBytes u x.1) j).mp (e _)
    · split
      · exact i
      · exact i.trans (d _ _)
    · exact i.trans (d _ _)

/-- A shoot-down changes no byte that a quarter sees, where none is on its way (R261, R293). -/
theorem State.Settled.shootDown {s : State} (h : s.Settled) (p : Nat) (a : BitVec 16) (va n : Nat) : SameBytes s (s.shootDown p a va n) := by
  unfold State.shootDown
  simp only
  have c : ∀ (cs : List Core) (f : Nat → Quarter → Quarter), (∀ i q, (f i q).copies = q.copies) →
      SameBytes s { s with cores := cs, quarters := s.quarters.mapIdx f } := by
    intro cs f hf
    refine ⟨rfl, fun q => ?_, rfl⟩
    simp only [State.quarter, List.getD_eq_getElem?_getD, List.getElem?_mapIdx]
    cases s.quarters[q]? with
    | none => rfl
    | some k => exact hf q k
  have e := fun cs f hf => (c cs f hf).trans (((c cs f hf).settled h).endReplicas p a va n)
  refine SameBytes.trans (e _ _ ?_) ⟨rfl, fun _ => rfl, rfl⟩
  intro i q; split <;> rfl

/-! ## Scales of a unit (06 R217 to R223) -/

theorem steady_modTeam (s : State) (n : Nat) (f : Team → Team) (hi : ∀ t, (f t).id = t.id) (hg : ∀ t k, (f t).group? k = t.group? k) :
    Steady s (s.modTeam n f) := fun r => by rw [group?_modTeam s n f hi hg]

theorem State.cacheReads_steady {u : State} {cs : List Byte} (t : Team) (core : Nat) (e : MxEntry) (n : Nat) (as : List Nat)
    (got : List (Nat × Byte)) (s : State) (h : s.cacheReads t core e n as got = .codes u cs) : Steady s u := by
  induction as generalizing s got with
  | nil => cases h; exact .refl _
  | cons a as ih =>
    unfold State.cacheReads at h
    simp only at h
    split at h
    · exact ih _ _ h
    · split at h
      · cases h
      · split at h
        · cases h
        · have v := s.vRead_steady core t.shape.ctx (e.app t) .bypassing a 1
          split at h <;> first
            | cases h
            | (rename_i j
               have k := ih _ _ h
               exact ((congrArg (fun y => Steady s y.1) j).mp v).trans (Steady.trans (by exact steady_modTeam _ _ _ (fun _ => rfl) (fun _ _ => rfl)) k))

/-- Taking the scales of a unit takes from the team's FIFO and fills its scale cache, and keeps every group steady (R217, R218, R223). -/
theorem State.unitScales_steady {s u : State} {cs : List Byte} {t : Team} {core n b : Nat} {e : MxEntry}
    (h : s.unitScales t core e n b = .codes u cs) : Steady s u := by
  unfold State.unitScales at h
  simp only at h
  split at h
  · cases h; exact .refl _
  · unfold State.fifoScales at h
    simp only at h
    repeat' split at h
    all_goals cases h
    · exact .refl _
    · exact steady_modTeam _ _ _ (fun _ => rfl) (fun _ _ => rfl)
  · split at h
    · cases h
    · exact State.cacheReads_steady _ _ _ _ _ _ _ h

end Sys2Proof.Machine
end

