-- ==== Sys2Proof/Tests/Slice0.lean ====
section
/-! SUPPORT. Tests: ill-formed terms, words of the spec decoded, one step of each family's words with results worked out by hand from the
rules, and, for every statement with hypotheses, states that meet them. -/
open Sys2Proof Sys2Proof.Machine Sys2Proof.Safety
namespace Sys2Proof.Tests

-- Theorem after theorem: their kernel evaluations side by side would need more threads than the check allows.
set_option Elab.async false

/-- The state in which a word issues for the group that withFetchWord places, its registers prepared. -/
def ready (w : Word) (prep : Group → Group) : State :=
  State.issuing (State.modGroup { State.reset.withFetchWord 32 w.toNat with agenda := [] } ⟨1, 0⟩ prep) ⟨1, 0⟩ 0xFF w none

/-! ## Decoding: words from the fields of 03 R82 and R100 to R114 -/

/-- V3: major 00, d 63, a 1, b 32, fn5 14 SUBSAT.i32, pg 7. -/
theorem test_decode_iop : decode 0x03F06077#32 = some (.subsatI32 63 1 32 7) := by decide

/-- VI: major 01, d 9, a 62, fn3 7 SARI, imm8 31, pg 2. -/
theorem test_decode_iopi : decode 0x049FB8FA#32 = some (.sari 9 62 31 2) := by decide

/-- V3: major 02, d 62, a 2, b 4, fn5 9 ANDN on pairs. -/
theorem test_decode_iopw : decode 0x0BE08449#32 = some (.iopw 62 2 4 9 1) := by decide

/-- V3: major 03, d 7, a 8, b 9, fn5 12 PERMB. -/
theorem test_decode_bits : decode 0x0C720963#32 = some (.permb 7 8 9 3) := by decide

/-- V3: major 03, d 6, a 8, fn5 16 + 5 POPC on pairs, b 0. -/
theorem test_decode_bits64 : decode 0x0C6200A8#32 = some (.popcB64 6 8 0) := by decide

/-- V3: major 04, d 5, a 6, b 7, fn5 12 REM.i32.tz. -/
theorem test_decode_imd : decode 0x10518764#32 = some (.remI32Tz 5 6 7 4) := by decide

/-- VP: major 05, pd 7, cc 5 ge, comb 3 xor, a 62, b 60, ty 3 .n64. -/
theorem test_decode_icmp : decode 0x17AFF79E#32 = some (.cmp 7 5 3 62 60 3 6) := by decide

/-- VP: major 06, pd 2, cc 7 ord, comb 1, a 33, b 34, ty 2 .f16. -/
theorem test_decode_fcmp : decode 0x193B0C50#32 = some (.fcmp 2 7 1 33 34 2 0) := by decide

/-- VP: major 06, pd 3, cc 15, comb 2, a 5, b mask 0x2A, ty 0. -/
theorem test_decode_fclass : decode 0x19FC2D41#32 = some (.fclass 3 2 5 0x2A 0 1) := by decide

/-- V3: major 07, d 40, a 41, b 42, fn5 8 + 5 SEL on p5. -/
theorem test_decode_plog : decode 0x1E8A6A69#32 = some (.sel 40 41 42 5 1) := by decide

/-- V3: major 07, d 17 a scalar, a p6, fn5 6 PMOV. -/
theorem test_decode_pmov : decode 0x1D118030#32 = some (.pmovToScalar 17 6) := by decide

/-- V3: major 08, d 2, a 4, fn5 5 FABS times 4 + type 1 .f64, b 0. -/
theorem test_decode_fop : decode 0x202100A8#32 = some (.fabs 2 4 1 0) := by decide

/-- V3: major 09, d 1, a 2, b 3, fn5 2 FNMA times 4 + type 3 .bf16x2. -/
theorem test_decode_fmac : decode 0x2410835D#32 = some (.fnma 1 2 3 3 5) := by decide

/-- V3: major 0A, d 1, a 2, fn5 type 2 .f16x2 times 8 + 7 TANH, b 0. -/
theorem test_decode_fspc : decode 0x281080B8#32 = some (.tanh 1 2 2 0) := by decide

/-- VC: major 0B, d 4, a 8, dt 1 .f32, st 4 .e4m3, fn3 0 CVT. -/
theorem test_decode_cvt : decode 0x2C420502#32 = some (.cvt 4 8 1 4 2) := by decide

/-- VC: major 0C, d 2, a 4, dt 8 .e2m1, st 8 block length 32, fn3 0 QBLK. -/
theorem test_decode_qnt : decode 0x30212201#32 = some (.qblk 2 4 8 1 1) := by decide

/-- V3: major 0D, d 1, a 2, b 0, fn5 8 + 2 RED.min.i32. -/
theorem test_decode_lane : decode 0x34108050#32 = some (.red 1 2 2 0) := by decide

/-- VI: major 0E, d x2, a 9, fn3 5 XSET, imm8 0xFF. -/
theorem test_decode_move : decode 0x38226FFB#32 = some (.xset 2 9 0xFF 3) := by decide

/-- S: major 0F, sd 31, sa 30, sb 29, fn8 24 + 3 SCMP.le.n64. -/
theorem test_decode_sop : decode 0x3FFEE8D8#32 = some (.scmpN64 31 30 29 3) := by decide

/-- SI: major 10, sd 1, sa 2, fn3 3 SSHRI, imm13 63. -/
theorem test_decode_sopi : decode 0x4022603F#32 = some (.sshri 1 2 63) := by decide

/-- V3: major 11, d 4, a 8, b 12, fn5 5 SMATCH. -/
theorem test_decode_str : decode 0x44420C28#32 = some (.smatch 4 8 12 0) := by decide

/-- V3: major 12, d 10, a 20, fn5 1 HMIX, b 0. -/
theorem test_decode_hash : decode 0x48A5000A#32 = some (.hmix 10 20 2) := by decide

/-- B: major 18, cond 5 BLEZ, sa 9, off18 -1. -/
theorem test_decode_br : decode 0x62A7FFFF#32 = some (.blez 9 (-1)) := by decide

/-- J: kind 2, off20[19:16] 0, sa 21. -/
theorem test_decode_jmpi : decode 0x66000015#32 = some (.jmpi 21) := by decide

/-- J: kind 2, off20[19:16] 3 TRAP, code 0xBEEF. -/
theorem test_decode_trap : decode 0x6603BEEF#32 = some (.trapW 0xBEEF) := by decide

/-- D: fn3 2. -/
theorem test_decode_rcv : decode 0x69000000#32 = some (.rcv) := by decide

/-- M: major 20, d 8, b 7, o 63, w 5, scope 8, ord 1. -/
theorem test_decode_ld : decode 0x808FFD89#32 = some (.ldAcq 8 7 63 5 8 1) := by decide

/-- M: major 22, d 4, b 0, o 5, w 4, .sib of team 6. -/
theorem test_decode_lds : decode 0x88402CE0#32 = some (.lds 4 5 4 1 6 0) := by decide

/-- M: major 23, d 3, b 0, o 5, w 0. -/
theorem test_decode_sts : decode 0x8C302807#32 = some (.sts 3 5 0 0 0 7) := by decide

/-- A: major 24, d 2, b 3, o 4, a 8, op4 7 CAS, ty 2. -/
theorem test_decode_atom : decode 0x902690F0#32 = some (.atomCas 2 3 4 8 2 0) := by decide

/-- A: major 25, d 9, b 0, o 15, a 14, op4 2 MAX, ty 1. -/
theorem test_decode_atoms : decode 0x9491FC4B#32 = some (.atomsMax 9 15 14 1 3) := by decide

/-- M: major 26, d 0, b 2, o 1, w 5 STOUCH. -/
theorem test_decode_spl : decode 0x98040D00#32 = some (.stouch 2 1 0) := by decide

/-- S: major 27, sd b6, sa 3, sb 0, fn8 1 BLIM. -/
theorem test_decode_base : decode 0x9CC30008#32 = some (.blim 6 3) := by decide

/-- S: major 27, sd 20, sa b5, fn8 3 LDU.b64. -/
theorem test_decode_ldu : decode 0x9E850018#32 = some (.lduB64 20 5) := by decide

/-- W: fn2 2, b 4, sa 9. -/
theorem test_decode_waitv : decode 0xA2890000#32 = some (.waitv 4 9) := by decide

/-- C: major 29, sa 6, bw 15, fn9 4 BTEST. -/
theorem test_decode_bar : decode 0xA4C0F020#32 = some (.btest 6 15) := by decide

/-- C: major 2A, fn9 1. -/
theorem test_decode_fencex : decode 0xA8000008#32 = some (.fencex) := by decide

/-- C: major 2B, sa 5, bw 3, fn9 2 + 256 CPYS posting. -/
theorem test_decode_cpy : decode 0xACA03810#32 = some (.cpys 5 3 1) := by decide

/-- C: major 2C, sa 4, sb 5, bw p6, fn9 1 EMIT.nb. -/
theorem test_decode_lnch : decode 0xB0856008#32 = some (.emitNb 4 5 6) := by decide

/-- X: ac 2, a 48, ob 5, fmt 4 .e4m3, reuse 1, fn5 31. -/
theorem test_decode_mmq : decode 0xC0B0A9F9#32 = some (.mmq 2 48 5 4 1 31 1) := by decide

/-- X: ac 1, a 8, ob 0, fmt 10 .i8, fn5 2. -/
theorem test_decode_mms : decode 0xC4481410#32 = some (.mms 1 8 0 10 0 2 0) := by decide

/-- Q: major 32, sa 3, sb 4, ob 7, fn6 2 OBLD. -/
theorem test_decode_obuf : decode 0xC8640E10#32 = some (.obld 3 4 7) := by decide

/-- Q: major 33, sa 3, sb 4, fn6 2 SCCACHE. -/
theorem test_decode_scl : decode 0xCC640010#32 = some (.sccache 3 4) := by decide

/-- Q: major 34, sa 7, ac 12, fn6 1 ACCLD. -/
theorem test_decode_maux : decode 0xD0E0C008#32 = some (.accld 7 12) := by decide

/-- V3: major 3C, d 3, a 16, b 5, fn5 5 KVAPP. -/
theorem test_decode_seq : decode 0xF034052C#32 = some (.kvapp 3 16 5 4) := by decide

/-- SI: major 3D, sd 4, fn3 0 RDSYS, number 0x7FF. -/
theorem test_decode_sys : decode 0xF48007FF#32 = some (.rdsys 4 0x7FF) := by decide

/-- SI: major 3D, sa 4, fn3 4 TIMER.wall. -/
theorem test_decode_timer : decode 0xF4048001#32 = some (.timerWall 4) := by decide

/-- H: kind 7, payload 0xABCD. -/
theorem test_decode_hmark : decode 0xFDC0ABCD#32 = some (.hmark 0xABCD) := by decide

/-- Not allocated by 03 R83 to R114: major 13; major 3E; IOP fn5 16; SOPI fn3 5; MULW to an odd register. -/
theorem test_decode_refuses_0 : decode 0x4C000000#32 = none ∧ decode 0xF8000000#32 = none ∧ decode 0x00104180#32 = none ∧ decode 0x4021A000#32 = none ∧ decode 0x10108318#32 = none := by decide

/-- Not allocated by 03 R83 to R114: POPC with b; FSPC.f64 SIN; CVT of .e4m3 to .f64; DVG fn3 3; RCV with an offset. -/
theorem test_decode_refuses_1 : decode 0x0C104128#32 = none ∧ decode 0x28208068#32 = none ∧ decode 0x2C410100#32 = none ∧ decode 0x69800000#32 = none ∧ decode 0x69000001#32 = none := by decide

/-- Not allocated by 03 R83 to R114: J kind 3; LD of width 6; LD.acq of scope 10; ATOMG beside ADD: op4 10; WAITB with low bits. -/
theorem test_decode_refuses_2 : decode 0x67000000#32 = none ∧ decode 0x80000600#32 = none ∧ decode 0x800002A8#32 = none ∧ decode 0x90000140#32 = none ∧ decode 0xA1180008#32 = none := by decide

/-- Not allocated by 03 R83 to R114: FENCE of scope 10; MMS .f64; MMQ of a 4; SEQ fn5 8; RDSYS 0x800. -/
theorem test_decode_refuses_3 : decode 0xA800A000#32 = none ∧ decode 0xC4000000#32 = none ∧ decode 0xC0040200#32 = none ∧ decode 0xF0000040#32 = none ∧ decode 0xF4000800#32 = none := by decide

/-- Not allocated by 03 R83 to R114: HSCHED pair 3; HMOD mode 5; HSCOPE 10; hint kind 8; a set bit below a C form. -/
theorem test_decode_refuses_4 : decode 0xFC800060#32 = none ∧ decode 0xFCC00005#32 = none ∧ decode 0xFD40000A#32 = none ∧ decode 0xFE000000#32 = none ∧ decode 0xA4000009#32 = none := by decide

/-! ## WellFormed: an ill-formed term for each check, which the check refuses -/

/-- Refused: an odd register of a pair, or a function that 03 R100 does not allocate. -/
theorem test_wf_pairs_0 : ∀ i ∈ ([.iopw 1 0 0 0 0, .iopw 0 1 0 0 0, .iopw 0 0 1 0 0, .iopw 0 0 0 16 0, .shlB64 1 0 0 0, .shlB64 0 1 0 0, .shrB64 1 0 0 0] : List Instr), i.wf = false := by decide

/-- Refused: an odd register of a pair, or a function that 03 R100 does not allocate. -/
theorem test_wf_pairs_1 : ∀ i ∈ ([.sarB64 0 1 0 0, .rolB64 1 0 0 0, .rorB64 0 1 0 0, .popcB64 1 0 0, .clzB64 0 1 0, .ctzB64 1 0 0, .brevB64 0 1 0] : List Instr), i.wf = false := by decide

/-- Refused: an odd register of a pair, or a function that 03 R100 does not allocate. -/
theorem test_wf_pairs_2 : ∀ i ∈ ([.mulwI32 1 0 0 0, .mulwN32 1 0 0 0, .hmix 1 0 0, .hmix 0 1 0] : List Instr), i.wf = false := by decide

/-- Refused: an odd pair, a cc, a predicate or scalar number that 03 R101 does not admit. -/
theorem test_wf_compares_0 : ∀ i ∈ ([.cmp 0 6 0 0 0 0 0, .cmp 0 0 0 1 0 2 0, .cmp 0 0 0 0 1 3 0, .fcmp 0 8 0 0 0 0 0, .fcmp 0 0 0 1 0 1 0, .fcmp 0 0 0 0 1 1 0, .fclass 0 0 1 0 1 0] : List Instr), i.wf = false := by decide

/-- Refused: an odd pair, a cc, a predicate or scalar number that 03 R101 does not admit. -/
theorem test_wf_compares_1 : ∀ i ∈ ([.pand 8 0 0 0, .pand 0 8 0 0, .pand 0 0 8 0, .por 8 0 0 0, .pxor 0 8 0 0, .pnot 8 0 0, .pnot 0 8 0] : List Instr), i.wf = false := by decide

/-- Refused: an odd pair, a cc, a predicate or scalar number that 03 R101 does not admit. -/
theorem test_wf_compares_2 : ∀ i ∈ ([.pmov 8 0 0, .pmov 0 8 0, .pmovFromScalar 8 0 0, .pmovFromScalar 0 32 0, .pmovToScalar 32 0, .pmovToScalar 0 8] : List Instr), i.wf = false := by decide

/-- Refused: an odd pair of .f64, or a type that 03 R102 does not allocate. -/
theorem test_wf_floats_0 : ∀ i ∈ ([.fadd 1 0 0 1 0, .fsub 0 1 0 1 0, .fmul 0 0 1 1 0, .fmin 1 0 0 1 0, .fmax 0 1 0 1 0, .fabs 1 0 1 0, .fneg 0 1 1 0] : List Instr), i.wf = false := by decide

/-- Refused: an odd pair of .f64, or a type that 03 R102 does not allocate. -/
theorem test_wf_floats_1 : ∀ i ∈ ([.fma 1 0 0 1 0, .fms 0 1 0 1 0, .fnma 0 0 1 1 0, .fmad 1 0 0 1 0, .rcp 1 0 1 0, .rcp 0 0 3 0, .rsq 0 1 1 0] : List Instr), i.wf = false := by decide

/-- Refused: an odd pair of .f64, or a type that 03 R102 does not allocate. -/
theorem test_wf_floats_2 : ∀ i ∈ ([.sqrt 0 0 3 0, .exp2 0 0 1 0, .log2 0 0 1 0, .sin 0 0 3 0, .cos 0 0 1 0, .tanh 0 0 3 0] : List Instr), i.wf = false := by decide

/-- Refused: a pair of types, a type or a register number that 03 R103 and 04 R139 to R147 do not admit. -/
theorem test_wf_conversions_0 : ∀ i ∈ ([.cvt 0 0 0 4 0, .cvt 0 0 15 1 0, .cvt 1 0 1 2 0, .cvt 0 1 4 1 0, .cvts 0 0 1 2, .cvts 32 0 0 1, .cvts 0 32 0 1] : List Instr), i.wf = false := by decide

/-- Refused: a pair of types, a type or a register number that 03 R103 and 04 R139 to R147 do not admit. -/
theorem test_wf_conversions_1 : ∀ i ∈ ([.qblk 0 0 1 0 0, .qblk 1 0 4 0 0, .qblk 0 2 4 1 0, .dqblk 0 0 1 0 0, .dqblk 0 1 4 0 0, .dqblk 2 0 4 1 0, .pack6 0 0 4 0] : List Instr), i.wf = false := by decide

/-- Refused: a pair of types, a type or a register number that 03 R103 and 04 R139 to R147 do not admit. -/
theorem test_wf_conversions_2 : ∀ i ∈ ([.pack6 1 0 6 0, .pack6 0 1 6 0, .unpk6 0 0 4 0, .unpk6 2 0 6 0, .unpk6 0 2 7 0, .lgenc 0 2 0, .lgdec 2 0 0] : List Instr), i.wf = false := by decide

/-- Refused: a selector, a scalar or a string register that 03 R104 and R106 do not admit. -/
theorem test_wf_moves_0 : ∀ i ∈ ([.ballot 32 0, .ballot 0 8, .movsr 0 6 0, .movv2s 32 0 0, .movs2v 0 32 0, .sld 2 0 0 0, .sld 0 4 0 0] : List Instr), i.wf = false := by decide

/-- Refused: a selector, a scalar or a string register that 03 R104 and R106 do not admit. -/
theorem test_wf_moves_1 : ∀ i ∈ ([.sst 4 0 0 0, .sst 0 2 0 0, .scmp 0 1 0 0, .scmp 0 0 2 0, .sfindb 0 1 0 0, .sfold 1 0 0, .sfold 0 2 0] : List Instr), i.wf = false := by decide

/-- Refused: a selector, a scalar or a string register that 03 R104 and R106 do not admit. -/
theorem test_wf_moves_2 : ∀ i ∈ ([.smatch 0 1 0 0, .smatch 0 0 2 0] : List Instr), i.wf = false := by decide

/-- Refused: a width, a scope, a register number or a type that 03 R86, R108, R109 and 08 R263 do not admit. -/
theorem test_wf_memory_0 : ∀ i ∈ ([.ld 0 0 0 6 0 0, .ld 1 0 0 3 0 0, .ld 2 0 0 4 0 0, .ld 4 0 0 5 0 0, .ldAcq 0 0 0 2 10 0, .ldAcq 1 0 0 3 0 0, .st 0 0 0 7 0 0] : List Instr), i.wf = false := by decide

/-- Refused: a width, a scope, a register number or a type that 03 R86, R108, R109 and 08 R263 do not admit. -/
theorem test_wf_memory_1 : ∀ i ∈ ([.st 1 0 0 3 0 0, .stRel 0 0 0 2 15 0, .lds 1 0 3 0 0 0, .lds 0 0 2 0 1 0, .sts 2 0 4 0 0 0, .sts 0 0 2 0 7 0, .fence 10] : List Instr), i.wf = false := by decide

/-- Refused: a width, a scope, a register number or a type that 03 R86, R108, R109 and 08 R263 do not admit. -/
theorem test_wf_memory_2 : ∀ i ∈ ([.atomAdd 0 0 0 0 1 0, .atomAdd 1 0 0 0 2 0, .atomMin 1 0 0 0 2 0, .atomMax 0 0 0 1 3 0, .atomAnd 0 0 0 0 3 0, .atomOr 0 0 0 1 2 0, .atomXor 0 0 0 0 1 0] : List Instr), i.wf = false := by decide

/-- Refused: a width, a scope, a register number or a type that 03 R86, R108, R109 and 08 R263 do not admit. -/
theorem test_wf_memory_3 : ∀ i ∈ ([.atomXchg 0 0 0 0 3 0, .atomCas 0 0 0 1 0 0, .atomCas 0 0 0 2 2 0, .atomFadd 0 0 0 0 3 0, .atomFadd 1 0 0 0 2 0, .atomg 0 0 0 0 1 0] : List Instr), i.wf = false := by decide

/-- Refused: a type or a register number that 03 R109 does not admit in an ATOMS word. -/
theorem test_wf_atoms_0 : ∀ i ∈ ([.atomsAdd 0 0 0 1 0, .atomsMin 1 0 0 2 0, .atomsMax 0 0 1 3 0, .atomsAnd 0 0 0 3 0, .atomsOr 0 0 1 2 0, .atomsXor 0 0 0 1 0, .atomsXchg 0 0 0 3 0] : List Instr), i.wf = false := by decide

/-- Refused: a type or a register number that 03 R109 does not admit in an ATOMS word. -/
theorem test_wf_atoms_1 : ∀ i ∈ ([.atomsCas 0 0 1 0 0, .atomsCas 0 0 2 2 0, .atomsFadd 0 0 0 3 0, .atomgScratch 0 0 0 1 0] : List Instr), i.wf = false := by decide

/-- A condition past the six of SCMP, and a copy that posts to no barrier but names one (03 R110). -/
theorem test_wf_choices : ∀ i ∈ ([.scmpI64 0 0 0 6, .scmpN64 0 0 0 7, .cpy 0 1 0, .cpyg 0 1 0, .cpys 0 2 0, .cpyc 0 15 0] : List Instr), i.wf = false := by decide

/-- Refused: a format or a register number that 03 R113 and R114 do not admit, or a hint payload that R90 does not allocate. -/
theorem test_wf_units_0 : ∀ i ∈ ([.mmq 0 0 0 11 0 0 0, .mmq 0 4 0 1 0 0 0, .mmq 1 0 0 0 0 0 0, .mms 0 0 0 0 0 0 0, .mms 0 0 0 11 0 0 0, .mms 0 4 0 1 0 0 0, .snput 32 0 0] : List Instr), i.wf = false := by decide

/-- Refused: a format or a register number that 03 R113 and R114 do not admit, or a hint payload that R90 does not allocate. -/
theorem test_wf_units_1 : ∀ i ∈ ([.snput 0 32 0, .snput 0 0 32, .snfind 32 0 0, .snget 32 0, .snget 0 32, .snrel 32, .kvmap 0 1 0 0] : List Instr), i.wf = false := by decide

/-- Refused: a format or a register number that 03 R113 and R114 do not admit, or a hint payload that R90 does not allocate. -/
theorem test_wf_units_2 : ∀ i ∈ ([.kvapp 0 4 0 0, .kvcommit 32 0, .kvcommit 0 32, .kvfree 32, .hsched 3 0 0, .hmod 0 0 0 5, .hscope 0 10] : List Instr), i.wf = false := by decide

/-- Register numbers at the ends of their ranges are admitted. -/
theorem test_wf_admits : ∀ i ∈ ([.iopw 62 62 62 15 7, .cmp 7 5 3 62 62 3 7, .ld 56 7 63 5 0 7, .mmq 14 56 7 0 1 31 7, .hscope 3 9] : List Instr), i.wf = true := by decide

/-! ## The cipher of memory encryption (16 R427), on the examples of its published standards -/

/-- FIPS 197, C.3: AES-256 under the key 00 01 … 1F of the block 00 11 … FF. -/
theorem test_aes : aesEncrypt (keyWords 0x1f1e1d1c1b1a191817161514131211100f0e0d0c0b0a09080706050403020100) 0xffeeddccbbaa99887766554433221100 =
    0x8960494b9049fceabf456751cab7a28e := by decide +kernel

/-- IEEE 1619, vector 10: data unit 0xFF of the bytes 00 01 02 … -/
theorem test_xts : encryptUnit (0x2776966649575999699370245777496226357174286053234590452818281827#256 ++
      0x9245947409820551379993169741880295278333646284239397585326594131#256) 255
    0x3f3e3d3c3b3a393837363534333231302f2e2d2c2b2a292827262524232221201f1e1d1c1b1a191817161514131211100f0e0d0c0b0a09080706050403020100 =
    0xfd88b14bcbfebe4533fcad35ac860a68443f68acf917b3668d4afef876e2315d3be6a314d412aea45723485e3f8000ea9bcf70e3996c83e48603772f103a3b1c := by decide +kernel

/-! ## Words, one step each: the word's bits, prepared registers, one result calculated by hand from the rule -/

/-- A vector register of every lane. -/
def gv (n : Nat) (f : Nat → Nat) (g : Group) : Group := g.setV n 0xFFFFFFFF (fun l => BitVec.ofNat 32 (f l))
/-- A vector register, the same in every lane. -/
def gc (n x : Nat) (g : Group) : Group := gv n (fun _ => x) g
/-- A scalar register. -/
def gs (n : Nat) (x : DWord) (g : Group) : Group := g.setS n x
/-- The placed group after an outcome. -/
def groupOf (o : Out) : Option Group := match o with
  | .next s => s.group? ⟨1, 0⟩
  | _ => none
/-- The placed team after an outcome. -/
def teamOf (o : Out) : Option Team := match o with
  | .next s => s.team? 1
  | _ => none
/-- The outcome of a word for the placed group. -/
def out (w : Word) (prep : Group → Group) : Out := runWord w (ready w prep)
/-- Register n of lane l after a word. -/
def v (w : Word) (prep : Group → Group) (n l : Nat) : Word := ((groupOf (out w prep)).map (fun g => g.v n l)).getD 0xDEADDEAD
/-- s(n) after a word. -/
def sOf (w : Word) (prep : Group → Group) (n : Nat) : DWord := ((groupOf (out w prep)).map (fun g => g.s n)).getD 0xDEADDEAD
/-- p(n) after a word. -/
def pOf (w : Word) (prep : Group → Group) (n : Nat) : Lanes := ((groupOf (out w prep)).map (fun g => g.p n)).getD 0xDEADDEAD
/-- The PC of a slice after a word. -/
def pcOf (w : Word) (prep : Group → Group) (k : Nat) : Word := ((groupOf (out w prep)).map (fun g => (g.slice k).pc)).getD 0xDEADDEAD
/-- The team's halt code after a word, if it has halted. -/
def haltOf (w : Word) (prep : Group → Group) : Option Nat := (teamOf (out w prep)).bind (fun t => if t.fr.halted then some t.fr.code else none)

/-- 05 R153: ADD v3, v2, v4 wraps. -/
theorem test_add_wraps : v 0x00308400 (gv 2 (fun l => l) ∘ gc 4 0xFFFFFFFF) 3 5 = 4 := by decide +kernel
/-- 03 R84: (p1) ADD leaves the lanes outside p1. -/
theorem test_add_guarded : v 0x00308401 (gc 2 7 ∘ gc 3 9 ∘ fun g => g.setP 1 0xFFFFFFFF 0x2) 3 0 = 9 ∧
    v 0x00308401 (gc 2 7 ∘ gc 3 9 ∘ fun g => g.setP 1 0xFFFFFFFF 0x2) 3 1 = 7 := by decide +kernel
/-- 05 R153: SUBSAT.i32 of -2^31 and 1 stays at -2^31. -/
theorem test_subsat : v 0x00308470 (gc 2 0x80000000 ∘ gc 4 1) 3 0 = 0x80000000 := by decide +kernel
/-- 05 R153: ABSD.i32 of -2^31 and 2^31 - 1 is 2^32 - 1. -/
theorem test_absd : v 0x00308450 (gc 2 0x80000000 ∘ gc 4 0x7FFFFFFF) 3 31 = 0xFFFFFFFF := by decide +kernel
/-- 05 R153: SARI by 31. -/
theorem test_sari : v 0x043038F8 (gc 0 0x80000000) 3 0 = 0xFFFFFFFF := by decide +kernel
/-- 02 R57, 05 R153: IOPW MIN.i64 takes the negative pair, low word first. -/
theorem test_min_i64 : v 0x08208410 (gc 2 5 ∘ gc 3 0xFFFFFFFF ∘ gc 4 6 ∘ gc 5 0) 2 0 = 5 ∧
    v 0x08208410 (gc 2 5 ∘ gc 3 0xFFFFFFFF ∘ gc 4 6 ∘ gc 5 0) 3 0 = 0xFFFFFFFF := by decide +kernel
/-- 05 R158: PERMB with 0x0123 reverses a's bytes. -/
theorem test_permb : v 0x0C308460 (gc 2 0x11223344 ∘ gc 4 0x0123) 3 0 = 0x44332211 := by decide +kernel
/-- 05 R157: BFX.i32 of the byte at 8 of 0x8A00. -/
theorem test_bfx : v 0x0C308450 (gc 2 0x8A00 ∘ gc 4 0x0808) 3 0 = 0xFFFFFF8A := by decide +kernel
/-- 05 R159: MULHI.i32 of -1 and 2. -/
theorem test_mulhi : v 0x10308408 (gc 2 0xFFFFFFFF ∘ gc 4 2) 3 0 = 0xFFFFFFFF := by decide +kernel
/-- 05 R160: DIV.i32 of -2^31 by -1, and by 0. -/
theorem test_div : v 0x10308430 (gc 2 0x80000000 ∘ gc 4 0xFFFFFFFF) 3 0 = 0x80000000 ∧ v 0x10308430 (gc 2 7) 3 0 = 0xFFFFFFFF := by decide +kernel
/-- 05 R160: a division by 0 sets DZ. -/
theorem test_div_sets_dz : (groupOf (out 0x10308430 (gc 2 7))).map (fun g => g.ctl.dz) = some true := by decide +kernel
/-- 05 R161, 13 R380: DIV.i32.tz by 0 traps its lane alone. -/
theorem test_div_tz : (teamOf (out 0x10308450 (gc 2 7 ∘ gv 4 (fun l => l)))).map (fun t => t.traps.map (fun e => (e.lane, e.code, e.operand))) =
    some [(0, 2, 7)] ∧ v 0x10308450 (gc 2 7 ∘ gv 4 (fun l => l)) 3 2 = 3 := by decide +kernel
/-- 05 R162: CMP.lt.i32 p1, v4, v5 (N23) compares signed. -/
theorem test_cmp : pOf 0x149020A0 (gv 4 (fun l => if l = 3 then 0xFFFFFFFF else 1)) 1 = 0x8 := by decide +kernel
/-- 02 R59: a compare into p0 is discarded. -/
theorem test_cmp_p0 : pOf 0x141020A0 (gc 4 0) 0 = 0xFFFFFFFF := by decide +kernel
/-- 05 R163: FCMP.un holds where an operand is NaN. -/
theorem test_fcmp_un : pOf 0x18B020A0 (gv 4 (fun l => if l = 0 then 0x7FC00000 else 0)) 1 = 0x1 := by decide +kernel
/-- 05 R165: SEL on p1. -/
theorem test_sel : v 0x1C308448 (gc 2 7 ∘ gc 4 9 ∘ fun g => g.setP 1 0xFFFFFFFF 0x4) 3 2 = 7 ∧
    v 0x1C308448 (gc 2 7 ∘ gc 4 9 ∘ fun g => g.setP 1 0xFFFFFFFF 0x4) 3 3 = 9 := by decide +kernel
/-- 05 R166: FADD.f32 of 1.5 and 2.25 is 3.75. -/
theorem test_fadd : v 0x20308400 (gc 2 0x3FC00000 ∘ gc 4 0x40100000) 3 0 = 0x40700000 := by decide +kernel
/-- 05 R166: FMUL.f64 of 1.5 and -2.0 is -3.0. -/
theorem test_fmul_f64 : v 0x20608448 (gc 3 0x3FF80000 ∘ gc 5 0xC0000000) 7 0 = 0xC0080000 := by decide +kernel
/-- 05 R166, 03 R91: FMAD.f32 v0, v0, v3, v2 (N57, N58): 2.0 times 3.0 plus 1.0. -/
theorem test_fmad : v 0x24000360 (gc 0 0x40000000 ∘ gc 3 0x40400000 ∘ gc 2 0x3F800000 ∘
    fun g => g.modSlices 0xFF (fun _ sl => { sl with hints := [(4, 2)], bundle := some 0 })) 0 0 = 0x40E00000 := by decide +kernel
/-- 03 R92: FMAD without HREG halts its team with ILLOP. -/
theorem test_fmad_alone : haltOf 0x24000360 id = some 0x10 := by decide +kernel
/-- 04 R141, its example: CVT.e4m3.f32 of 500.0, -1000.0, 0.1 and NaN. -/
theorem test_cvt_e4m3 : v 0x2D421040 (gc 8 0x43FA0000 ∘ gc 9 0xC47A0000 ∘ gc 10 0x3DCCCCCD ∘ gc 11 0x7FC00000) 20 0 = 0x7F1DFE7E := by decide +kernel
/-- 04 R144, its example: QBLK.e4m3 v20, v8, 32 of 3.0, 0.1, -1.0 and 0.0 in quarter 0, and zeros in quarter 1. -/
theorem test_qblk : v 0x31421200 (fun g => gc 11 0 (gv 10 (fun l => if l < 8 then 0xBF800000 else 0)
      (gv 9 (fun l => if l < 8 then 0x3DCCCCCD else 0) (gv 8 (fun l => if l < 8 then 0x40400000 else 0) g)))) 20 0 = 0x00F0557C := by decide +kernel
/-- 04 R144: the scale word of an all-zero block. -/
theorem test_qblk_zero : v 0x31421200 id 21 8 = 0x17F := by decide +kernel
/-- 04 R145, its example: DQBLK.e4m3 v8, v20, 32 gives 0.1015625. -/
theorem test_dqblk : v 0x30851208 (gc 20 0x00F0557C ∘ gc 21 0x78) 9 0 = 0x3DD00000 := by decide +kernel
/-- 05 R172: SHFL.up by 1 leaves lane 0 its own value. -/
theorem test_shfl_up : v 0x34308108 (gv 2 (fun l => 100 + l)) 3 0 = 100 ∧ v 0x34308108 (gv 2 (fun l => 100 + l)) 3 9 = 108 := by decide +kernel
/-- 05 R173: MATCH of the lanes' parities. -/
theorem test_match : v 0x34308030 (gv 2 (fun l => l % 2)) 3 5 = 0xAAAAAAAA := by decide +kernel
/-- 05 R175: RED.add.i32 of the lane numbers is 496; SCAN.add.i32 at lane 4 is 10. -/
theorem test_red_scan : v 0x34308040 (gv 2 (fun l => l)) 3 0 = 496 ∧ v 0x34308080 (gv 2 (fun l => l)) 3 4 = 10 := by decide +kernel
/-- 05 R174: MOVSR v0, lane (N08). -/
theorem test_movsr : v 0x34000038 id 0 17 = 17 := by decide +kernel
/-- 05 R176: MOVHI v3, 0x3F80 (N55) with its HIMM of 0x3F. -/
theorem test_movhi : v 0x38301400 (fun g => g.modSlices 0xFF (fun _ sl => { sl with hints := [(0, 0x3F)], bundle := some 0 })) 3 0 =
    0x3F800000 := by decide +kernel
/-- 05 R177: MOVX v8, [x0 + 3] reads line 3 + x0. -/
theorem test_movx : v 0x38801818 (gc 5 77 ∘ fun g => g.setX 0 0xFFFFFFFF (fun _ => 2)) 8 4 = 77 := by decide +kernel
/-- 05 R177: MOVX below line 0 traps with REGIDX and the index. -/
theorem test_movx_traps : (teamOf (out 0x38801818 (fun g => g.setX 0 0x1 (fun _ => 0xFFFC)))).map
    (fun t => t.traps.map (fun e => (e.lane, e.code, e.operand))) = some [(0, 1, 0xFFFFFFFF)] := by decide +kernel
/-- 05 R179: SMUL wraps at 64 bits; SCMP.le.n64. -/
theorem test_scalar : sOf 0x3C620810 (gs 2 0x8000000000000001 ∘ gs 1 2) 3 = 2 ∧ sOf 0x3C6208D8 (gs 2 5 ∘ gs 1 5) 3 = 1 := by decide +kernel
/-- 05 R183, its example: SFINDB v8, v4, v2 in "GATTACA" for 0x41. -/
theorem test_sfindb : v 0x44810218 (gc 4 0x54544147 ∘ gc 5 0x00414341 ∘ gc 2 0x41) 8 0 = 0x00520001 := by decide +kernel
/-- 05 R181: SLD of 2 bytes from offset 3 of a span. -/
theorem test_sld : v 0x44420A00 (gc 8 0x44332211 ∘ gc 9 0x88776655 ∘ gc 10 0x0203) 4 0 = 0x5544 := by decide +kernel
/-- 05 R182: SCMP of two strings that differ at byte 1. -/
theorem test_scmp : v 0x44310810 (gc 4 0x0100 ∘ gc 8 0x0200) 3 0 = 0xC0000001 := by decide +kernel
/-- 05 R187, its example: RHASH of 1 and 0x41. -/
theorem test_rhash : v 0x48200110 (gc 0 1 ∘ gc 1 0x41) 2 0 = 48337 := by decide +kernel
/-- 05 R186: HMIX of 0 is 0. -/
theorem test_hmix : v 0x48208008 (gc 2 1) 2 0 ≠ 0 ∧ v 0x48208008 id 2 0 = 0 := by decide +kernel
/-- 05 R188: PBIN of 2^31 and 10 is bin 5. -/
theorem test_pbin : v 0x48308418 (gc 2 0x80000000 ∘ gc 4 10) 3 0 = 5 := by decide +kernel
/-- 05 R185: HCRC of four zero bytes from all ones: the complement of the CRC-32C of four zero bytes, 0x48674BC7. -/
theorem test_hcrc : v 0x48308400 (gc 2 0xFFFFFFFF) 3 0 = 0xB798B438 := by decide +kernel

/-- 05 R190: BEZ s1 taken, and not. -/
theorem test_bez : pcOf 0x60040005 id 0 = 20 ∧ pcOf 0x60040005 (gs 1 1) 0 = 4 := by decide +kernel
/-- 03 R89: a branch out of the code section halts with ILLOP. -/
theorem test_branch_out : haltOf 0x60040010 id = some 0x10 := by decide +kernel
/-- 05 R191: LOOP s3 goes on once the scalar comes to 0. -/
theorem test_loop : pcOf 0x6C0C0004 (gs 3 2) 0 = 16 ∧ sOf 0x6C0C0004 (gs 3 2) 3 = 1 ∧ pcOf 0x6C0C0004 (gs 3 1) 0 = 4 := by decide +kernel
/-- 05 R192: CALL slides the window: budget 64 admits no base above 0. -/
theorem test_call_winovf : haltOf 0x65200004 id = some 0x14 := by decide +kernel
/-- 05 R195: BRP p2 divides a slice: its taken lanes go first. -/
theorem test_brp : pcOf 0x68200004 (fun g => g.setP 2 0xFFFFFFFF 0x3) 0 = 16 ∧
    (groupOf (out 0x68200004 (fun g => g.setP 2 0xFFFFFFFF 0x3))).map (fun g => ((g.slice 0).active, (g.slice 0).stack.map (fun e => (e.full, e.pend)))) =
      some (0x3, [(0xF, 0xC)]) ∧ pcOf 0x68200004 (fun g => g.setP 2 0xFFFFFFFF 0x3) 1 = 4 := by decide +kernel
/-- 05 R193: TRAP raises its code as the operand in every active lane. -/
theorem test_trap : (teamOf (out 0x6603BEEF id)).map (fun t => (t.traps.length, t.traps.map (fun e => e.operand) |>.head?)) =
    some (32, some 0xBEEF) := by decide +kernel
/-- 05 R194: EXIT of the last group ends the team. -/
theorem test_exit : (teamOf (out 0x66020000 id)).map (fun t => t.ended) = some true := by decide +kernel

/-- 08 R257: an LD through an invalid base halts with BASEFLT. -/
theorem test_ld_base : haltOf 0x80421A00 id = some 0x19 := by decide +kernel
/-- A readable and writable page at virtual address 0x10000 for b1. -/
def b1 (g : Group) : Group := { g with bases := g.bases.set 1 {
  valid := true, space := .virtual, vbase := 0x10000, frame := 1, limit := 65536, perm := { r := true, w := true, x := false, u := true }, leaf := (0, 0), more := [] } }
/-- The state after a word. -/
def after (w : Word) (prep : Group → Group) : State := stateOf (out w prep) State.reset

/-- 07 R251, 08 R262: LD.b32 v4, [b1 + v3 + vals] (N18) enters one operation of 32 lanes and one request to its tile. -/
theorem test_ld_enters : ((after 0x80421A00 (b1 ∘ gv 3 (fun l => 4 * l))).ops.map (fun o => (o.width, o.dst, o.sel)),
    ((after 0x80421A00 (b1 ∘ gv 3 (fun l => 4 * l))).core 0).reqs.length) = ([(32, 4, 0xFFFFFFFF)], 1) := by decide +kernel
/-- 08 R257: a misaligned lane halts with ACCFLT. -/
theorem test_ld_misaligned : haltOf 0x80421A00 (b1 ∘ gv 3 (fun l => l)) = some 0x18 := by decide +kernel
/-- 08 R267: STS.b32 writes each lane's word at its offset. -/
theorem test_sts : (teamOf (out 0x8C302A00 (gv 5 (fun l => 4 * l) ∘ gv 3 (fun l => 7 + l)))).map (fun t => t.scratchNat 8 4) = some 9 := by
  decide +kernel
/-- 08 R267: an offset past the scratchpad halts with SPRANGE. -/
theorem test_sts_range : haltOf 0x8C302A00 (gc 5 1024) = some 0x1A := by decide +kernel
/-- 08 R267: LDS.b32 answers what the scratchpad holds. -/
theorem test_lds : (after 0x88302A00 (gv 5 (fun l => 4 * l))).ops.map (fun o => (o.dst, o.sel &&& ~~~o.served)) = [(3, 0)] := by decide +kernel
/-- 08 R269: ATOMS.ADD.n32 v3, [v1], v2 adds and answers the old value. -/
theorem test_atoms : (teamOf (out 0x94302400 (gv 1 (fun l => 4 * l) ∘ gc 2 3))).map (fun t => t.scratchNat 4 4) = some 3 ∧
    (after 0x94302400 (gv 1 (fun l => 4 * l) ∘ gc 2 3)).ops.map (fun o => o.vals.getD 1 9) = [0] := by decide +kernel
/-- 03 R110: the WAITC that waits for nothing goes on. -/
theorem test_waitc : pcOf 0xA0FFFFF8 id 0 = 4 := by decide +kernel
/-- 08 R277: BINIT bw2, s1 admits counts from 1 to 63. -/
theorem test_binit : (teamOf (out 0xA4202000 (gs 1 5))).map (fun t => t.barEvents) = some [(2, .binit 0 5)] ∧ haltOf 0xA4202000 (gs 1 64) = some 0x1B := by
  decide +kernel
/-- 08 R296: WRSYS of 0 to the rounding generator stores 1. -/
theorem test_wrsys_lfsr : (groupOf (out 0xF401200C (gs 1 0))).map (fun g => g.ctl.lfsr) = some 1 := by decide +kernel
/-- 08 R289: RDSYS of a number that is no register halts with ILLOP. -/
theorem test_rdsys_none : haltOf 0xF50000FF id = some 0x10 := by decide +kernel
/-- 08 R293: HALTX 0x123. -/
theorem test_haltx : (teamOf (out 0xF400A123 id)).map (fun t => (t.fr.code, t.fr.oper)) = some (0x1D, 0x123) := by decide +kernel
/-- The issue of ADD v3, v2, v4 whose source v2 holds an error in lane 5, as `State.runRead` has it. -/
def readErr (bad : Bool) : Out :=
  (ready 0x00308400 (fun g => { g with lineErrs := [{ line := 2, lane := 5, bad := bad }, { line := 3, lane := 5, bad := true }] })).runRead 0x00308400
/-- 02 R66: a single-bit error of a source is corrected and counted, and the destination's error goes as it is written. -/
theorem test_line_corrected : (groupOf (readErr false)).map (fun g => (g.lineErrs, (g.slice 0).pc)) = some ([], 4) ∧
    ((stateOf (readErr false) State.reset).core 0).regs.eccFix = 1 := by decide +kernel
/-- 02 R66, 13 R376: an uncorrectable one halts the team with LINEUE and the line's number. -/
theorem test_line_ue : (teamOf (readErr true)).map (fun t => (t.fr.code, t.fr.oper)) = some (0x16, 2) := by decide +kernel
/-- The turn of a group of a team that halted in cycle 0: its skid, its stop PC and the PC of its slices. -/
def skidAt (cycle : Nat) : Option (Nat × Word × Word) :=
  match step ((({ State.reset.withFetchWord 32 0x00308400 with cycle := cycle } : State)).modTeam 1 (fun u => { u with fr := { u.fr with halted := true } })) with
  | .next t => (t.group? ⟨1, 0⟩).map (fun g => (g.flt.skid, g.flt.stopPc, (g.slice 7).pc))
  | _ => none
/-- 13 R389, R390: a group may issue in the twelfth cycle after its team's halt, and not in the thirteenth. -/
theorem test_skid : skidAt 12 = some (1, 4, 4) ∧ skidAt 13 = some (0, 0, 0) := by decide +kernel
/-- 08 R281: CPY of a card that is not aligned to 64 bytes halts. -/
theorem test_cpy_misaligned : haltOf 0xAC200000 (gs 1 1) = some 0x18 := by decide +kernel
/-- 08 R287: EMIT of a record of length 0 halts with LNCHARG. -/
theorem test_emit_length : haltOf 0xB0220000 (gs 1 8) = some 0x1C := by decide +kernel
/-- 06 R204: ACCZ ac3 waits in its core's queue. -/
theorem test_accz_queued : ((after 0xD0003000 id).core 0).mx.map (fun e => e.instr) = [.accz 3] := by decide +kernel
/-- 06 R231: MATRIX_WORD_COMPLETE performs it: the slot is zeros. -/
theorem test_accz_performed : (groupOf (exec (.matrixWordComplete 0) (after 0xD0003000 id))).map (fun g => (g.acc.getD 3 []).take 2) = some [0, 0] := by
  decide +kernel
/-- 17 R465: SNPUT enters its engine with one result. -/
theorem test_snput : (after 0xF0304200 id).ops.map (fun o => (o.width, o.dst, o.sel)) = [(64, 3, 1)] := by decide +kernel
/-- 03 R90: a hint word leaves its payload for the word it serves. -/
theorem test_hoff : (groupOf (out 0xFC400005 id)).map (fun g => ((g.slice 0).hints, (g.slice 0).pc, (g.slice 0).bundle)) =
    some ([(1, 5)], 4, some 0) := by decide +kernel
/-- 03 R115: a word of an unallocated major halts with ILLOP. -/
theorem test_unallocated : haltOf 0x4C000000 id = some 0x10 := by decide +kernel
/-- 08 R278: a FENCE with nothing outstanding leaves none under way. -/
theorem test_fence : (groupOf (out 0xA8005000 id)).map (fun g => ((g.slice 0).pc, g.ctl.fence)) = some (4, none) := by decide +kernel
/-- 08 R258: BSET b2, s1 of a top byte below 0x80 that is not 0 leaves the base invalid. -/
theorem test_bset_invalid : (groupOf (out 0x9C410000 (gs 1 0x0100000000000000))).map (fun g => g.bases[2]?.map (fun b => b.valid)) =
    some (some false) := by decide +kernel
/-- Log 4: the step of a placed word fetches and runs it. -/
theorem test_step_runs : (teamOf (step (State.reset.withFetchWord 32 0x00308400))).map (fun t => (t.fr.halted, t.groups.map (fun g => (g.slice 0).pc))) =
    some (false, [4]) := by decide +kernel
/-! ## Witnesses: for each statement with hypotheses, states and operands that meet all of them together -/

/-- A word may issue in a state, in a context with a property. -/
def okIssue (s : State) (i : Instr) (p : Cx → Bool) : Bool :=
  match cxOf s with
  | some c => (precheck s c i).isNone && p c
  | none => false

theorem okIssue_spec {s : State} {i : Instr} {p : Cx → Bool} (h : okIssue s i p = true) : ∃ c, Issues s c i ∧ p c = true := by
  simp only [okIssue] at h
  split at h
  · rename_i c hc
    simp at h
    exact ⟨c, ⟨hc, h.1⟩, h.2⟩
  · simp at h

/-- A word that may issue in some context. -/
theorem issues_of {s : State} {i : Instr} (h : okIssue s i (fun _ => true) = true) : ∃ c, Issues s c i :=
  let ⟨c, a, _⟩ := okIssue_spec h
  ⟨c, a⟩

theorem witness_lane_word : ∃ s c i d p f, LaneWord c i d p f ∧ Issues s c i :=
  let ⟨c, h⟩ := issues_of (s := ready 0x00308400 id) (i := .add 3 2 4 0) (by decide +kernel)
  ⟨_, c, _, _, _, _, .add .., h⟩

theorem witness_pair_word : ∃ s c i d p f, PairWord c i d p f ∧ Issues s c i :=
  let ⟨c, h⟩ := issues_of (s := ready 0x08208448 id) (i := .iopw 2 2 4 9 0) (by decide +kernel)
  ⟨_, c, _, _, _, _, .iopw _ _ _ _ _ _ .andn, h⟩

theorem witness_run_word : ∃ s c i d k p f, RunWord c i d k p f ∧ Issues s c i :=
  let ⟨c, h⟩ := issues_of (s := ready 0x44420A00 id) (i := .sld 4 8 10 0) (by decide +kernel)
  ⟨_, c, _, _, _, _, _, .sld .., h⟩

theorem witness_float_word : ∃ s c i t d p srcs op, FloatWord c i t d p srcs op ∧ Issues s c i :=
  let ⟨c, h⟩ := issues_of (s := ready 0x20308400 id) (i := .fadd 3 2 4 0 0) (by decide +kernel)
  ⟨_, c, _, _, _, _, _, _, .fadd .., h⟩

theorem witness_draw_word : ∃ s c i d k p f r, DrawWord c i d k p f r ∧ Issues s c i :=
  let ⟨c, h⟩ := issues_of (s := ready 0x34308040 id) (i := .red 3 2 0 0) (by decide +kernel)
  ⟨_, c, _, _, _, _, _, _, .red _ _ _ _ _ rfl, h⟩

theorem witness_scalar_word : ∃ s c i n x, ScalarWord c i n x ∧ Issues s c i :=
  let ⟨c, h⟩ := issues_of (s := ready 0x3C620800 id) (i := .sadd 3 2 1) (by decide +kernel)
  ⟨_, c, _, _, _, .sadd .., h⟩

theorem witness_scalar_conversion : ∃ s c d a t rs, Issues s c (.cvts d a t rs) :=
  let ⟨c, h⟩ := issues_of (s := ready 0 id) (i := .cvts 3 2 0 13) (by decide +kernel)
  ⟨_, c, _, _, _, _, h⟩

theorem witness_predicate_word : ∃ s c i n p bits, PredWord c i n p bits ∧ Issues s c i :=
  let ⟨c, h⟩ := issues_of (s := ready 0x149020A0 id) (i := .cmp 1 2 0 4 5 0 0) (by decide +kernel)
  ⟨_, c, _, _, _, _, .cmp .., h⟩

theorem witness_index_words : (∃ s c x a k p, Issues s c (.xset x a k p)) ∧ ∃ s c x k p, Issues s c (.xadd x k p) :=
  let ⟨c, h⟩ := issues_of (s := ready 0x38A00000 id) (i := .xset 2 9 0xFF 0) (by decide +kernel)
  let ⟨e, k⟩ := issues_of (s := ready 0x38A00000 id) (i := .xadd 2 0x7F 0) (by decide +kernel)
  ⟨⟨_, c, _, _, _, _, h⟩, ⟨_, e, _, _, _, k⟩⟩

theorem witness_divide_word : ∃ s c i d b p f, DivideWord c i d b p f ∧ Issues s c i :=
  let ⟨c, h⟩ := issues_of (s := ready 0x10308430 id) (i := .divI32 3 2 4 0) (by decide +kernel)
  ⟨_, c, _, _, _, _, _, .divI32 .., h⟩

/-- Every selected lane has a property. -/
def allLanes (m : Lanes) (p : Nat → Bool) : Bool := (List.range 32).all (fun l => !m.getLsbD l || p l)

theorem allLanes_spec {m : Lanes} {p : Nat → Bool} (h : allLanes m p = true) (l : Nat) (hl : l < 32) (hm : m.getLsbD l = true) : p l = true := by
  simp only [allLanes, List.all_eq_true, List.mem_range] at h
  have := h l hl
  simpa [hm] using this

theorem witness_no_lane_traps_divide : ∃ s c i d a b p f, DivideTrap c i d a b p f ∧ Issues s c i ∧
    ∀ l, l < 32 → (c.sel p.toNat).getLsbD l = true → reg c b l ≠ 0 :=
  let ⟨c, h, p⟩ := okIssue_spec (s := ready 0x10308450 (gc 4 1)) (i := .divI32Tz 3 2 4 0)
    (p := fun c => allLanes (c.sel 0) (fun l => reg c 4 l != 0)) (by decide +kernel)
  ⟨_, c, _, _, _, _, _, _, .divI32Tz .., h, fun l hl hm => by simpa using allLanes_spec p l hl hm⟩

theorem witness_no_lane_traps_movx : ∃ s c d x k p, Issues s c (.movx d x k p) ∧
    ∀ l, l < 32 → (c.sel p.toNat).getLsbD l = true → 0 ≤ indexed c x k l ∧ indexed c x k l < c.grp.budget :=
  let ⟨c, h, p⟩ := okIssue_spec (s := ready 0x38801818 (fun g => g.setX 0 0xFFFFFFFF (fun _ => 60))) (i := .movx 8 0 3 0)
    (p := fun c => allLanes (c.sel 0) (fun l => decide (0 ≤ indexed c 0 3 l ∧ indexed c 0 3 l < c.grp.budget))) (by decide +kernel)
  ⟨_, c, _, _, _, _, h, fun l hl hm => by simpa using allLanes_spec p l hl hm⟩

theorem witness_no_lane_traps_movxw : ∃ s c x a k p, Issues s c (.movxw x a k p) ∧
    ∀ l, l < 32 → (c.sel p.toNat).getLsbD l = true → 0 ≤ indexed c x k l ∧ indexed c x k l < c.grp.budget :=
  let ⟨c, h, p⟩ := okIssue_spec (s := ready 0x38801818 id) (i := .movxw 0 8 3 0)
    (p := fun c => allLanes (c.sel 0) (fun l => decide (0 ≤ indexed c 0 3 l ∧ indexed c 0 3 l < c.grp.budget))) (by decide +kernel)
  ⟨_, c, _, _, _, _, h, fun l hl hm => by simpa using allLanes_spec p l hl hm⟩

theorem witness_trapping_lanes : ∃ s c i bad code oper dest, TrapWord c i bad code oper dest ∧ Issues s c i ∧ bad ≠ 0 ∧
    c.grp.role ≠ .handler ∧ c.stuffed = none ∧ c.team.fr.halted = false :=
  let ⟨c, h, p⟩ := okIssue_spec (s := ready 0x6603BEEF id) (i := .trapW 0xBEEF)
    (p := fun c => decide (c.act ≠ 0 ∧ c.grp.role ≠ .handler ∧ c.stuffed = none ∧ c.team.fr.halted = false)) (by decide +kernel)
  have q := of_decide_eq_true p
  ⟨_, c, _, _, _, _, _, .trap _, h, q.1, q.2.1, q.2.2.1, q.2.2.2⟩

theorem witness_trap : ∃ s c code, Issues s c (.trapW code) ∧ c.act ≠ 0 ∧ c.grp.role ≠ .handler ∧ c.stuffed = none ∧ c.team.fr.halted = false :=
  let ⟨c, h, p⟩ := okIssue_spec (s := ready 0x6603BEEF id) (i := .trapW 0xBEEF)
    (p := fun c => decide (c.act ≠ 0 ∧ c.grp.role ≠ .handler ∧ c.stuffed = none ∧ c.team.fr.halted = false)) (by decide +kernel)
  ⟨_, c, _, h, of_decide_eq_true p⟩

/-- A state whose team 1 has halted in cycle 0. -/
def halting (s : State) : State := s.modTeam 1 (fun u => { u with fr := { u.fr with halted := true } })

theorem witness_trapping_lanes_halted : ∃ s c i bad code oper dest, TrapWord c i bad code oper dest ∧ Issues s c i ∧ bad ≠ 0 ∧
    c.grp.role ≠ .handler ∧ c.stuffed = none ∧ c.team.fr.halted = true :=
  let ⟨c, h, p⟩ := okIssue_spec (s := halting (ready 0x6603BEEF id)) (i := .trapW 0xBEEF)
    (p := fun c => decide (c.act ≠ 0 ∧ c.grp.role ≠ .handler ∧ c.stuffed = none ∧ c.team.fr.halted = true)) (by decide +kernel)
  have q := of_decide_eq_true p
  ⟨_, c, _, _, _, _, _, .trap _, h, q.1, q.2.1, q.2.2.1, q.2.2.2⟩

theorem lanesAre_where (p : Nat → Bool) : LanesAre (lanesWhere p) (fun l => p l = true) := by
  intro l hl
  rw [getLsbD_lanesWhere p hl]

theorem witness_dividing_by_zero_traps : ∃ s c i bad code oper dest, TrapWord c i bad code oper dest ∧ Issues s c i ∧ bad ≠ 0 ∧
    c.grp.role ≠ .handler ∧ c.stuffed = none :=
  let ⟨c, h, p⟩ := okIssue_spec (s := ready 0x10308450 id) (i := .divI32Tz 3 2 4 0)
    (p := fun c => decide (lanesWhere (fun l => (c.sel 0).getLsbD l && reg c 4 l == 0) ≠ 0 ∧ c.grp.role ≠ .handler ∧ c.stuffed = none)) (by decide +kernel)
  have q := of_decide_eq_true p
  ⟨_, c, _, _, _, _, _, .divide _ _ _ _ _ _ _ (.divI32Tz 3 2 4 0) (fun l hl => by
    rw [getLsbD_lanesWhere _ hl]; simp), h, q.1, q.2.1, q.2.2⟩

theorem witness_trap_in_handler : ∃ s c i bad code oper dest, TrapWord c i bad code oper dest ∧ Issues s c i ∧ bad ≠ 0 ∧
    c.grp.role = .handler ∧ c.stuffed = none ∧ c.team.fr.halted = false :=
  let ⟨c, h, p⟩ := okIssue_spec (s := ready 0x6603BEEF (fun g => { g with role := .handler })) (i := .trapW 0xBEEF)
    (p := fun c => decide (c.act ≠ 0 ∧ c.grp.role = .handler ∧ c.stuffed = none ∧ c.team.fr.halted = false)) (by decide +kernel)
  have q := of_decide_eq_true p
  ⟨_, c, _, _, _, _, _, .trap _, h, q.1, q.2⟩
/-- A word that may issue in a context with a decidable property. -/
theorem okP {s : State} {i : Instr} {P : Cx → Prop} [DecidablePred P] (h : okIssue s i (fun c => decide (P c)) = true) :
    ∃ c, Issues s c i ∧ P c :=
  let ⟨c, a, b⟩ := okIssue_spec h
  ⟨c, a, of_decide_eq_true b⟩

theorem witness_branch_not_taken : ∃ s c i o, BranchWord c i o false ∧ Issues s c i :=
  let ⟨c, h, q⟩ := okP (s := ready 0x60040005 (gs 1 1)) (i := .bez 1 5) (P := fun c => decide ((sc c (1#5)).toInt = 0) = false) (by decide +kernel)
  ⟨_, c, _, _, (q ▸ BranchWord.bez 1 5 : BranchWord c _ 5 false), h⟩

/-- Taken to the last word of the code section. -/
theorem witness_branch_taken : ∃ s c i o, BranchWord c i o true ∧ Issues s c i ∧ InCode c (label c o) :=
  let ⟨c, h, q⟩ := okP (s := ready 0x60040005 id) (i := .bez 1 15) (P := fun c => decide ((sc c (1#5)).toInt = 0) = true ∧
    (0 ≤ label c (15#18) ∧ label c (15#18) % 4 = 0 ∧ label c (15#18) + 4 ≤ c.team.shape.codeLen)) (by decide +kernel)
  ⟨_, c, _, _, (q.1 ▸ BranchWord.bez 1 15 : BranchWord c _ 15 true), h, q.2⟩

/-- Taken to the address behind it. -/
theorem witness_branch_out : ∃ s c i o, BranchWord c i o true ∧ Issues s c i ∧ ¬ InCode c (label c o) ∧ c.stuffed = none ∧ c.team.fr.halted = false :=
  let ⟨c, h, q⟩ := okP (s := ready 0x60040005 id) (i := .bez 1 16) (P := fun c => decide ((sc c (1#5)).toInt = 0) = true ∧
    ¬ (0 ≤ label c (16#18) ∧ label c (16#18) % 4 = 0 ∧ label c (16#18) + 4 ≤ c.team.shape.codeLen) ∧ c.stuffed = none ∧ c.team.fr.halted = false) (by decide +kernel)
  ⟨_, c, _, _, (q.1 ▸ BranchWord.bez 1 16 : BranchWord c _ 16 true), h, q.2⟩

theorem witness_loop : (∃ s c a o, Issues s c (.loopW a o) ∧ sc c a ≠ 1 ∧ InCode c (label c o)) ∧ ∃ s c a o, Issues s c (.loopW a o) ∧ sc c a = 1 :=
  let ⟨c, h⟩ := okP (s := ready 0x6C0C0004 id) (i := .loopW 3 4) (P := fun c => sc c (3#5) ≠ 1 ∧
    (0 ≤ label c (4#18) ∧ label c (4#18) % 4 = 0 ∧ label c (4#18) + 4 ≤ c.team.shape.codeLen)) (by decide +kernel)
  let ⟨d, k⟩ := okP (s := ready 0x6C0C0004 (gs 3 1)) (i := .loopW 3 4) (P := fun c => sc c (3#5) = 1) (by decide +kernel)
  ⟨⟨_, c, _, _, h⟩, ⟨_, d, _, _, k⟩⟩

theorem witness_jumps : (∃ s c o, Issues s c (.jmp o) ∧ InCode c (label c o)) ∧ (∃ s c a, Issues s c (.jmpi a) ∧ InCode c (sc c a).toNat) ∧
    (∃ s c k o, Issues s c (.callW k o) ∧ c.wholeGroup = true ∧ InCode c (label c o) ∧
      c.grp.ctl.base + 8 * k.toNat + 64 ≤ c.grp.lines.length ∧ c.grp.ctl.links.length < 32) ∧
    ∃ s c pc slide rest, Issues s c .ret ∧ c.wholeGroup = true ∧ c.grp.ctl.links = (pc, slide) :: rest ∧ InCode c pc.toNat :=
  let ⟨c, h⟩ := okP (s := ready 0x64000004 id) (i := .jmp 4) (P := fun c =>
    0 ≤ label c (4#20) ∧ label c (4#20) % 4 = 0 ∧ label c (4#20) + 4 ≤ c.team.shape.codeLen) (by decide +kernel)
  let ⟨d, k⟩ := okP (s := ready 0x66000001 (gs 1 60)) (i := .jmpi 1) (P := fun c =>
    0 ≤ ((sc c (1#5)).toNat : Int) ∧ ((sc c (1#5)).toNat : Int) % 4 = 0 ∧ ((sc c (1#5)).toNat : Int) + 4 ≤ c.team.shape.codeLen) (by decide +kernel)
  let ⟨e, m⟩ := okP (s := ready 0x65000004 id) (i := .callW 0 4) (P := fun c => c.wholeGroup = true ∧
    (0 ≤ label c (4#20) ∧ label c (4#20) % 4 = 0 ∧ label c (4#20) + 4 ≤ c.team.shape.codeLen) ∧
    c.grp.ctl.base + 8 * (0#4).toNat + 64 ≤ c.grp.lines.length ∧ c.grp.ctl.links.length < 32) (by decide +kernel)
  let ⟨f, n⟩ := okP (s := ready 0x66010000 (fun g => { g with ctl := { g.ctl with links := [(60, 0)] } })) (i := .ret) (P := fun c =>
    c.wholeGroup = true ∧ c.grp.ctl.links = [(60#32, 0)] ∧
    (0 ≤ ((60#32).toNat : Int) ∧ ((60#32).toNat : Int) % 4 = 0 ∧ ((60#32).toNat : Int) + 4 ≤ c.team.shape.codeLen)) (by decide +kernel)
  ⟨⟨_, c, _, h⟩, ⟨_, d, _, k⟩, ⟨_, e, _, _, m⟩, ⟨_, f, _, _, _, n⟩⟩

/-- The transfers that halt: past the section, of part of a group, past the allocation, past 32 returns, without a return. -/
theorem witness_jumps_that_halt : (∃ s c a, Issues s c (.jmpi a) ∧ ¬ InCode c (sc c a).toNat ∧ c.stuffed = none ∧ c.team.fr.halted = false) ∧
    (∃ s c k o, Issues s c (.callW k o) ∧ c.wholeGroup = false ∧ c.stuffed = none ∧ c.team.fr.halted = false) ∧
    (∃ s c k o, Issues s c (.callW k o) ∧ c.wholeGroup = true ∧ InCode c (label c o) ∧
      c.grp.lines.length < c.grp.ctl.base + 8 * k.toNat + 64 ∧ c.stuffed = none ∧ c.team.fr.halted = false) ∧
    (∃ s c k o, Issues s c (.callW k o) ∧ c.wholeGroup = true ∧ InCode c (label c o) ∧ 32 ≤ c.grp.ctl.links.length ∧ c.stuffed = none ∧
      c.team.fr.halted = false) ∧
    (∃ s c, Issues s c .ret ∧ c.wholeGroup = false ∧ c.stuffed = none ∧ c.team.fr.halted = false) ∧
    ∃ s c, Issues s c .ret ∧ c.grp.ctl.links = [] ∧ c.stuffed = none ∧ c.team.fr.halted = false :=
  let ⟨a, a1, a2⟩ := okP (s := ready 0x66000001 (gs 1 64)) (i := .jmpi 1) (P := fun c =>
    ¬ (0 ≤ ((sc c (1#5)).toNat : Int) ∧ ((sc c (1#5)).toNat : Int) % 4 = 0 ∧ ((sc c (1#5)).toNat : Int) + 4 ≤ c.team.shape.codeLen) ∧
    c.stuffed = none ∧ c.team.fr.halted = false) (by decide +kernel)
  let ⟨b, b1, b2⟩ := okP (s := (ready 0 id).issuing ⟨1, 0⟩ 0x7F 0 none) (i := .callW 0 4) (P := fun c => c.wholeGroup = false ∧
    c.stuffed = none ∧ c.team.fr.halted = false) (by decide +kernel)
  let ⟨d, d1, d2⟩ := okP (s := ready 0 id) (i := .callW 1 4) (P := fun c => c.wholeGroup = true ∧
    (0 ≤ label c (4#20) ∧ label c (4#20) % 4 = 0 ∧ label c (4#20) + 4 ≤ c.team.shape.codeLen) ∧
    c.grp.lines.length < c.grp.ctl.base + 8 * (1#4).toNat + 64 ∧ c.stuffed = none ∧ c.team.fr.halted = false) (by decide +kernel)
  let ⟨e, e1, e2⟩ := okP (s := ready 0 (fun g => { g with ctl := { g.ctl with links := List.replicate 32 (60, 0) } })) (i := .callW 0 4)
    (P := fun c => c.wholeGroup = true ∧
    (0 ≤ label c (4#20) ∧ label c (4#20) % 4 = 0 ∧ label c (4#20) + 4 ≤ c.team.shape.codeLen) ∧
    32 ≤ c.grp.ctl.links.length ∧ c.stuffed = none ∧ c.team.fr.halted = false) (by decide +kernel)
  let ⟨f, f1, f2⟩ := okP (s := (ready 0 id).issuing ⟨1, 0⟩ 0x7F 0 none) (i := .ret) (P := fun c => c.wholeGroup = false ∧
    c.stuffed = none ∧ c.team.fr.halted = false) (by decide +kernel)
  let ⟨h, h1, h2⟩ := okP (s := ready 0 id) (i := .ret) (P := fun c => c.grp.ctl.links = [] ∧ c.stuffed = none ∧ c.team.fr.halted = false)
    (by decide +kernel)
  ⟨⟨_, a, _, a1, a2⟩, ⟨_, b, _, _, b1, b2⟩, ⟨_, d, _, _, d1, d2⟩, ⟨_, e, _, _, e1, e2⟩, ⟨_, f, f1, f2⟩, ⟨_, h, h1, h2⟩⟩

/-- Every slice of a mask has a property. -/
def allSlices (m : BitVec 8) (p : Nat → Bool) : Bool := (List.range 8).all (fun k => !m.getLsbD k || p k)

theorem allSlices_spec {m : BitVec 8} {p : Nat → Bool} (h : allSlices m p = true) (k : Nat) (hk : k < 8) (hm : m.getLsbD k = true) : p k = true := by
  simp only [allSlices, List.all_eq_true, List.mem_range] at h
  have := h k hk
  simpa [hm] using this

theorem witness_brp : ∃ s c p o, Issues s c (.brp p o) ∧ c.stuffed = none ∧
    (∀ k, k < 8 → c.slices.getLsbD k = true → (c.grp.slice k).stack.length < 8) ∧ InCode c (label c o) :=
  let ⟨c, h⟩ := okP (s := ready 0x68200004 (fun g => g.setP 2 0xFFFFFFFF 0x3)) (i := .brp 2 4) (P := fun c => c.stuffed = none ∧
    allSlices c.slices (fun k => (c.grp.slice k).stack.length < 8) = true ∧
    (0 ≤ label c (4#18) ∧ label c (4#18) % 4 = 0 ∧ label c (4#18) + 4 ≤ c.team.shape.codeLen)) (by decide +kernel)
  ⟨_, c, _, _, h.1, h.2.1, fun k hk hm => by simpa using allSlices_spec h.2.2.1 k hk hm, h.2.2.2⟩

/-- A slice whose mask stack is full. -/
theorem witness_brp_full : ∃ s c p o, Issues s c (.brp p o) ∧ c.stuffed = none ∧
    (∃ k, k < 8 ∧ c.slices.getLsbD k = true ∧ 8 ≤ (c.grp.slice k).stack.length) ∧ c.team.fr.halted = false :=
  let ⟨c, h⟩ := okP (s := ready 0 (fun g => g.modSlices 0x80 (fun _ sl => { sl with
      stack := List.replicate 8 { full := 0xF, pend := 0, pendPc := 4, resumePc := 4 } }))) (i := .brp 2 4) (P := fun c => c.stuffed = none ∧
    (c.slices.getLsbD 7 = true ∧ 8 ≤ (c.grp.slice 7).stack.length) ∧ c.team.fr.halted = false) (by decide +kernel)
  ⟨_, c, _, _, h.1, h.2.1, ⟨7, by decide, h.2.2.1⟩, h.2.2.2⟩

theorem witness_reconvergence : (∃ s c o, Issues s c (.regang o) ∧ c.grp.ctl.joins.length < 4) ∧ ∃ s c, Issues s c .rcv ∧ c.stuffed = none :=
  let ⟨c, h⟩ := okP (s := ready 0x68800003 (fun g => { g with ctl := { g.ctl with joins := List.replicate 3 (0, []) } })) (i := .regang 3)
    (P := fun c => c.grp.ctl.joins.length < 4) (by decide +kernel)
  let ⟨d, k⟩ := okP (s := ready 0x69000000 id) (i := .rcv) (P := fun c => c.stuffed = none) (by decide +kernel)
  ⟨⟨_, c, _, h⟩, ⟨_, d, k⟩⟩

/-- The lanes' places of a memory word. -/
def placed (s : State) (c : Cx) (m : MemWord) : Option (State × List (Nat × Loc)) :=
  match s.placeLanes c m with
  | (s1, .ok locs) => some (s1, locs)
  | _ => none

theorem placed_spec {s : State} {c : Cx} {m : MemWord} {f : State × List (Nat × Loc) → Bool} (h : (placed s c m).any f = true) :
    ∃ s1 locs, s.placeLanes c m = (s1, .ok locs) ∧ f (s1, locs) = true := by
  unfold placed at h
  generalize hx : s.placeLanes c m = x at h
  obtain ⟨s1, r⟩ := x
  cases r <;> first | exact ⟨_, _, rfl, h⟩ | simp at h

/-- Whether a place is in the machine's own memory. -/
def isPhys : Loc → Bool
  | .phys _ _ => true
  | _ => false

theorem isPhys_spec {x : Loc} (h : isPhys x = true) : ∃ pa leaf, x = .phys pa leaf := by
  cases x <;> simp_all [isPhys]

/-- No group has a fence under way, as a test. -/
def noFence (s : State) : Bool := s.teams.all (fun t => t.allGroups.all (fun g => g.ctl.fence.isNone))

theorem noFence_spec {s : State} (h : noFence s = true) : NoFence s := by
  intro t ht g hg
  simp only [noFence, List.all_eq_true] at h
  simpa using h t ht g hg

/-- LD of 32 lanes, and of none. -/
theorem witness_memory_word : ∃ s c i m s1 locs g1, MemoryWord c i m ∧ Issues s c i ∧ m.held s c = false ∧ m.fault c = none ∧
    s.placeLanes c m = (s1, .ok locs) ∧ s1.group? c.ref = some g1 ∧ m.sel ≠ 0 ∧ NoFence s1 ∧ ∀ x ∈ locs, ∃ pa leaf, x.2 = .phys pa leaf :=
  let ⟨c, h, q⟩ := okP (s := ready 0x80421A00 (b1 ∘ gv 3 (fun l => 4 * l))) (i := .ld 4 1 3 2 0 0) (P := fun c =>
    (lsWord c .load 1 4 1 3 2 0 0 0 ((0#1) == 1)).held (ready 0x80421A00 (b1 ∘ gv 3 (fun l => 4 * l))) c = false ∧
    (lsWord c .load 1 4 1 3 2 0 0 0 ((0#1) == 1)).fault c = none ∧ (lsWord c .load 1 4 1 3 2 0 0 0 ((0#1) == 1)).sel ≠ 0 ∧
    (placed (ready 0x80421A00 (b1 ∘ gv 3 (fun l => 4 * l))) c (lsWord c .load 1 4 1 3 2 0 0 0 ((0#1) == 1))).any (fun x =>
      (x.1.group? c.ref).isSome && noFence x.1 && x.2.all (fun y => isPhys y.2)) = true) (by decide +kernel)
  let ⟨s1, locs, hp, hf⟩ := placed_spec q.2.2.2
  have k : ((s1.group? c.ref).isSome = true ∧ noFence s1 = true) ∧ ∀ y ∈ locs, isPhys y.2 = true := by simpa using hf
  let ⟨g1, hg⟩ := Option.isSome_iff_exists.mp k.1.1
  ⟨_, c, _, _, s1, locs, g1, .ld .., h, q.1, q.2.1, hp, hg, q.2.2.1, noFence_spec k.1.2, fun x hx => isPhys_spec (k.2 x hx)⟩

theorem witness_memory_word_of_no_lane : ∃ s c i m s1 locs g1, MemoryWord c i m ∧ Issues s c i ∧ m.held s c = false ∧ m.fault c = none ∧
    s.placeLanes c m = (s1, .ok locs) ∧ s1.group? c.ref = some g1 ∧ m.sel = 0 :=
  let ⟨c, h, q⟩ := okP (s := ready 0x80421A01 b1) (i := .ld 4 1 3 2 0 1) (P := fun c =>
    (lsWord c .load 1 4 1 3 2 1 0 0 ((0#1) == 1)).held (ready 0x80421A01 b1) c = false ∧
    (lsWord c .load 1 4 1 3 2 1 0 0 ((0#1) == 1)).fault c = none ∧ (lsWord c .load 1 4 1 3 2 1 0 0 ((0#1) == 1)).sel = 0 ∧
    (placed (ready 0x80421A01 b1) c (lsWord c .load 1 4 1 3 2 1 0 0 ((0#1) == 1))).any (fun x => (x.1.group? c.ref).isSome) = true) (by decide +kernel)
  let ⟨s1, locs, hp, hf⟩ := placed_spec q.2.2.2
  let ⟨g1, hg⟩ := Option.isSome_iff_exists.mp hf
  ⟨_, c, _, _, s1, locs, g1, .ld .., h, q.1, q.2.1, hp, hg, q.2.2.1⟩

theorem witness_memory_base_fault : ∃ s c i m, MemoryWord c i m ∧ Issues s c i ∧ m.held s c = false ∧ m.checked ≠ 0 ∧ c.stuffed = none ∧
    c.team.fr.halted = false ∧ ((c.bn m.base).valid = false ∨ (c.bn m.base).space ≠ .virtual) :=
  let ⟨c, h, q⟩ := okP (s := ready 0x80421A00 id) (i := .ld 4 1 3 2 0 0) (P := fun c =>
    (lsWord c .load 1 4 1 3 2 0 0 0 ((0#1) == 1)).held (ready 0x80421A00 id) c = false ∧
    (lsWord c .load 1 4 1 3 2 0 0 0 ((0#1) == 1)).checked ≠ 0 ∧ c.stuffed = none ∧ c.team.fr.halted = false ∧
    ((c.bn (lsWord c .load 1 4 1 3 2 0 0 0 ((0#1) == 1)).base).valid = false ∨
      (c.bn (lsWord c .load 1 4 1 3 2 0 0 0 ((0#1) == 1)).base).space ≠ .virtual)) (by decide +kernel)
  ⟨_, c, _, _, .ld .., h, q⟩

theorem witness_memory_misaligned : ∃ s c i m, MemoryWord c i m ∧ Issues s c i ∧ m.held s c = false ∧ m.checked ≠ 0 ∧ c.stuffed = none ∧
    c.team.fr.halted = false ∧ (c.bn m.base).valid = true ∧ (c.bn m.base).space = .virtual ∧
    ∃ l, l < 32 ∧ m.checked.getLsbD l = true ∧ m.addr c l % m.align ≠ 0 :=
  let ⟨c, h, q⟩ := okP (s := ready 0x80421A00 (b1 ∘ gv 3 (fun l => if l = 31 then 2 else 0))) (i := .ld 4 1 3 2 0 0) (P := fun c =>
    (lsWord c .load 1 4 1 3 2 0 0 0 ((0#1) == 1)).held (ready 0x80421A00 (b1 ∘ gv 3 (fun l => if l = 31 then 2 else 0))) c = false ∧
    (lsWord c .load 1 4 1 3 2 0 0 0 ((0#1) == 1)).checked ≠ 0 ∧ c.stuffed = none ∧ c.team.fr.halted = false ∧
    (c.bn (lsWord c .load 1 4 1 3 2 0 0 0 ((0#1) == 1)).base).valid = true ∧
    (c.bn (lsWord c .load 1 4 1 3 2 0 0 0 ((0#1) == 1)).base).space = .virtual ∧
    ((lsWord c .load 1 4 1 3 2 0 0 0 ((0#1) == 1)).checked.getLsbD 31 = true ∧
      (lsWord c .load 1 4 1 3 2 0 0 0 ((0#1) == 1)).addr c 31 % (lsWord c .load 1 4 1 3 2 0 0 0 ((0#1) == 1)).align ≠ 0)) (by decide +kernel)
  ⟨_, c, _, _, .ld .., h, q.1, q.2.1, q.2.2.1, q.2.2.2.1, q.2.2.2.2.1, q.2.2.2.2.2.1, 31, by decide, q.2.2.2.2.2.2⟩

/-- Lane 31 reaches past the last byte of the virtual space. -/
def topBase (g : Group) : Group := { g with bases := g.bases.set 1 {
  valid := true, space := .virtual, vbase := 0xFFFFFFFFFFFF00, frame := 1, limit := 256, perm := { r := true, w := true, x := false, u := true }, leaf := (0, 0), more := [] } }

theorem witness_memory_range : ∃ s c i m, MemoryWord c i m ∧ Issues s c i ∧ m.held s c = false ∧ m.checked ≠ 0 ∧ c.stuffed = none ∧
    c.team.fr.halted = false ∧ (c.bn m.base).valid = true ∧ (c.bn m.base).space = .virtual ∧
    (∀ l, l < 32 → m.checked.getLsbD l = true → m.addr c l % m.align = 0) ∧
    ∃ l, l < 32 ∧ m.checked.getLsbD l = true ∧ (m.addr c l < 0 ∨ 2 ^ 56 < m.addr c l + (m.width / 8 : Nat)) :=
  let ⟨c, h, q⟩ := okP (s := ready 0x80421A00 (topBase ∘ gv 3 (fun l => if l = 31 then 256 else 252))) (i := .ld 4 1 3 2 0 0) (P := fun c =>
    (lsWord c .load 1 4 1 3 2 0 0 0 ((0#1) == 1)).held (ready 0x80421A00 (topBase ∘ gv 3 (fun l => if l = 31 then 256 else 252))) c = false ∧
    (lsWord c .load 1 4 1 3 2 0 0 0 ((0#1) == 1)).checked ≠ 0 ∧ c.stuffed = none ∧ c.team.fr.halted = false ∧
    (c.bn (lsWord c .load 1 4 1 3 2 0 0 0 ((0#1) == 1)).base).valid = true ∧
    (c.bn (lsWord c .load 1 4 1 3 2 0 0 0 ((0#1) == 1)).base).space = .virtual ∧
    (List.range 32).all (fun l => (lsWord c .load 1 4 1 3 2 0 0 0 ((0#1) == 1)).addr c l % (lsWord c .load 1 4 1 3 2 0 0 0 ((0#1) == 1)).align == 0) = true ∧
    ((lsWord c .load 1 4 1 3 2 0 0 0 ((0#1) == 1)).checked.getLsbD 31 = true ∧
      ((lsWord c .load 1 4 1 3 2 0 0 0 ((0#1) == 1)).addr c 31 < 0 ∨ 2 ^ 56 <
        (lsWord c .load 1 4 1 3 2 0 0 0 ((0#1) == 1)).addr c 31 + ((lsWord c .load 1 4 1 3 2 0 0 0 ((0#1) == 1)).width / 8 : Nat)))) (by decide +kernel)
  ⟨_, c, _, _, .ld .., h, q.1, q.2.1, q.2.2.1, q.2.2.2.1, q.2.2.2.2.1, q.2.2.2.2.2.1,
    fun l hl _ => by simpa using List.all_eq_true.mp q.2.2.2.2.2.2.1 l (List.mem_range.mpr hl), 31, by decide, q.2.2.2.2.2.2.2⟩

/-- An operation on one lane at a physical address. -/
def oneOp (kind : OpKind) (pa width : Nat) : MemOp :=
  { id := 7, team := 1, group := 0, kind := kind, width := width, sel := 1, slices := 1, locs := [.phys pa (0, 0)], vas := [pa], data := [0x44332211],
    data2 := [0], dst := 4, vals := List.replicate 32 0, served := 0, written := 0, parts := [], scope := 0, order := 0, bypass := false, byLd := false, ctx := none,
    instr := .rcv, pc := 0, sa := 0, sb := 0, stuffed := none, page := none }

/-- A clean copy of a tile. -/
def copyOf (tile : Nat) : Copy :=
  { tile := tile, owner := none, keyslot := none, data := 0, valid := BitVec.allOnes 4096, dirty := 0, poison := 0, errs := [], filling := false, motion := none,
    queue := [], leaf := (0, 0) }

/-- The machine after reset with a copy in quarter 0. -/
def withCopy (c : Copy) : State := State.reset.modQuarter 0 (fun q => { q with chain := [c] })

/-- Four bytes at the end of the tile. -/
theorem witness_store_in_copy : ∃ (s : State) (q tile : Nat) (o : MemOp) (l : Nat) (c : Copy),
    q < s.quarters.length ∧ (s.quarter q).copy? tile = some c ∧ o.kind = .store ∧ l < 32 ∧ o.pa l % 4096 + o.bytes ≤ 4096 ∧ o.pa l / 4096 = tile :=
  ⟨withCopy (copyOf 1), 0, 1, oneOp .store 8188 32, 0, copyOf 1, by decide +kernel, by decide +kernel, by decide +kernel, by decide +kernel,
    by decide +kernel, by decide +kernel⟩

theorem witness_store_at_home : ∃ (s : State) (q tile : Nat) (o : MemOp) (l : Nat),
    memoryWf s ∧ (∀ w ∈ s.wbq, w.tile ≠ tile) ∧ o.kind = .store ∧ l < 32 ∧ s.keyFor q o.ctx (o.leaf l) = none ∧
    (∀ k ∈ s.home.keys, k.1 / 64 ≠ tile) ∧ o.pa l / 4096 = tile ∧ o.pa l % 4096 + o.bytes ≤ 4096 :=
  ⟨State.reset, 0, 1, oneOp .store 8188 32, 0, reset_memory_wf, by decide +kernel, rfl, by decide, by decide +kernel, by decide +kernel,
    by decide +kernel, by decide +kernel⟩

/-- What a load of tile 1's last word at a copy with an error in unit 63 leaves: SPLCE, SPLUE, and whether the unit is poisoned and holds errors. -/
def healed (bad : Bool) (dirty : BitVec 4096) : Nat × Nat × Bool × Nat :=
  let c := { copyOf 1 with errs := [(63, bad), (0, true)], dirty := dirty }
  let t := ({ withCopy c with ops := [oneOp .load 8188 32] } : State).perform 0 1 (oneOp .load 8188 32) 1 true
  let d := ((t.quarter 0).copy? 1).getD (copyOf 1)
  (((t.quarter 0).ecc.getD 2 0).toNat, ((t.quarter 0).ecc.getD 3 0).toNat, d.poison.getLsbD 63, d.errs.length)
/-- 21 R507: a correctable error is counted; an uncorrectable one of a clean unit is fetched again, of a dirty unit poisons it. -/
theorem test_spiral_errors : healed false 0 = (1, 0, false, 1) ∧ healed true 0 = (0, 1, false, 1) ∧
    healed true (BitVec.allOnes 4096) = (0, 1, true, 1) := by decide +kernel

theorem witness_load_in_copy : ∃ (s : State) (q tile : Nat) (o : MemOp) (l : Nat) (c : Copy) (x : MemOp),
    (s.quarter q).copy? tile = some c ∧ o.kind = .load ∧ l < 32 ∧ o.pa l / 4096 = tile ∧ o.pa l % 4096 + o.bytes ≤ 4096 ∧
    (∀ b, b < o.bytes → c.valid.getLsbD (o.pa l % 4096 + b) = true) ∧ c.poison.getLsbD (o.pa l % 4096 / 64) = false ∧ c.errs = [] ∧ s.op? o.id = some x ∧
    l < x.vals.length :=
  ⟨{ withCopy (copyOf 1) with ops := [oneOp .load 8188 32] }, 0, 1, oneOp .load 8188 32, 0, copyOf 1, oneOp .load 8188 32, by decide +kernel, rfl, by decide,
    by decide +kernel, by decide +kernel, by decide +kernel, by decide +kernel, by decide +kernel, rfl, by decide +kernel⟩

/-- The placed team with operations in flight. -/
def withOps (ops : List MemOp) : State := { ready 0 id with ops := ops }

theorem witness_load_return : ∃ (s : State) (id k : Nat) (o : MemOp) (g : Group), s.op? id = some o ∧ s.group? o.ref = some g ∧ NoFence s ∧
    o.kind.isUniform = false ∧ o.kind.hasResult = true ∧ k < 8 ∧ (o.sel &&& (0xF#32 <<< (4 * k))) ≠ 0 ∧
    (o.sel &&& (0xF#32 <<< (4 * k))) &&& ~~~o.served = 0 ∧ (o.sel &&& (0xF#32 <<< (4 * k))) &&& ~~~o.written ≠ 0 ∧ o.parts = [] :=
  have e : ((withOps [{ oneOp .load 0 32 with sel := 0xF0000000, served := 0xF0000000 }]).group? ⟨1, 0⟩).isSome = true := by decide +kernel
  let ⟨g, hg⟩ := Option.isSome_iff_exists.mp e
  ⟨_, 7, 7, { oneOp .load 0 32 with sel := 0xF0000000, served := 0xF0000000 }, g, by decide +kernel, hg, noFence_spec (by decide +kernel), by decide +kernel,
    by decide +kernel, by decide, by decide +kernel, by decide +kernel, by decide +kernel, rfl⟩

/-- The last register of the last lane of a load of four registers. -/
theorem witness_part_return : ∃ (s : State) (id j l : Nat) (o : MemOp) (g : Group), s.op? id = some o ∧ s.group? o.ref = some g ∧ NoFence s ∧
    o.kind.isUniform = false ∧ o.kind.hasResult = true ∧ j < max 1 (o.width / 32) ∧ l < 32 ∧ (o.sel &&& o.served).getLsbD l = true ∧ o.written.getLsbD l = false ∧
    (j, l) ∉ o.parts :=
  have e : ((withOps [{ oneOp .load 0 128 with sel := 0x80000000, served := 0x80000000 }]).group? ⟨1, 0⟩).isSome = true := by decide +kernel
  let ⟨g, hg⟩ := Option.isSome_iff_exists.mp e
  ⟨_, 7, 3, 31, { oneOp .load 0 128 with sel := 0x80000000, served := 0x80000000 }, g, by decide +kernel, hg, noFence_spec (by decide +kernel), by decide +kernel,
    by decide +kernel, by decide, by decide, by decide +kernel, by decide +kernel, by simp [oneOp]⟩

theorem witness_uniform_return : ∃ (s : State) (id : Nat) (o : MemOp) (g : Group), s.op? id = some o ∧ s.group? o.ref = some g ∧ NoFence s ∧
    o.kind.isUniform = true ∧ o.sel &&& ~~~o.served = 0 ∧ o.written ≠ o.sel :=
  have e : ((withOps [{ oneOp (.uniform false) 0 32 with served := 1 }]).group? ⟨1, 0⟩).isSome = true := by decide +kernel
  let ⟨g, hg⟩ := Option.isSome_iff_exists.mp e
  ⟨_, 7, { oneOp (.uniform false) 0 32 with served := 1 }, g, by decide +kernel, hg, noFence_spec (by decide +kernel), by decide +kernel, by decide +kernel,
    by decide +kernel⟩

/-- Offsets inside the scratchpad, as a test. -/
def scratchOk (c : Cx) (u : Team) (o n : Nat) (sel : Lanes) : Bool :=
  allLanes sel (fun l => decide (c.scratchOff o l % n = 0 ∧ 0 ≤ c.scratchOff o l ∧ c.scratchOff o l + n ≤ u.scratchSize))

theorem scratchOk_spec {c : Cx} {u : Team} {o n : Nat} {sel : Lanes} (h : scratchOk c u o n sel = true) : ScratchOk c u o n sel :=
  fun l hl hm => of_decide_eq_true (allLanes_spec h l hl hm)

/-- The last word of a scratchpad of 1 KiB. -/
theorem witness_scratchpad_words : (∃ s c d o w y t p u, Reaches s c y t u ∧ ScratchOk c u o.toNat (2 ^ w.toNat) (c.sel p.toNat) ∧
      Issues s c (.lds d o w y t p) ∧ accessHeld s c true false 0 = false ∧ c.sel p.toNat ≠ 0) ∧
    ∃ s c d o w y t p u, Reaches s c y t u ∧ ScratchOk c u o.toNat (2 ^ w.toNat) (c.sel p.toNat) ∧
      Issues s c (.sts d o w y t p) ∧ accessHeld s c false true 0 = false :=
  let ⟨c, h, q⟩ := okP (s := ready 0x88302A00 (gc 5 1020)) (i := .lds 3 5 2 0 0 0) (P := fun c => scratchOk c c.team (5#6).toNat (2 ^ (2#3).toNat) (c.sel (0#3).toNat) = true ∧
    accessHeld (ready 0x88302A00 (gc 5 1020)) c true false 0 = false ∧ c.sel (0#3).toNat ≠ 0) (by decide +kernel)
  let ⟨d, k, r⟩ := okP (s := ready 0x8C302A00 (gc 5 1020)) (i := .sts 3 5 2 0 0 0) (P := fun c => scratchOk c c.team (5#6).toNat (2 ^ (2#3).toNat) (c.sel (0#3).toNat) = true ∧
    accessHeld (ready 0x8C302A00 (gc 5 1020)) c false true 0 = false) (by decide +kernel)
  ⟨⟨_, c, 3, 5, 2, 0, 0, 0, c.team, .inl ⟨rfl, rfl⟩, scratchOk_spec q.1, h, q.2⟩,
    ⟨_, d, 3, 5, 2, 0, 0, 0, d.team, .inl ⟨rfl, rfl⟩, scratchOk_spec r.1, k, r.2⟩⟩

/-- Of the cluster's rank 0 by .sib. -/
theorem witness_sibling_scratchpad : ∃ s c d o w y t p u, Reaches s c y t u ∧ y = 1 ∧ ScratchOk c u o.toNat (2 ^ w.toNat) (c.sel p.toNat) ∧
    Issues s c (.lds d o w y t p) ∧ accessHeld s c true false 0 = false ∧ c.sel p.toNat ≠ 0 :=
  let ⟨c, h, q⟩ := okP (s := ready 0x88302A80 (gc 5 1020)) (i := .lds 3 5 2 1 0 0) (P := fun c => (0#3).toNat < c.team.shape.cluster ∧
    (ready 0x88302A80 (gc 5 1020)).rankTeam c.team (0#3).toNat = some c.team ∧ scratchOk c c.team (5#6).toNat (2 ^ (2#3).toNat) (c.sel (0#3).toNat) = true ∧
    accessHeld (ready 0x88302A80 (gc 5 1020)) c true false 0 = false ∧ c.sel (0#3).toNat ≠ 0) (by decide +kernel)
  ⟨_, c, 3, 5, 2, 1, 0, 0, c.team, .inr ⟨rfl, q.1, q.2.1⟩, rfl, scratchOk_spec q.2.2.1, h, q.2.2.2⟩

theorem witness_scratchpad_atomics : (∃ s c d o a t p i fn, accessHeld s c true false (scopeOf c.hs 1).1 = false ∧ c.sel p.toNat ≠ 0 ∧
      ScratchAtomic i d o a t p fn ∧ Issues s c i ∧ ScratchOk c c.team (haregO c.hs o) (atomWidth t.toNat / 8) (c.sel p.toNat)) ∧
    ∃ s c d o a t p l0 rest, accessHeld s c true false (scopeOf c.hs 1).1 = false ∧ c.sel p.toNat ≠ 0 ∧ laneNums (c.sel p.toNat) = l0 :: rest ∧
      Issues s c (.atomgScratch d o a t p) ∧ ScratchOk c c.team (haregO c.hs o) (atomWidth t.toNat / 8) ((1#32) <<< l0) :=
  let ⟨c, h, q⟩ := okP (s := ready 0x94302400 (gv 1 (fun l => 4 * l))) (i := .atomsAdd 3 1 2 0 0) (P := fun c =>
    accessHeld (ready 0x94302400 (gv 1 (fun l => 4 * l))) c true false (scopeOf c.hs 1).1 = false ∧ c.sel (0#3).toNat ≠ 0 ∧
    scratchOk c c.team (haregO c.hs 1) (atomWidth (0#2).toNat / 8) (c.sel (0#3).toNat) = true) (by decide +kernel)
  let ⟨d, k, r⟩ := okP (s := ready 0x94302400 (gv 1 (fun l => 4 * l))) (i := .atomgScratch 3 1 2 0 0) (P := fun c =>
    accessHeld (ready 0x94302400 (gv 1 (fun l => 4 * l))) c true false (scopeOf c.hs 1).1 = false ∧ c.sel (0#3).toNat ≠ 0 ∧
    laneNums (c.sel (0#3).toNat) = 0 :: (List.range 31).map (· + 1) ∧ scratchOk c c.team (haregO c.hs 1) (atomWidth (0#2).toNat / 8) ((1#32) <<< 0) = true) (by decide +kernel)
  ⟨⟨_, c, 3, 1, 2, 0, 0, .atomsAdd 3 1 2 0 0, 0, q.1, q.2.1, .add .., h, scratchOk_spec q.2.2⟩,
    ⟨_, d, 3, 1, 2, 0, 0, 0, _, r.1, r.2.1, r.2.2.1, k, scratchOk_spec r.2.2.2⟩⟩
theorem some_of {α : Type} {x : Option α} (h : x.isSome = true) : ∃ a, x = some a := Option.isSome_iff_exists.mp h

/-- A page mapped at 0x20000, none at 2^52. -/
theorem witness_bset_virtual :
    (∃ s c n a w0 w1 lo, Issues s c (.bset n a) ∧ (sc c a).extractLsb' 56 8 = 0 ∧
      (s.leafFor c.core c.team.shape.ctx ((sc c a).extractLsb' 0 56).toNat).2 = some (w0, w1, lo)) ∧
    ∃ s c n a, Issues s c (.bset n a) ∧ (sc c a).extractLsb' 56 8 = 0 ∧
      (s.leafFor c.core c.team.shape.ctx ((sc c a).extractLsb' 0 56).toNat).2 = none := by
  constructor
  · obtain ⟨c, h, q1, q2⟩ := okP (s := ready 0x9C410000 (gs 1 0x20000)) (i := .bset 2 1) (P := fun c => (sc c (1#5)).extractLsb' 56 8 = 0 ∧
      ((ready 0x9C410000 (gs 1 0x20000)).leafFor c.core c.team.shape.ctx ((sc c (1#5)).extractLsb' 0 56).toNat).2.isSome = true) (by decide +kernel)
    obtain ⟨⟨w0, w1, lo⟩, e⟩ := some_of q2
    exact ⟨_, c, 2, 1, w0, w1, lo, h, q1, e⟩
  · obtain ⟨c, h, q⟩ := okP (s := ready 0x9C410000 (gs 1 0x10000000000000)) (i := .bset 2 1) (P := fun c => (sc c (1#5)).extractLsb' 56 8 = 0 ∧
      ((ready 0x9C410000 (gs 1 0x10000000000000)).leafFor c.core c.team.shape.ctx ((sc c (1#5)).extractLsb' 0 56).toNat).2 = none) (by decide +kernel)
    exact ⟨_, c, 2, 1, h, q⟩

/-- The scratchpad of rank 0, and a rank that there is not. -/
theorem witness_bset_rank : (∃ s c n a u, Issues s c (.bset n a) ∧ 0x80 ≤ ((sc c a).extractLsb' 56 8).toNat ∧
      ((sc c a).extractLsb' 56 8).toNat - 0x80 < min 8 (max 1 c.team.shape.cluster) ∧ (sc c a).extractLsb' 0 56 = 0 ∧
      s.rankTeam c.team (((sc c a).extractLsb' 56 8).toNat - 0x80) = some u) ∧
    ∃ s c n a, Issues s c (.bset n a) ∧ (sc c a).extractLsb' 56 8 ≠ 0 ∧
      (((sc c a).extractLsb' 56 8).toNat < 0x80 ∨ min 8 (max 1 c.team.shape.cluster) ≤ ((sc c a).extractLsb' 56 8).toNat - 0x80 ∨
        (sc c a).extractLsb' 0 56 ≠ 0) := by
  constructor
  · obtain ⟨c, h, q⟩ := okP (s := ready 0x9C410000 (gs 1 0x8000000000000000)) (i := .bset 2 1) (P := fun c => 0x80 ≤ ((sc c (1#5)).extractLsb' 56 8).toNat ∧
      ((sc c (1#5)).extractLsb' 56 8).toNat - 0x80 < min 8 (max 1 c.team.shape.cluster) ∧ (sc c (1#5)).extractLsb' 0 56 = 0 ∧
      (ready 0x9C410000 (gs 1 0x8000000000000000)).rankTeam c.team (((sc c (1#5)).extractLsb' 56 8).toNat - 0x80) = some c.team) (by decide +kernel)
    exact ⟨_, c, 2, 1, c.team, h, q⟩
  · obtain ⟨c, h, q⟩ := okP (s := ready 0x9C410000 (gs 1 0x8100000000000000)) (i := .bset 2 1) (P := fun c => (sc c (1#5)).extractLsb' 56 8 ≠ 0 ∧
      (((sc c (1#5)).extractLsb' 56 8).toNat < 0x80 ∨ min 8 (max 1 c.team.shape.cluster) ≤ ((sc c (1#5)).extractLsb' 56 8).toNat - 0x80 ∨
        (sc c (1#5)).extractLsb' 0 56 ≠ 0)) (by decide +kernel)
    exact ⟨_, c, 2, 1, h, q⟩

theorem witness_blim : (∃ s c n a, Issues s c (.blim n a) ∧ ((c.bn n.toNat).valid = false ∨ (c.bn n.toNat).space ≠ .virtual)) ∧
    (∃ s c n a, Issues s c (.blim n a) ∧ (c.bn n.toNat).valid = true ∧ (c.bn n.toNat).space = .virtual ∧ sc c a = 0) ∧
    ∃ s c n a, Issues s c (.blim n a) ∧ (c.bn n.toNat).valid = true ∧ (c.bn n.toNat).space = .virtual ∧ sc c a ≠ 0 := by
  refine ⟨?_, ?_, ?_⟩
  · obtain ⟨c, h, q⟩ := okP (s := ready 0x9C210008 id) (i := .blim 1 1) (P := fun c =>
      (c.bn (1#3).toNat).valid = false ∨ (c.bn (1#3).toNat).space ≠ .virtual) (by decide +kernel)
    exact ⟨_, c, 1, 1, h, q⟩
  · obtain ⟨c, h, q⟩ := okP (s := ready 0x9C210008 b1) (i := .blim 1 1) (P := fun c =>
      (c.bn (1#3).toNat).valid = true ∧ (c.bn (1#3).toNat).space = .virtual ∧ sc c (1#5) = 0) (by decide +kernel)
    exact ⟨_, c, 1, 1, h, q⟩
  · obtain ⟨c, h, q⟩ := okP (s := ready 0x9C210008 (b1 ∘ gs 1 0x1000)) (i := .blim 1 1) (P := fun c =>
      (c.bn (1#3).toNat).valid = true ∧ (c.bn (1#3).toNat).space = .virtual ∧ sc c (1#5) ≠ 0) (by decide +kernel)
    exact ⟨_, c, 1, 1, h, q⟩

/-- Whether a WAITC of no operands holds for a slice, as a test. -/
def metB (s : State) (c : Cx) (k : Nat) : Bool :=
  decide (s.stCount c.ref ≤ 0) && decide (s.btCount c.ref ≤ 0) && decide (s.tlCount c.ref ≤ 0) && decide (s.lds c.ref k ≤ 0)

theorem metB_spec {s : State} {c : Cx} {k : Nat} : metB s c k = true ↔ Met s c 0 0 0 0 k := by
  simp [metB, Met, and_assoc]

/-- A word that issues while operations are in flight. -/
def readyOps (w : Word) (prep : Group → Group) (ops : List MemOp) : State := { ready w prep with ops := ops }

/-- An atomic performed at a far home that fails, in lane 3 of two lanes. -/
def farAtomic : State :=
  let leaf : DWord × DWord := (0x80, 0)
  let locs := (List.range 32).map (fun l => Loc.phys (4096 + 64 * l) leaf)
  let o : MemOp := { oneOp (.atomic 0 0) 0 32 with sel := 0xC, data := List.replicate 32 5, vas := List.replicate 32 0x40, locs := locs }
  let s := readyOps 0xA0FFFFF8 id [o]
  ({ s with home := { s.home with farFaults := [.phys 67] } } : State).performAtomic 0 1 o 0xC false
/-- 08 R270: the lane that fails changes no memory and records FARATOM with its address; the other lane is performed. -/
theorem test_far_atomic : (farAtomic.group? ⟨1, 0⟩).map (fun g => g.flt.pending) = some [(0x46, 0x40)] ∧
    farAtomic.ops.map (fun o => o.served) = [0xC] ∧ (farAtomic.home.cells.filter (fun c => 4096 ≤ c.1)).map (fun c => (c.1, c.2.toNat)) = [(4096 + 128, 5)] := by decide +kernel

/-- A store of slice 0 outstanding, and a load of it. -/
def oneStore : State := readyOps 0xA0FFFFF8 id [oneOp .store 0 32]
def oneLoad : State := readyOps 0xA0FFFFF8 id [{ oneOp .load 0 32 with byLd := true }]

theorem witness_waitc : (∃ s c l st b t, Issues s c (.waitc l st b t) ∧ (∀ k, k < 8 → c.slices.getLsbD k = true → Met s c l st b t k) ∧ c.slices ≠ 0) ∧
    (∃ s c l st b t, Issues s c (.waitc l st b t) ∧ ∀ k, k < 8 → c.slices.getLsbD k = true → ¬ Met s c l st b t k) ∧
    ∃ s c l st b t i j, Issues s c (.waitc l st b t) ∧ c.stuffed = none ∧ Issuing c i ∧ Met s c l st b t i ∧ Issuing c j ∧ ¬ Met s c l st b t j := by
  refine ⟨?_, ?_, ?_⟩
  · obtain ⟨c, h, q1, q2⟩ := okP (s := ready 0xA0FFFFF8 id) (i := .waitc 0 0 0 0) (P := fun c =>
      allSlices c.slices (fun k => metB (ready 0xA0FFFFF8 id) c k) = true ∧ c.slices ≠ 0) (by decide +kernel)
    exact ⟨_, c, 0, 0, 0, 0, h, fun k hk hm => metB_spec.mp (allSlices_spec q1 k hk hm), q2⟩
  · obtain ⟨c, h, q⟩ := okP (s := oneStore) (i := .waitc 0 0 0 0) (P := fun c =>
      allSlices c.slices (fun k => !metB oneStore c k) = true) (by decide +kernel)
    exact ⟨_, c, 0, 0, 0, 0, h, fun k hk hm m => by have := allSlices_spec q k hk hm; simp [metB_spec.mpr m] at this⟩
  · obtain ⟨c, h, q⟩ := okP (s := oneLoad) (i := .waitc 0 0 0 0) (P := fun c =>
      c.stuffed = none ∧ (1 < c.grp.slices.length ∧ c.slices.getLsbD 1 = true) ∧ metB oneLoad c 1 = true ∧
      (0 < c.grp.slices.length ∧ c.slices.getLsbD 0 = true) ∧ metB oneLoad c 0 = false)
      (by decide +kernel)
    exact ⟨_, c, 0, 0, 0, 0, 1, 0, h, q.1, q.2.1, metB_spec.mp q.2.2.1, q.2.2.2.1, fun m => by simp [metB_spec.mpr m] at q⟩
/-! ### Waits, clocks, barriers, fences and EXIT -/

/-- A word that issues in a state prepared further. -/
def readyWith (w : Word) (prep : Group → Group) (f : State → State) : State := f (ready w prep)

/-- The team of `ready`, prepared. -/
def teamPrep (f : Team → Team) (s : State) : State := s.modTeam 1 f

/-- A team that waits for batches. -/
def producing : State := readyWith 0 (gs 1 1) (teamPrep (fun u => { u with shape := { u.shape with producer := 1 } }))

theorem witness_waitb : (∃ s c a, Issues s c (.waitb a) ∧ (c.team.shape.producer = 0 ∨ BatchesDone c.team ((sc c a).setWidth 32))) ∧
    (∃ s c a, Issues s c (.waitb a) ∧ c.team.shape.producer ≠ 0 ∧ BatchesDone c.team ((sc c a).setWidth 32)) ∧
    ∃ s c a, Issues s c (.waitb a) ∧ c.team.shape.producer ≠ 0 ∧ ¬ BatchesDone c.team ((sc c a).setWidth 32) :=
  let ⟨c, h, q⟩ := okP (s := ready 0 id) (i := .waitb 1) (P := fun c => c.team.shape.producer = 0) (by decide +kernel)
  let ⟨d, k, r⟩ := okP (s := producing) (i := .waitb 0) (P := fun c => c.team.shape.producer ≠ 0 ∧
    (sc c (0#5)).setWidth 32 = c.team.lastBatch ∧ c.team.batches = []) (by decide +kernel)
  let ⟨e, m, n⟩ := okP (s := producing) (i := .waitb 1) (P := fun c => c.team.shape.producer ≠ 0 ∧
    (sc c (1#5)).setWidth 32 = 1#32 ∧ c.team.lastBatch = 0#32) (by decide +kernel)
  ⟨⟨_, c, 1, h, .inl q⟩, ⟨_, d, 0, k, r.1, .inl r.2.1, by rw [r.2.2]; simp⟩,
    ⟨_, e, 1, m, n.1, fun w => by
      have w : BatchesDone e.team (BitVec.setWidth 32 (sc e (1#5))) := w
      rw [n.2.1] at w; have := w.1; rw [n.2.2] at this; revert this; decide⟩⟩

/-- Where a WAITV looks, and the state its walk leaves. -/
def waitvTest (c : Cx) (s : State) (b : BitVec 3) (f : State → List (Nat × Loc) → Nat → Bool) : Bool :=
  match waitvPlace c s b with
  | .inr (s0, .ok locs, va) => f s0 locs va
  | _ => false

theorem waitvTest_spec {c : Cx} {s : State} {b : BitVec 3} {f : State → List (Nat × Loc) → Nat → Bool} (h : waitvTest c s b f = true) :
    ∃ s0 locs va, waitvPlace c s b = .inr (s0, .ok locs, va) ∧ f s0 locs va = true := by
  simp only [waitvTest] at h
  split at h
  · exact ⟨_, _, _, ‹_›, h⟩
  · simp at h

/-- What a WAITV needs to look at memory that holds 0. -/
def waitvOk (s : State) (c : Cx) (x : DWord) : Bool :=
  !accessHeld s c false false 0 && decide (sc c (1#5) = x) &&
  waitvTest c s 1 (fun s0 locs va => !opsBehind c s va 4 && decide ((waitvLook c s0 ((lookupNat locs 0).getD (.scratch 0 0)) va).2 = some 0) &&
    ((waitvLook c s0 ((lookupNat locs 0).getD (.scratch 0 0)) va).1.group? c.ref).isSome)

theorem waitvOk_spec {s : State} {c : Cx} {x : DWord} (h : waitvOk s c x = true) : ∃ s0 s1 locs va g1, accessHeld s c false false 0 = false ∧
    sc c (1#5) = x ∧ waitvPlace c s 1 = .inr (s0, .ok locs, va) ∧ opsBehind c s va 4 = false ∧
    waitvLook c s0 ((lookupNat locs 0).getD (.scratch 0 0)) va = (s1, some 0) ∧ s1.group? c.ref = some g1 := by
  simp only [waitvOk, Bool.and_eq_true, decide_eq_true_eq, Bool.not_eq_true'] at h
  obtain ⟨s0, locs, va, e, q⟩ := waitvTest_spec h.2
  simp only [Bool.and_eq_true, decide_eq_true_eq, Bool.not_eq_true'] at q
  obtain ⟨g1, hg⟩ := some_of q.2
  exact ⟨s0, _, locs, va, g1, h.1.1, h.1.2, e, q.1.1, Prod.ext rfl q.1.2, hg⟩

theorem witness_waitv (x : DWord) (hx : x = 0 ∨ x = 1) : ∃ s c s0 s1 locs va g1, Issues s c (.waitv 1 1) ∧ accessHeld s c false false 0 = false ∧
    sc c (1#5) = x ∧ waitvPlace c s 1 = .inr (s0, .ok locs, va) ∧ opsBehind c s va 4 = false ∧
    waitvLook c s0 ((lookupNat locs 0).getD (.scratch 0 0)) va = (s1, some 0) ∧ s1.group? c.ref = some g1 := by
  have : okIssue (ready 0 (b1 ∘ gs 1 x)) (.waitv 1 1) (fun c => waitvOk (ready 0 (b1 ∘ gs 1 x)) c x) = true := by
    obtain rfl | rfl := hx <;> decide +kernel
  obtain ⟨c, h, q⟩ := okIssue_spec this
  obtain ⟨s0, s1, locs, va, g1, r⟩ := waitvOk_spec q
  exact ⟨_, c, s0, s1, locs, va, g1, h, r⟩

/-- A barrier register nothing has set. -/
def noBarrier : Barrier := { phase := false, exp := 1, arr := 0, owed := 0, cdone := false, cwait := false, err := false }

theorem witness_bwait : (∃ s c a w b, c.team.bars[w.toNat]? = some b ∧ Issues s c (.bwait a w) ∧ b.phase ≠ (sc c a).getLsbD 0) ∧
    ∃ s c a w b, c.team.bars[w.toNat]? = some b ∧ Issues s c (.bwait a w) ∧ b.phase = (sc c a).getLsbD 0 :=
  let ⟨c, h, q⟩ := okP (s := ready 0 (gs 1 1)) (i := .bwait 1 15) (P := fun c => c.team.bars[(15#4).toNat]? = some noBarrier ∧
    noBarrier.phase ≠ (sc c (1#5)).getLsbD 0) (by decide +kernel)
  let ⟨d, k, r⟩ := okP (s := ready 0 (gs 1 0)) (i := .bwait 1 15) (P := fun c => c.team.bars[(15#4).toNat]? = some noBarrier ∧
    noBarrier.phase = (sc c (1#5)).getLsbD 0) (by decide +kernel)
  ⟨⟨_, c, 1, 15, _, q.1, h, q.2⟩, ⟨_, d, 1, 15, _, r.1, k, r.2⟩⟩

theorem witness_clock_words : (∃ s c, Issues s c .yieldW) ∧ (∃ s c a, Issues s c (.timerRes a)) ∧ (∃ s c a, Issues s c (.timerWall a)) ∧
    (∃ s c d, Issues s c (.tick d)) ∧ (∃ s c d, Issues s c (.cyc d)) ∧
    (∃ s c d w b, c.team.bars[w.toNat]? = some b ∧ Issues s c (.btest d w)) ∧
    ∃ s c d, Issues s c (.close d) ∧ (c.team.pendingJobs = [] ∨ c.team.batches.length < 15) := by
  refine ⟨?_, ?_, ?_, ?_, ?_, ?_, ?_⟩
  · obtain ⟨c, h⟩ := issues_of (s := ready 0 id) (i := .yieldW) (by decide +kernel); exact ⟨_, c, h⟩
  · obtain ⟨c, h⟩ := issues_of (s := ready 0 id) (i := .timerRes 1) (by decide +kernel); exact ⟨_, c, _, h⟩
  · obtain ⟨c, h⟩ := issues_of (s := ready 0 id) (i := .timerWall 1) (by decide +kernel); exact ⟨_, c, _, h⟩
  · obtain ⟨c, h⟩ := issues_of (s := ready 0 id) (i := .tick 1) (by decide +kernel); exact ⟨_, c, _, h⟩
  · obtain ⟨c, h⟩ := issues_of (s := ready 0 id) (i := .cyc 1) (by decide +kernel); exact ⟨_, c, _, h⟩
  · obtain ⟨c, h, q⟩ := okP (s := ready 0 id) (i := .btest 1 15) (P := fun c => c.team.bars[(15#4).toNat]? = some noBarrier) (by decide +kernel)
    exact ⟨_, c, 1, 15, _, q, h⟩
  · obtain ⟨c, h, q⟩ := okP (s := readyWith 0 (fun g => { g with role := .producer }) id) (i := .close 1) (P := fun c => c.team.pendingJobs = []) (by decide +kernel)
    exact ⟨_, c, 1, h, .inl q⟩

theorem witness_barrier_words : (∃ s c i w ev need, BarrierWord c i w ev need ∧ Issues s c i ∧ need) ∧
    ∃ s c i w ev need, BarrierWord c i w ev need ∧ Issues s c i ∧ ¬ need ∧ c.stuffed = none ∧ c.team.fr.halted = false :=
  let ⟨c, h, q⟩ := okP (s := ready 0 (gs 1 63)) (i := .binit 1 2) (P := fun c => 1 ≤ (sc c (1#5)).toNat ∧ (sc c (1#5)).toNat ≤ 63) (by decide +kernel)
  let ⟨d, k, r⟩ := okP (s := ready 0 (gs 1 64)) (i := .binit 1 2) (P := fun c => ¬ (1 ≤ (sc c (1#5)).toNat ∧ (sc c (1#5)).toNat ≤ 63) ∧
    c.stuffed = none ∧ c.team.fr.halted = false) (by decide +kernel)
  ⟨⟨_, c, _, _, _, _, .binit 1 2, h, q⟩, ⟨_, d, _, _, _, _, .binit 1 2, k, r⟩⟩

theorem witness_barv_bexp : (∃ s c, Issues s c (.barv 2) ∧ c.wholeGroup = true ∧ s.quiet c.ref = true) ∧
    (∃ s c, Issues s c (.barv 2) ∧ c.wholeGroup = true ∧ s.quiet c.ref = false) ∧
    (∃ s c, Issues s c (.barv 2) ∧ c.wholeGroup = false ∧ c.stuffed = none ∧ c.team.fr.halted = false) ∧
    (∃ s c, Issues s c (.bexp 1 2) ∧ (sc c (1#5)).toNat < 2 ^ 32) ∧
    ∃ s c, Issues s c (.bexp 1 2) ∧ ¬ (sc c (1#5)).toNat < 2 ^ 32 ∧ c.stuffed = none ∧ c.team.fr.halted = false := by
  refine ⟨?_, ?_, ?_, ?_, ?_⟩
  · obtain ⟨c, h, q⟩ := okP (s := ready 0 id) (i := .barv 2) (P := fun c => c.wholeGroup = true ∧ (ready 0 id).quiet c.ref = true) (by decide +kernel); exact ⟨_, c, h, q⟩
  · obtain ⟨c, h, q⟩ := okP (s := oneStore) (i := .barv 2) (P := fun c => c.wholeGroup = true ∧ oneStore.quiet c.ref = false) (by decide +kernel); exact ⟨_, c, h, q⟩
  · obtain ⟨c, h, q⟩ := okP (s := (ready 0 id).issuing ⟨1, 0⟩ 0x7F 0 none) (i := .barv 2) (P := fun c => c.wholeGroup = false ∧
      c.stuffed = none ∧ c.team.fr.halted = false) (by decide +kernel)
    exact ⟨_, c, h, q⟩
  · obtain ⟨c, h, q⟩ := okP (s := ready 0 (gs 1 0xFFFFFFFF)) (i := .bexp 1 2) (P := fun c => (sc c (1#5)).toNat < 2 ^ 32) (by decide +kernel)
    exact ⟨_, c, h, q⟩
  · obtain ⟨c, h, q⟩ := okP (s := ready 0 (gs 1 0x100000000)) (i := .bexp 1 2) (P := fun c => ¬ (sc c (1#5)).toNat < 2 ^ 32 ∧
      c.stuffed = none ∧ c.team.fr.halted = false) (by decide +kernel)
    exact ⟨_, c, h, q⟩

theorem witness_fence : (∃ s c k, Issues s c (.fence k) ∧ c.grp.ctl.fence = none ∧ s.quiet c.ref = true) ∧
    ∃ s c k, Issues s c (.fence k) ∧ c.grp.ctl.fence = none ∧ s.quiet c.ref = false :=
  let ⟨c, h, q⟩ := okP (s := ready 0 id) (i := .fence 9) (P := fun c => c.grp.ctl.fence = none ∧ (ready 0 id).quiet c.ref = true) (by decide +kernel)
  let ⟨d, k, r⟩ := okP (s := oneStore) (i := .fence 9) (P := fun c => c.grp.ctl.fence = none ∧ oneStore.quiet c.ref = false) (by decide +kernel)
  ⟨⟨_, c, _, h, q⟩, ⟨_, d, _, k, r⟩⟩

/-- A group with a deferred fault. -/
def deferred (report : Bool) (g : Group) : Group := { g with flt := { g.flt with pending := [(0x18, 5)], report := report } }

theorem witness_fencex : (∃ s c, Issues s c .fencex ∧ c.grp.role ≠ .producer ∧ ¬ AllDone s c) ∧
    (∃ s c g1, Issues s c .fencex ∧ c.grp.role ≠ .producer ∧ AllDone s c ∧ (s.fenceAt c.quarter 9).group? c.ref = some g1 ∧ c.grp.flt.pending = []) ∧
    ∀ report, ∃ s c g1, Issues s c .fencex ∧ c.grp.role ≠ .producer ∧ AllDone s c ∧ (s.fenceAt c.quarter 9).group? c.ref = some g1 ∧
      c.grp.flt.pending = [(0x18, 5)] ∧ c.grp.flt.report = report ∧ c.stuffed = none ∧ c.team.fr.halted = false := by
  refine ⟨?_, ?_, fun report => ?_⟩
  · obtain ⟨c, h, q⟩ := okP (s := oneStore) (i := .fencex) (P := fun c => c.grp.role ≠ .producer ∧
      ¬ (oneStore.groupOps c.ref = [] ∧ oneStore.tlCount c.ref = 0 ∧ oneStore.btCount c.ref = 0 ∧ c.grp.ctl.fence = none)) (by decide +kernel)
    exact ⟨_, c, h, q⟩
  · obtain ⟨c, h, q1, q2, q3, q4⟩ := okP (s := ready 0 id) (i := .fencex) (P := fun c => c.grp.role ≠ .producer ∧
      ((ready 0 id).groupOps c.ref = [] ∧ (ready 0 id).tlCount c.ref = 0 ∧ (ready 0 id).btCount c.ref = 0 ∧ c.grp.ctl.fence = none) ∧
      (((ready 0 id).fenceAt c.quarter 9).group? c.ref).isSome = true ∧ c.grp.flt.pending = []) (by decide +kernel)
    obtain ⟨g1, hg⟩ := some_of q3
    exact ⟨_, c, g1, h, q1, q2, hg, q4⟩
  · obtain ⟨c, h, q1, q2, q3, q4⟩ := okP (s := ready 0 (deferred report)) (i := .fencex) (P := fun c => c.grp.role ≠ .producer ∧
      ((ready 0 (deferred report)).groupOps c.ref = [] ∧ (ready 0 (deferred report)).tlCount c.ref = 0 ∧ (ready 0 (deferred report)).btCount c.ref = 0 ∧
        c.grp.ctl.fence = none) ∧
      (((ready 0 (deferred report)).fenceAt c.quarter 9).group? c.ref).isSome = true ∧ c.grp.flt.pending = [(0x18, 5)] ∧ c.grp.flt.report = report ∧
      c.stuffed = none ∧ c.team.fr.halted = false) (by revert report; decide +kernel)
    obtain ⟨g1, hg⟩ := some_of q3
    exact ⟨_, c, g1, h, q1, q2, hg, q4⟩

theorem witness_fencex_halted : ∃ s c g1, Issues s c .fencex ∧ c.grp.role ≠ .producer ∧ AllDone s c ∧ (s.fenceAt c.quarter 9).group? c.ref = some g1 ∧
    c.team.fr.halted = true ∧ c.stuffed = none ∧ c.grp.flt.pending = [(0x18, 5)] := by
  obtain ⟨c, h, q1, q2, q3, q4⟩ := okP (s := halting (ready 0 (deferred false))) (i := .fencex) (P := fun c => c.grp.role ≠ .producer ∧
    ((halting (ready 0 (deferred false))).groupOps c.ref = [] ∧ (halting (ready 0 (deferred false))).tlCount c.ref = 0 ∧
      (halting (ready 0 (deferred false))).btCount c.ref = 0 ∧ c.grp.ctl.fence = none) ∧
    (((halting (ready 0 (deferred false))).fenceAt c.quarter 9).group? c.ref).isSome = true ∧ c.team.fr.halted = true ∧ c.stuffed = none ∧
    c.grp.flt.pending = [(0x18, 5)]) (by decide +kernel)
  obtain ⟨g1, hg⟩ := some_of q3
  exact ⟨_, c, g1, h, q1, q2, hg, q4⟩

/-- The producer's FENCEX seals its pending batch first. -/
theorem witness_fencex_producer : ∃ s c, Issues s c .fencex ∧ c.grp.role = .producer ∧ (c.team.pendingJobs = [] ∨ c.team.batches.length < 15) :=
  let ⟨c, h, q⟩ := okP (s := ready 0 (fun g => { g with role := .producer })) (i := .fencex) (P := fun c => c.grp.role = .producer ∧
    (c.team.pendingJobs = [] ∨ c.team.batches.length < 15)) (by decide +kernel)
  ⟨_, c, h, q⟩

/-- A group whose slice 0 holds one entry of its stack. -/
def stacked (g : Group) : Group := { g with slices := g.slices.modify 0 (fun sl => { sl with
  active := 1, stack := [{ full := 3, pend := 2, pendPc := 8, resumePc := 12 }] }) }

/-- What EXIT asks for, as a test. -/
def exitOk (s : State) (c : Cx) : Bool :=
  decide (c.grp.role ≠ .producer ∧ (s.groupOps c.ref = [] ∧ s.tlCount c.ref = 0 ∧ s.btCount c.ref = 0 ∧ c.grp.ctl.fence = none) ∧
    c.grp.flt.pending = [] ∧ c.stuffed = none ∧ (s.fenceAt c.quarter 9).group? c.ref = some c.grp)

/-- Slice 0 goes on, slice 1 ends. -/
theorem witness_exit : ∃ s c, Issues s c .exitW ∧ c.grp.role ≠ .producer ∧ AllDone s c ∧ c.grp.flt.pending = [] ∧ c.stuffed = none ∧
    (s.fenceAt c.quarter 9).group? c.ref = some c.grp ∧ c.grp.role ≠ .handler ∧ c.ref.g ≠ 32 ∧
    Issuing c 0 ∧ (∃ m st pc, GoesOn (c.grp.slice 0).active (c.grp.slice 0).stack m st pc) ∧
    Issuing c 1 ∧ ¬ ∃ m st pc, GoesOn (c.grp.slice 1).active (c.grp.slice 1).stack m st pc := by
  obtain ⟨c, h, q, r, a, b, d, e, f⟩ := okP (s := ready 0 stacked) (i := .exitW) (P := fun c => exitOk (ready 0 stacked) c = true ∧ c.grp.role ≠ .handler ∧
    c.ref.g ≠ 32 ∧ (0 < c.grp.slices.length ∧ c.slices.getLsbD 0 = true) ∧ (1 < c.grp.slices.length ∧ c.slices.getLsbD 1 = true) ∧
    ((c.grp.slice 0).active = 1 ∧ (c.grp.slice 0).stack = [{ full := 3, pend := 2, pendPc := 8, resumePc := 12 }]) ∧ (c.grp.slice 1).stack = []) (by decide +kernel)
  have q := of_decide_eq_true q
  refine ⟨_, c, h, q.1, q.2.1, q.2.2.1, q.2.2.2.1, q.2.2.2.2, r, a, b, ⟨2, [{ full := 2, pend := 0, pendPc := 8, resumePc := 12 }], 8, ?_⟩, d, ?_⟩
  · rw [e.1, e.2]; exact .pend { full := 3, pend := 2, pendPc := 8, resumePc := 12 } [] (by decide)
  · rw [f]; rintro ⟨m, st, pc, g⟩; cases g

/-- A lane that waits on the handler, and the handler's group. -/
def handling : State :=
  let s := ready 0 (fun g => { g with slices := g.slices.modify 0 (fun sl => { sl with wait := .onTrap, trapped := 1 }) })
  State.issuing (s.modTeam 1 (fun u => { u with handler := (u.groups.head?).map (fun g => { g with
    num := 32, role := .handler, slices := g.slices.map (fun sl => { sl with wait := .running, trapped := 0 }),
    origins := [{ cycle := 0, group := 0, lane := 0, pc := 0, code := 2, operand := 0, dest := none, dbase := 0, seq := 0, issuedTo := 0 }] }) })) ⟨1, 32⟩ 0xFF 0 none

theorem witness_exit_handler : ∃ s c j e o, Issues s c .exitW ∧ c.grp.role ≠ .producer ∧ AllDone s c ∧ c.grp.flt.pending = [] ∧ c.stuffed = none ∧
    (s.fenceAt c.quarter 9).group? c.ref = some c.grp ∧
    c.grp.role = .handler ∧ c.act.getLsbD j = true ∧ j < 32 ∧ c.grp.origins[j]? = some e ∧ e.group ≠ c.ref.g ∧
      (s.fenceAt c.quarter 9).group? ⟨c.ref.team, e.group⟩ = some o ∧ e.lane / 4 < o.slices.length ∧ e.lane < 32 ∧
      (o.slice (e.lane / 4)).wait = .onTrap ∧ (o.slice (e.lane / 4)).trapped.getLsbD (e.lane % 4) = true := by
  obtain ⟨c, h, q, r1, r2, r3, r4, r5⟩ := okP (s := handling) (i := .exitW) (P := fun c => exitOk handling c = true ∧ c.grp.role = .handler ∧ c.act.getLsbD 0 = true ∧
    c.grp.origins[0]? = some { cycle := 0, group := 0, lane := 0, pc := 0, code := 2, operand := 0, dest := none, dbase := 0, seq := 0, issuedTo := 0 } ∧ 0 ≠ c.ref.g ∧
    ((handling.fenceAt c.quarter 9).group? ⟨c.ref.team, 0⟩).any (fun o => decide (0 < o.slices.length) && decide ((o.slice 0).wait = .onTrap) &&
      (o.slice 0).trapped.getLsbD 0) = true) (by decide +kernel)
  have q := of_decide_eq_true q
  rw [Option.any_eq_true] at r5
  obtain ⟨o, ho, w⟩ := r5
  simp only [Bool.and_eq_true, decide_eq_true_eq] at w
  exact ⟨_, c, 0, _, o, h, q.1, q.2.1, q.2.2.1, q.2.2.2.1, q.2.2.2.2, r1, r2, by decide, r3, r4, ho, w.1.1, by decide, w.1.2, w.2⟩
/-! ### Copies, EMIT, system words, hints and words that are refused -/

/-- The physical pages from 0 on under an identity leaf: what a read of n bytes at an address needs. -/
def readOk (s : State) (c : Cx) (via : Via) (va n v : Nat) : Bool :=
  decide ((s.vRead c.core c.team.shape.ctx (c.level == 0) via va n).2 = .ok v) &&
    ((s.vRead c.core c.team.shape.ctx (c.level == 0) via va n).1.group? c.ref).isSome

theorem readOk_spec {s : State} {c : Cx} {via : Via} {va n v : Nat} (h : readOk s c via va n v = true) : ∃ s1 g1,
    s.vRead c.core c.team.shape.ctx (c.level == 0) via va n = (s1, .ok v) ∧ s1.group? c.ref = some g1 := by
  simp only [readOk, Bool.and_eq_true, decide_eq_true_eq] at h
  obtain ⟨g1, hg⟩ := some_of h.2
  exact ⟨_, g1, Prod.ext rfl h.1, hg⟩

theorem witness_copy_word : ∃ s s1 c i form a w q card g1, CopyWord i form a w q ∧ Issues s c i ∧ copyHeld c s (sc c a).toNat = false ∧
    (sc c a).toNat % 64 = 0 ∧ (sc c a).toNat < 2 ^ 56 ∧
    s.vRead c.core c.team.shape.ctx (c.level == 0) .touching (sc c a).toNat 64 = (s1, .ok card) ∧ s1.group? c.ref = some g1 := by
  obtain ⟨c, h, q1, q2, q3, q4⟩ := okP (s := ready 0 (gs 1 0x40 ∘ fun g => { g with role := .producer })) (i := .cpy 1 3 1) (P := fun c =>
    copyHeld c (ready 0 (gs 1 0x40 ∘ fun g => { g with role := .producer })) (sc c (1#5)).toNat = false ∧ (sc c (1#5)).toNat % 64 = 0 ∧
    (sc c (1#5)).toNat < 0x100000000000000 ∧
    readOk (ready 0 (gs 1 0x40 ∘ fun g => { g with role := .producer })) c .touching (sc c (1#5)).toNat 64 0 = true) (by decide +kernel)
  obtain ⟨s1, g1, e⟩ := readOk_spec q4
  exact ⟨_, s1, c, _, 0, 1, 3, 1, 0, g1, .cpy 1 3 1, h, q1, q2, q3, e⟩

/-- A record of 64 bytes at 0, and one of 65. -/
theorem witness_emit : (∃ s c a b s1 v g1, Issues s c (.emit a b) ∧ c.stuffed = none ∧ accessHeld s c false false 2 = false ∧
      opsBehind c s (sc c a).toNat 64 = false ∧ (sc c a).toNat % 8 = 0 ∧ 1 ≤ ((sc c b).extractLsb' 16 7).toNat ∧
      ((sc c b).extractLsb' 16 7).toNat ≤ 64 ∧ (sc c b).extractLsb' 23 41 = 0 ∧
      s.vRead c.core c.team.shape.ctx (c.level == 0) .touching (sc c a).toNat ((sc c b).extractLsb' 16 7).toNat = (s1, .ok v) ∧
      s1.group? c.ref = some g1) ∧
    ∃ s c a b, Issues s c (.emit a b) ∧ c.stuffed = none ∧ accessHeld s c false false 2 = false ∧
      opsBehind c s (sc c a).toNat 64 = false ∧ 64 < ((sc c b).extractLsb' 16 7).toNat ∧ c.team.fr.halted = false := by
  constructor
  · obtain ⟨c, h, q1, q2, q3, q4, q5, q6, q7, q8⟩ := okP (s := ready 0 (gs 1 0x40 ∘ gs 2 0x400002)) (i := .emit 1 2) (P := fun c => c.stuffed = none ∧
      accessHeld (ready 0 (gs 1 0x40 ∘ gs 2 0x400002)) c false false 2 = false ∧ opsBehind c (ready 0 (gs 1 0x40 ∘ gs 2 0x400002)) (sc c (1#5)).toNat 64 = false ∧
      (sc c (1#5)).toNat % 8 = 0 ∧ 1 ≤ ((sc c (2#5)).extractLsb' 16 7).toNat ∧
      ((sc c (2#5)).extractLsb' 16 7).toNat ≤ 64 ∧ (sc c (2#5)).extractLsb' 23 41 = 0 ∧
      readOk (ready 0 (gs 1 0x40 ∘ gs 2 0x400002)) c .touching (sc c (1#5)).toNat ((sc c (2#5)).extractLsb' 16 7).toNat 0 = true) (by decide +kernel)
    obtain ⟨s1, g1, e⟩ := readOk_spec q8
    exact ⟨_, c, 1, 2, s1, 0, g1, h, q1, q2, q3, q4, q5, q6, q7, e⟩
  · obtain ⟨c, h, q⟩ := okP (s := ready 0 (gs 1 0x40 ∘ gs 2 0x410002)) (i := .emit 1 2) (P := fun c => c.stuffed = none ∧
      accessHeld (ready 0 (gs 1 0x40 ∘ gs 2 0x410002)) c false false 2 = false ∧ opsBehind c (ready 0 (gs 1 0x40 ∘ gs 2 0x410002)) (sc c (1#5)).toNat 64 = false ∧
      64 < ((sc c (2#5)).extractLsb' 16 7).toNat ∧ c.team.fr.halted = false) (by decide +kernel)
    exact ⟨_, c, 1, 2, h, q⟩

/-- RDSYS of the lowest number and of one that is no register; WRSYS likewise. -/
theorem witness_system_words : (∃ s c d n s1 v g1, Issues s c (.rdsys d n) ∧ s.regRead c.acc n.toNat = some (s1, v) ∧ s1.group? c.ref = some g1) ∧
    (∃ s c d n, Issues s c (.rdsys d n) ∧ s.regRead c.acc n.toNat = none ∧ c.stuffed = none ∧ c.team.fr.halted = false) ∧
    (∃ s c a n, Issues s c (.wrsys a n)) ∧
    (∃ s c k, Issues s c (.haltx k) ∧ c.stuffed = none ∧ c.team.fr.halted = false) ∧
    ∃ s c a s1 g1, Issues s c (.shoot a) ∧
      s1 = s.shootDown (c.polder s) ((sc c a).extractLsb' 0 16) (((sc c a).extractLsb' 16 40).toNat * 65536) ((sc c a).extractLsb' 62 2).toNat ∧
      s1.group? c.ref = some g1 ∧
      s1.usesShot (c.polder s) ((sc c a).extractLsb' 0 16) (((sc c a).extractLsb' 16 40).toNat * 65536) ((sc c a).extractLsb' 62 2).toNat = false := by
  refine ⟨?_, ?_, ?_, ?_, ?_⟩
  · obtain ⟨c, h, q⟩ := okP (s := ready 0 id) (i := .rdsys 1 0) (P := fun c =>
      (((ready 0 id).regRead c.acc (0#12).toNat).any (fun x => (x.1.group? c.ref).isSome)) = true) (by decide +kernel)
    rw [Option.any_eq_true] at q
    obtain ⟨⟨s1, v⟩, e, w⟩ := q
    obtain ⟨g1, hg⟩ := some_of w
    exact ⟨_, c, 1, 0, s1, v, g1, h, e, hg⟩
  · obtain ⟨c, h, q⟩ := okP (s := ready 0 id) (i := .rdsys 1 0xFF) (P := fun c =>
      (ready 0 id).regRead c.acc (0xFF#12).toNat = none ∧ c.stuffed = none ∧ c.team.fr.halted = false) (by decide +kernel)
    exact ⟨_, c, 1, 0xFF, h, q⟩
  · obtain ⟨c, h⟩ := issues_of (s := ready 0 id) (i := .wrsys 1 12) (by decide +kernel); exact ⟨_, c, _, _, h⟩
  · obtain ⟨c, h, q⟩ := okP (s := ready 0 id) (i := .haltx 0xFFFF) (P := fun c => c.stuffed = none ∧ c.team.fr.halted = false) (by decide +kernel)
    exact ⟨_, c, 0xFFFF, h, q⟩
  · obtain ⟨c, h, q1, q2⟩ := okP (s := ready 0 id) (i := .shoot 1) (P := fun c =>
      (((ready 0 id).shootDown (c.polder (ready 0 id)) ((sc c (1#5)).extractLsb' 0 16) (((sc c (1#5)).extractLsb' 16 40).toNat * 65536)
        ((sc c (1#5)).extractLsb' 62 2).toNat).group? c.ref).isSome = true ∧
      ((ready 0 id).shootDown (c.polder (ready 0 id)) ((sc c (1#5)).extractLsb' 0 16) (((sc c (1#5)).extractLsb' 16 40).toNat * 65536)
        ((sc c (1#5)).extractLsb' 62 2).toNat).usesShot (c.polder (ready 0 id)) ((sc c (1#5)).extractLsb' 0 16)
          (((sc c (1#5)).extractLsb' 16 40).toNat * 65536) ((sc c (1#5)).extractLsb' 62 2).toNat = false) (by decide +kernel)
    obtain ⟨g1, hg⟩ := some_of q1
    exact ⟨_, c, 1, _, g1, h, rfl, hg, q2⟩

/-- A copy word's context: a word that is not allowed may stand in it too. -/
theorem context_spec {s : State} {p : Cx → Bool} (h : (cxOf s).any p = true) : ∃ c, cxOf s = some c ∧ p c = true := by
  rwa [Option.any_eq_true] at h

theorem witness_hint : (∃ s c i kind p, cxOf s = some c ∧ HintWord i kind p ∧ c.landed = false ∧ c.stuffed = none) ∧
    (∃ s c i kind p, cxOf s = some c ∧ HintWord i kind p ∧ c.landed = true ∧ c.stuffed = none ∧ c.team.fr.halted = false) ∧
    ∃ s c, cxOf s = some c ∧ c.stuffed = none ∧ c.team.fr.halted = false :=
  let ⟨c, h, q⟩ := context_spec (s := ready 0xFC000005 id) (p := fun c => decide (c.landed = false ∧ c.stuffed = none ∧ c.team.fr.halted = false)) (by decide +kernel)
  let ⟨d, k, r⟩ := context_spec (s := ready 0xFC000005 (fun g => { g with slices := g.slices.map (fun sl => { sl with landed := true }) }))
    (p := fun c => decide (c.landed = true ∧ c.stuffed = none ∧ c.team.fr.halted = false)) (by decide +kernel)
  have q := of_decide_eq_true q
  have r := of_decide_eq_true r
  ⟨⟨_, c, _, _, _, h, .himm 5, q.1, q.2.1⟩, ⟨_, d, _, _, _, k, .himm 5, r⟩, ⟨_, c, h, q.2⟩⟩

/-- A pair at an odd register (03 R116 check 3). -/
theorem witness_failed_check : ∃ s c i code, isEvent i = false ∧ isHint i = false ∧ cxOf s = some c ∧ precheck s c i = some code ∧
    c.stuffed = none ∧ c.team.fr.halted = false :=
  let ⟨c, h, q⟩ := context_spec (s := ready 0 id) (p := fun c => decide (precheck (ready 0 id) c (.iopw 3 2 4 0 0) = some 0x10 ∧
    c.stuffed = none ∧ c.team.fr.halted = false)) (by decide +kernel)
  have q := of_decide_eq_true q
  ⟨_, c, .iopw 3 2 4 0 0, 0x10, rfl, rfl, h, q⟩
/-! ### The matrix unit -/

/-- A word of the matrix unit in a matrix group. -/
def matrixGroup (g : Group) : Group := { g with role := .matrix, acc := List.replicate 16 (List.replicate 256 0) }

theorem witness_queue_word : ∃ s c i a b, QueueWord i a b ∧ Issues s c i ∧ (s.core c.core).mx.length < 16 ∧ s.tlCount c.ref < 31 ∧ MatrixFree s c i a b := by
  obtain ⟨c, h, q1, q2, q3⟩ := okP (s := ready 0 matrixGroup) (i := .obld 1 2 7) (P := fun c => ((ready 0 matrixGroup).core c.core).mx.length < 16 ∧
    (ready 0 matrixGroup).tlCount c.ref < 31 ∧
    ((c.mxEntry (.obld 1 2 7) 1 2).region?).all (fun r => !accessHeld (ready 0 matrixGroup) c false false 0 && !opsBehind c (ready 0 matrixGroup) r.1 r.2) = true)
    (by decide +kernel)
  refine ⟨_, c, .obld 1 2 7, 1, 2, .obld 1 2 7, h, q1, q2, fun lo n e => ?_⟩
  have e' : (c.mxEntry (.obld 1 2 7) 1 2).region? = some (lo, n) := e
  rw [e'] at q3
  simpa using q3

theorem witness_matrix_multiply : ∃ s c i a f r m, MatrixMultiply c i a f r m ∧ Issues s c i ∧ (s.core c.core).mx.length < 16 ∧ s.tlCount c.ref < 31 ∧
    ScalesFree s c i :=
  let ⟨c, h, q1, q2, q3⟩ := okP (s := ready 0 matrixGroup) (i := .mmq 14 48 7 1 1 31 0) (P := fun c => ((ready 0 matrixGroup).core c.core).mx.length < 16 ∧
    (ready 0 matrixGroup).tlCount c.ref < 31 ∧ accessHeld (ready 0 matrixGroup) c false false 0 = false) (by decide +kernel)
  ⟨_, c, _, _, _, _, _, .mmq 14 48 7 1 1 31 0, h, q1, q2, fun _ => q3⟩

/-- MMS needs the hint that names its metadata registers (06 R227). -/
theorem witness_sparse_multiply : ∃ s c i a f r n, MatrixMultiply c i a f r (some n) ∧ Issues s c i :=
  let ⟨c, h⟩ := issues_of (s := ready 0 (matrixGroup ∘ fun g => { g with slices := g.slices.map (fun sl => { sl with hints := [(4, 16)] }) }))
    (i := .mms 14 48 7 1 1 31 0) (by decide +kernel)
  ⟨_, c, _, _, _, _, _, .mms 14 48 7 1 1 31 0, h⟩

theorem witness_accrst : ∃ s c n lab, Issues s c (.accrst n) ∧ (s.core c.core).mx.length < 16 ∧ s.tlCount c.ref < 31 ∧ c.wholeGroup = true ∧
    (∀ k, k < 8 → c.grp.liveSlices.getLsbD k = true → (c.grp.slice k).stack = []) ∧ c.team.shape.restarts[n.toNat]? = some lab := by
  obtain ⟨c, h, q1, q2, q3, q4, q5⟩ := okP (s := teamPrep (fun u => { u with shape := { u.shape with restarts := [4] } }) (ready 0 matrixGroup)) (i := .accrst 0) (P := fun c =>
    ((teamPrep (fun u => { u with shape := { u.shape with restarts := [4] } }) (ready 0 matrixGroup)).core c.core).mx.length < 16 ∧
    (teamPrep (fun u => { u with shape := { u.shape with restarts := [4] } }) (ready 0 matrixGroup)).tlCount c.ref < 31 ∧ c.wholeGroup = true ∧
    allSlices c.grp.liveSlices (fun k => decide ((c.grp.slice k).stack = [])) = true ∧ c.team.shape.restarts = [4#32]) (by decide +kernel)
  exact ⟨_, c, 0, 4, h, q1, q2, q3, fun k hk hm => of_decide_eq_true (allSlices_spec q4 k hk hm), by rw [q5]; rfl⟩

/-- A word of the matrix unit at the head of core 0's queue. -/
def unitEntry (i : Instr) (sa sb : DWord) (sel : Lanes) : MxEntry :=
  { id := 1, team := 1, group := 0, instr := i, pc := 0, hints := [], sel := sel, sa := sa, sb := sb, rows := List.replicate 9 (List.replicate 32 0), metas := [],
    stuffed := none, held := none, got := (0, 0, none), seq := 1 }

/-- A bound record. -/
def boundRec (d : DWord) : ObRec :=
  { bound := true, desc := d, range := List.replicate 256 0, units := List.replicate 4 { tag := none, scales := none }, expected := 0, popped := 0,
    scBase := 0, scShift := 0, scCache := [] }

/-- A machine whose core 0 has one word in its matrix queue, records 0 to 2 bound with no scales, the queue's and the cache's,
record 3 sparse and record 4 of FP64. -/
def unitState (e : MxEntry) : State :=
  let s1 := teamPrep (fun u => { u with obs := ((((u.obs.set 0 (boundRec 0x401)).set 1 (boundRec 0x9401)).set 2 (boundRec 0x11401)).set 3 (boundRec 0xC0401)).set 4 (boundRec 1) }) (ready 0 matrixGroup)
  s1.modCore 0 (fun k => { k with mx := [e], regs := { k.regs with brole := BitVec.allOnes 64 } })

/-- The unit stands before its word, and its team has a property. -/
def unitOk (e : MxEntry) (p : Team → Bool) : Bool :=
  decide (((unitState e).core 0).mx = [e]) && ((unitState e).team? e.team).any (fun u => !(unitState e).waitsFault (.matrix 0 u.id) && p u)

theorem unitOk_spec {e : MxEntry} {p : Team → Bool} (h : unitOk e p = true) : ∃ u, AtUnit (unitState e) 0 e u ∧ p u = true := by
  simp only [unitOk, Bool.and_eq_true, decide_eq_true_eq, Option.any_eq_true, Bool.not_eq_true'] at h
  obtain ⟨h1, u, h2, h3, h4⟩ := h
  exact ⟨u, ⟨⟨[], h1⟩, h2, h3⟩, h4⟩

/-- A reservation of the whole of what is free, 384 granules at most (06 R211, R212). -/
theorem witness_obres : ∃ s core e u a o, AtUnit s core e u ∧ e.instr = .obres a o ∧ (u.obRec o.toNat).bound = false ∧ descOk e.sa = true ∧
    descSize e.sa ≤ s.oFree core ∧ descSize e.sa ≤ s.oGranules core :=
  let e := unitEntry (.obres 1 7) 0x580 0 0
  let ⟨u, h, q⟩ := unitOk_spec (e := e) (p := fun u => decide ((u.obRec 7).bound = false ∧ descOk e.sa = true ∧ descSize e.sa ≤ (unitState e).oFree 0 ∧
    descSize e.sa ≤ (unitState e).oGranules 0)) (by decide +kernel)
  ⟨_, 0, e, u, 1, 7, h, rfl, of_decide_eq_true q⟩

theorem witness_obrel : ∃ s core e u o, AtUnit s core e u ∧ e.instr = .obrel o ∧ (u.obRec o.toNat).bound = true ∧ descSsrc (u.obRec o.toNat).desc ≠ 1 :=
  let e := unitEntry (.obrel 0) 0 0 0
  let ⟨u, h, q⟩ := unitOk_spec (e := e) (p := fun u => decide ((u.obRec 0).bound = true ∧ descSsrc (u.obRec 0).desc ≠ 1)) (by decide +kernel)
  ⟨_, 0, e, u, 0, h, rfl, of_decide_eq_true q⟩

theorem witness_scfifo : ∃ s core e u a o, AtUnit s core e u ∧ e.instr = .scfifo a o ∧ e.sa.toNat < 2 ^ 32 ∧ (u.obRec o.toNat).bound = true ∧
    descSsrc (u.obRec o.toNat).desc = 1 ∧ (u.obRec o.toNat).popped = 0 :=
  let e := unitEntry (.scfifo 1 1) 0xFFFFFFFF 0 0
  let ⟨u, h, q⟩ := unitOk_spec (e := e) (p := fun u => decide ((u.obRec 1).bound = true ∧ descSsrc (u.obRec 1).desc = 1 ∧ (u.obRec 1).popped = 0)) (by decide +kernel)
  ⟨_, 0, e, u, 1, 1, h, rfl, by decide, of_decide_eq_true q⟩

/-- Eight codes. -/
theorem witness_scpush : ∃ s core e u a b, AtUnit s core e u ∧ e.instr = .scpush a b ∧ 1 ≤ (e.sb.extractLsb' 0 4).toNat ∧
    (e.sb.extractLsb' 0 4).toNat ≤ 8 ∧ e.sb.extractLsb' 4 4 = 0 ∧ e.sb.extractLsb' 11 53 = 0 ∧ u.fifo.length + (e.sb.extractLsb' 0 4).toNat ≤ 256 :=
  let e := unitEntry (.scpush 1 2) 0 0x108 0
  let ⟨u, h, q⟩ := unitOk_spec (e := e) (p := fun u => decide (u.fifo.length + (e.sb.extractLsb' 0 4).toNat ≤ 256)) (by decide +kernel)
  ⟨_, 0, e, u, 1, 2, h, rfl, by decide, by decide, by decide, by decide, of_decide_eq_true q⟩

theorem witness_sccache : ∃ s core e u a b, AtUnit s core e u ∧ e.instr = .sccache a b ∧ e.sb.extractLsb' 3 5 = 0 ∧ e.sb.extractLsb' 13 51 = 0 ∧
    (u.obRec (e.sb.extractLsb' 0 3).toNat).bound = true ∧ descSsrc (u.obRec (e.sb.extractLsb' 0 3).toNat).desc = 2 :=
  let e := unitEntry (.sccache 1 2) 0 0x1F02 0
  let ⟨u, h, q⟩ := unitOk_spec (e := e) (p := fun u => decide ((u.obRec (e.sb.extractLsb' 0 3).toNat).bound = true ∧
    descSsrc (u.obRec (e.sb.extractLsb' 0 3).toNat).desc = 2)) (by decide +kernel)
  ⟨_, 0, e, u, 1, 2, h, rfl, by decide, by decide, of_decide_eq_true q⟩

theorem witness_accz : ∃ s core e u k, AtUnit s core e u ∧ e.instr = .accz k :=
  let ⟨u, h, _⟩ := unitOk_spec (e := unitEntry (.accz 15) 0 0 0) (p := fun _ => true) (by decide +kernel)
  ⟨_, 0, _, u, 15, h, rfl⟩

/-- The slot's kibibyte at physical address 1024. -/
theorem witness_accld : ∃ s core e u a k s1 v, AtUnit s core e u ∧ e.instr = .accld a k ∧
    s.vRead core u.shape.ctx (e.app u) .touching (e.sa.toNat / 1024 * 1024) 1024 = (s1, .ok v) :=
  let e := unitEntry (.accld 1 15) 0x7FF 0 0
  let ⟨u, h, q⟩ := unitOk_spec (e := e) (p := fun u => decide (((unitState e).vRead 0 u.shape.ctx (e.app u) .touching (e.sa.toNat / 1024 * 1024) 1024).2 = .ok 0))
    (by decide +kernel)
  ⟨_, 0, e, u, 1, 15, _, 0, h, rfl, Prod.ext rfl (of_decide_eq_true q)⟩

theorem any_ok {α : Type} {x : Option α} {p : α → Bool} (h : x.any p = true) : ∃ a, x = some a ∧ p a = true := by rwa [Option.any_eq_true] at h

/-- ACCST of slot 0 to physical address 1024. -/
def storing : MxEntry := unitEntry (.accst 1 0) 0x400 0 0

/-- What its store answers. -/
def stored (u : Team) (g : Group) : State × Direct := (unitState storing).vWrite 0 u.shape.ctx (storing.app u) .touching (storing.sa.toNat / 1024 * 1024) 1024
  (packElems 32 ((g.acc.getD (0#4).toNat []).map BitVec.toNat))

theorem pair_of {α β : Type} {x : α × β} {b : β} (h : x.2 = b) : x = (x.1, b) := Prod.ext rfl h

theorem witness_accst : ∃ s core e u a k s1 g x, AtUnit s core e u ∧ e.instr = .accst a k ∧ s.group? e.ref = some g ∧ (g.acc.getD k.toNat []).length = 256 ∧
    s.vWrite core u.shape.ctx (e.app u) .touching (e.sa.toNat / 1024 * 1024) 1024 (packElems 32 ((g.acc.getD k.toNat []).map BitVec.toNat)) = (s1, .ok x) := by
  obtain ⟨u, h, q⟩ := unitOk_spec (e := storing) (p := fun u => ((unitState storing).group? storing.ref).any (fun (g : Group) =>
    decide ((g.acc.getD (0#4).toNat []).length = 256) && decide ((stored u g).2 = .ok 0))) (by decide +kernel)
  obtain ⟨g, hg, w⟩ := any_ok q
  rw [Bool.and_eq_true] at w
  exact ⟨unitState storing, 0, storing, u, 1, 0#4, (stored u g).1, g, 0, h, rfl, hg, of_decide_eq_true w.1, pair_of (x := stored u g) (of_decide_eq_true w.2)⟩

theorem readAll {r : ReadOn} (h : (match r with
    | .all 0 none => true
    | _ => false) = true) : r = .all 0 none := by
  split at h
  · rfl
  · cases h

/-- The last unit of a granule. -/
theorem witness_obld : ∃ s core e u a b o r s1 v, AtUnit s core e u ∧ e.instr = .obld a b o ∧ r = u.obRec o.toNat ∧ r.bound = true ∧
    e.sb.extractLsb' 24 8 = 0 ∧ e.sb.extractLsb' 48 16 = 0 ∧
      (e.sb.extractLsb' 0 24).toNat % descUnit r.desc = 0 ∧ 1 ≤ (e.sb.extractLsb' 32 16).toNat ∧ (e.sb.extractLsb' 32 16).toNat ≤ 1536 ∧
      (e.sb.extractLsb' 0 24).toNat + (e.sb.extractLsb' 32 16).toNat * descUnit r.desc ≤ 1024 * descSize r.desc ∧ e.sa.toNat % 256 = 0 ∧
      s.readOn core u.shape.ctx (e.app u) e.sa.toNat ((e.sb.extractLsb' 32 16).toNat * descUnit r.desc) e.got = (s1, .all v none) := by
  obtain ⟨u, h, q⟩ := unitOk_spec (e := unitEntry (.obld 1 2 0) 0x100 0x100000300 0) (p := fun u => decide ((u.obRec 0).bound = true ∧
    (unitEntry (.obld 1 2 0) 0x100 0x100000300 0).sb.extractLsb' 24 8 = 0 ∧ (unitEntry (.obld 1 2 0) 0x100 0x100000300 0).sb.extractLsb' 48 16 = 0 ∧
      ((unitEntry (.obld 1 2 0) 0x100 0x100000300 0).sb.extractLsb' 0 24).toNat % descUnit (u.obRec 0).desc = 0 ∧
      1 ≤ ((unitEntry (.obld 1 2 0) 0x100 0x100000300 0).sb.extractLsb' 32 16).toNat ∧
      ((unitEntry (.obld 1 2 0) 0x100 0x100000300 0).sb.extractLsb' 32 16).toNat ≤ 1536 ∧
      ((unitEntry (.obld 1 2 0) 0x100 0x100000300 0).sb.extractLsb' 0 24).toNat +
        ((unitEntry (.obld 1 2 0) 0x100 0x100000300 0).sb.extractLsb' 32 16).toNat * descUnit (u.obRec 0).desc ≤ 1024 * descSize (u.obRec 0).desc ∧
      (unitEntry (.obld 1 2 0) 0x100 0x100000300 0).sa.toNat % 256 = 0 ∧
      (match ((unitState (unitEntry (.obld 1 2 0) 0x100 0x100000300 0)).readOn 0 u.shape.ctx ((unitEntry (.obld 1 2 0) 0x100 0x100000300 0).app u)
        (unitEntry (.obld 1 2 0) 0x100 0x100000300 0).sa.toNat
        (((unitEntry (.obld 1 2 0) 0x100 0x100000300 0).sb.extractLsb' 32 16).toNat * descUnit (u.obRec 0).desc) (0, 0, none)).2 with
        | .all 0 none => true
        | _ => false) = true)) (by decide +kernel)
  have q := of_decide_eq_true q
  exact ⟨_, 0, _, u, 1, 2, 0, _, _, 0, h, rfl, rfl, q.1, q.2.1, q.2.2.1, q.2.2.2.1, q.2.2.2.2.1, q.2.2.2.2.2.1, q.2.2.2.2.2.2.1, q.2.2.2.2.2.2.2.1,
    pair_of (readAll q.2.2.2.2.2.2.2.2)⟩

/-- The word that multiplies by the last unit of record 0. -/
def multiply : MxEntry := unitEntry (.mmq 0 48 0 1 0 3 0) 0 0 0x80000000

/-- Its scales are none. -/
def multiplyScales (u : Team) : Bool :=
  match (unitState multiply).unitScales u 0 multiply 0 3 with
  | .codes s1 [] => (s1.group? multiply.ref).any (fun g => decide ((g.acc.getD 0 []).length = 256))
  | _ => false

theorem multiplyScales_spec {u : Team} (h : multiplyScales u = true) : ∃ s1 g, (unitState multiply).unitScales u 0 multiply 0 3 = .codes s1 [] ∧
    s1.group? multiply.ref = some g ∧ (g.acc.getD 0 []).length = 256 := by
  simp only [multiplyScales] at h
  split at h
  · obtain ⟨g, hg, w⟩ := any_ok h
    exact ⟨_, g, ‹_›, hg, of_decide_eq_true w⟩
  · simp at h

theorem witness_multiply : ∃ s core e u k a o f x n p r blk s1 cs g, AtUnit s core e u ∧ e.instr = .mmq k a o f x n p ∧ r = u.obRec o.toNat ∧
      blk = ((hintOf e.hints 0).getD 0).toNat * 32 + n.toNat ∧ r.bound = true ∧ descFmt r.desc = f.toNat ∧ descSparse r.desc = 0 ∧ f ≠ 0 ∧
      (blk + 1) * descUnit r.desc ≤ 1024 * descSize r.desc ∧ (descAscale r.desc = true → a.toNat ≤ 48) ∧ e.sel ≠ 0 ∧
      s.unitScales u core e o.toNat blk = .codes s1 cs ∧ s1.group? e.ref = some g ∧ (g.acc.getD k.toNat []).length = 256 := by
  obtain ⟨u, h, q⟩ := unitOk_spec (e := multiply) (p := fun u => decide ((u.obRec 0).bound = true ∧ descFmt (u.obRec 0).desc = 1 ∧
    descSparse (u.obRec 0).desc = 0 ∧ (3 + 1) * descUnit (u.obRec 0).desc ≤ 1024 * descSize (u.obRec 0).desc) && multiplyScales u) (by decide +kernel)
  rw [Bool.and_eq_true] at q
  have w := of_decide_eq_true q.1
  obtain ⟨s1, g, e1, e2, e3⟩ := multiplyScales_spec q.2
  exact ⟨_, 0, multiply, u, 0, 48, 0, 1, 0, 3, 0, _, 3, s1, [], g, h, rfl, rfl, by decide, w.1, w.2.1, w.2.2.1, by decide, w.2.2.2, fun _ => by decide, by decide,
    e1, e2, e3⟩
/-! ### The engines and the events of a group -/

/-- A store of one open sequence. -/
def oneStoreOf : Store :=
  { on := true, pool := false, layers := 1, heads := 1, keyslot := 0, maxSeq := 4, maxPos := 64, npages := 4, poolPa := 0, scalePa := 0,
    privPa := 0, pages := [{ page := 0, shares := 1, prov := false, filled := 2, scale := 0 }],
    seqs := [{ num := 3, committed := 1, writer := none, heads := [{ layer := 0, head := 0, next := 2, entries := [(0, 0, 2)] }] }] }

/-- The engines of polder 0 at work, with one store. -/
def engines (s : State) : State := s.modPolder 0 (fun x => { x with snReady := true, eng := { x.eng with enable := true, stores := [oneStoreOf] } })

theorem witness_tree_word : ∃ s : State, ∃ c i d a b, TreeWord i d a b true ∧ Issues s c i ∧ accessHeld s c true false 2 = false ∧
    ∀ o ∈ s.groupOps c.ref, o.sel &&& ~~~o.served = 0 :=
  let ⟨c, h, q⟩ := okP (s := ready 0 id) (i := .snput 31 30 29) (P := fun c => accessHeld (ready 0 id) c true false 2 = false ∧ (ready 0 id).groupOps c.ref = [])
    (by decide +kernel)
  ⟨_, c, _, _, _, _, .snput 31 30 29, h, q.1, by rw [q.2]; simp⟩

theorem witness_kvmap : ∃ s : State, ∃ c d a b p, Issues s c (.kvmap d a b p) ∧ accessHeld s c true false 0 = false ∧ c.sel p.toNat ≠ 0 :=
  let ⟨c, h, q⟩ := okP (s := ready 0 id) (i := .kvmap 63 2 4 0) (P := fun c => accessHeld (ready 0 id) c true false 0 = false ∧ c.sel (0#3).toNat ≠ 0) (by decide +kernel)
  ⟨_, c, 63, 2, 4, 0, h, q⟩

theorem witness_kvapp : ∃ s : State, ∃ c d a b p, Issues s c (.kvapp d a b p) ∧ accessHeld s c true false 0 = false ∧ c.sel p.toNat ≠ 0 :=
  let ⟨c, h, q⟩ := okP (s := ready 0 id) (i := .kvapp 63 8 4 0) (P := fun c => accessHeld (ready 0 id) c true false 0 = false ∧ c.sel (0#3).toNat ≠ 0) (by decide +kernel)
  ⟨_, c, 63, 8, 4, 0, h, q⟩

/-- A team that holds node 5. -/
def holding (x : DWord) : State := engines (teamPrep (fun u => { u with holds := [5] }) (ready 0 (gs 1 x)))

theorem witness_snrel : (∃ s : State, ∃ c a s1 g1, Issues s c (.snrel a) ∧ (s.polder (c.polder s)).snReady = true ∧ (s.polder (c.polder s)).eng.enable = true ∧
      s1 = s.unholdNode (c.polder s) ((sc c (a.setWidth 5)).toNat % 2 ^ 22) ∧ s1.group? c.ref = some g1 ∧
      (sc c (a.setWidth 5)).toNat < 2 ^ 30 ∧ ((sc c (a.setWidth 5)).toNat % 2 ^ 22) ∈ c.team.holds) ∧
    (∃ s : State, ∃ c a, Issues s c (.snrel a) ∧ (s.polder (c.polder s)).snReady = true ∧ (s.polder (c.polder s)).eng.enable = true ∧
      ((sc c (a.setWidth 5)).toNat % 2 ^ 22) ∉ c.team.holds) ∧
    ∃ s : State, ∃ c a, Issues s c (.snrel a) ∧ (s.polder (c.polder s)).snReady = true ∧ (s.polder (c.polder s)).eng.enable = true ∧
      0x40000000 ≤ (sc c (a.setWidth 5)).toNat := by
  refine ⟨?_, ?_, ?_⟩
  · obtain ⟨c, h, q1, q2, q3, q4, q5⟩ := okP (s := holding 5) (i := .snrel 1) (P := fun c => ((holding 5).polder (c.polder (holding 5))).snReady = true ∧
      ((holding 5).polder (c.polder (holding 5))).eng.enable = true ∧
      (((holding 5).unholdNode (c.polder (holding 5)) ((sc c ((1#6).setWidth 5)).toNat % 2 ^ 22)).group? c.ref).isSome = true ∧
      (sc c ((1#6).setWidth 5)).toNat < 2 ^ 30 ∧ ((sc c ((1#6).setWidth 5)).toNat % 2 ^ 22) ∈ c.team.holds) (by decide +kernel)
    obtain ⟨g1, hg⟩ := some_of q3
    exact ⟨_, c, 1#6, _, g1, h, q1, q2, rfl, hg, q4, q5⟩
  · obtain ⟨c, h, q⟩ := okP (s := holding 6) (i := .snrel 1) (P := fun c => ((holding 6).polder (c.polder (holding 6))).snReady = true ∧
      ((holding 6).polder (c.polder (holding 6))).eng.enable = true ∧ ((sc c ((1#6).setWidth 5)).toNat % 2 ^ 22) ∉ c.team.holds) (by decide +kernel)
    exact ⟨_, c, 1#6, h, q⟩
  · obtain ⟨c, h, q⟩ := okP (s := holding 0x40000005) (i := .snrel 1) (P := fun c => ((holding 0x40000005).polder (c.polder (holding 0x40000005))).snReady = true ∧
      ((holding 0x40000005).polder (c.polder (holding 0x40000005))).eng.enable = true ∧ 0x40000000 ≤ (sc c ((1#6).setWidth 5)).toNat) (by decide +kernel)
    exact ⟨_, c, 1#6, h, q⟩

theorem witness_kvfree : ∃ s : State, ∃ c a s1 g1, Issues s c (.kvfree a) ∧ (s.polder (c.polder s)).snReady = true ∧ (s.polder (c.polder s)).eng.enable = true ∧
    (s.store (c.polder s) ((sc c (a.setWidth 5)).toNat / 2 ^ 28)).on = true ∧
    s1 = s.freeSeq (c.polder s) ((sc c (a.setWidth 5)).toNat / 2 ^ 28) ((sc c (a.setWidth 5)).toNat % 2 ^ 28) ∧ s1.group? c.ref = some g1 := by
  obtain ⟨c, h, q1, q2, q3, q4⟩ := okP (s := holding 3) (i := .kvfree 1) (P := fun c => ((holding 3).polder (c.polder (holding 3))).snReady = true ∧
    ((holding 3).polder (c.polder (holding 3))).eng.enable = true ∧
    ((holding 3).store (c.polder (holding 3)) ((sc c ((1#6).setWidth 5)).toNat / 2 ^ 28)).on = true ∧
    (((holding 3).freeSeq (c.polder (holding 3)) ((sc c ((1#6).setWidth 5)).toNat / 2 ^ 28) ((sc c ((1#6).setWidth 5)).toNat % 2 ^ 28)).group? c.ref).isSome = true)
    (by decide +kernel)
  obtain ⟨g1, hg⟩ := some_of q4
  exact ⟨_, c, 1#6, _, g1, h, q1, q2, q3, rfl, hg⟩

/-- An operation that its engine has still to perform. -/
def engineOp (i : Instr) (several : Bool) (sel : Lanes) (sa sb : DWord) : MemOp :=
  { oneOp (.engine several) 0 32 with instr := i, sel := sel, sa := sa, sb := sb, vas := [], locs := [] }

/-- It stands at its engine. -/
def engineState (o : MemOp) : State := { engines (ready 0 id) with ops := [o] }

/-- AtEngine, as a test. -/
def engineOkAt (s : State) (o : MemOp) (p : Team → Bool) : Bool :=
  decide (o.id = 7 ∧ s.op? 7 = some o ∧ o.kind.isEngine = true ∧ s.polderOf (quarterOf 0) = 0 ∧ (s.polder 0).snReady = true ∧
    o.sel &&& ~~~o.served ≠ 0 ∧ o.written = 0 ∧ o.page = none ∧ s.groupOps o.ref = [o] ∧
    (s.mxAccesses o.ref).isEmpty = true ∧ s.engUnread 0 = false ∧ (s.engStart 0).appending 0 o = false) &&
  (s.team? o.team).any (fun u => decide (u.core? = some 0 ∧ (s.engStart 0).behindSeq 0 u o = false) && p u)

theorem engineOkAt_spec {s : State} {o : MemOp} {p : Team → Bool} (h : engineOkAt s o p = true) : ∃ u, AtEngine s 0 7 o u 0 ∧ p u = true := by
  simp only [engineOkAt, Bool.and_eq_true] at h
  obtain ⟨h1, h2⟩ := h
  obtain ⟨a, b, d, e, f, g, i, j, k, m, n, l⟩ := of_decide_eq_true h1
  obtain ⟨u, hu, w⟩ := any_ok h2
  rw [Bool.and_eq_true] at w
  have v := of_decide_eq_true w.1
  refine ⟨u, ⟨b, a, d, hu, v.1, e, f, g, i, j, ?_, n, v.2, l, fun x hx => by rw [List.isEmpty_iff.mp m] at hx; cases hx⟩, w.2⟩
  rw [k]
  intro x hx he
  simp only [List.mem_singleton] at hx
  rw [hx, d] at he
  simp at he

/-- At an engine that is on. -/
def engineOk (o : MemOp) (p : Team → Bool) : Bool := engineOkAt (engineState o) o p

theorem engineOk_spec {o : MemOp} {p : Team → Bool} (h : engineOk o p = true) : ∃ u, AtEngine (engineState o) 0 7 o u 0 ∧ p u = true := engineOkAt_spec h

theorem witness_kvmap_performed : ∃ s : State, ∃ p id o u core d a b g, AtEngine s p id o u core ∧ o.instr = .kvmap d a b g ∧ o.vals.length = 32 ∧ o.served = 0 :=
  let ⟨u, h, _⟩ := engineOk_spec (o := engineOp (.kvmap 1 2 4 0) false 0xFFFFFFFF 0 0) (p := fun _ => true) (by decide +kernel)
  ⟨_, 0, 7, _, u, 0, 1, 2, 4, 0, h, rfl, by decide, rfl⟩

/-- The sequence that KVCOMMIT of 3 names, and what it holds. -/
theorem witness_kvcommit (n : Nat) (hn : n = 2 ∨ n = 3 ∨ n = 0) : ∃ s : State, ∃ p id o u core a b q, AtEngine s p id o u core ∧ o.instr = .kvcommit a b ∧
    o.vals.length = 32 ∧ o.sel = 1 ∧ (s.polder p).eng.enable = true ∧ (s.store p 0).on = true ∧ o.sa.toNat % 2 ^ 28 < (s.store p 0).maxSeq ∧
    o.sa.toNat % 2 ^ 32 / 2 ^ 28 = 0 ∧
    (s.store p 0).seq? (o.sa.toNat % 2 ^ 28) = some q ∧ 0 < (s.polder p).eng.stores.length ∧ o.sb.toNat = n ∧ q.committed = 1 ∧
    (s.store p 0).layers = 1 ∧ (s.store p 0).heads = 1 ∧ (q.head 0 0).next = 2 := by
  have : ∀ n ∈ [2, 3, 0], engineOk (engineOp (.kvcommit 1 2) true 1 3 (BitVec.ofNat 64 n)) (fun _ =>
      let s := engineState (engineOp (.kvcommit 1 2) true 1 3 (BitVec.ofNat 64 n))
      decide ((s.polder 0).eng.enable = true ∧ (s.store 0 0).on = true ∧ (3#64).toNat % 2 ^ 28 < (s.store 0 0).maxSeq ∧ 0 < (s.polder 0).eng.stores.length ∧
        (BitVec.ofNat 64 n).toNat = n ∧ (s.store 0 0).layers = 1 ∧ (s.store 0 0).heads = 1) &&
      ((s.store 0 0).seq? ((3#64).toNat % 2 ^ 28)).any (fun q => decide (q.committed = 1 ∧ (q.head 0 0).next = 2))) = true := by decide +kernel
  obtain ⟨u, h, w⟩ := engineOk_spec (this n (by simpa using hn))
  rw [Bool.and_eq_true] at w
  obtain ⟨w1, w2, w3, w4, w5, w6, w7⟩ := of_decide_eq_true w.1
  obtain ⟨q, hq, x⟩ := any_ok w.2
  have x := of_decide_eq_true x
  exact ⟨_, 0, 7, _, u, 0, 1, 2, q, h, rfl, rfl, rfl, w1, w2, w3, (by decide : (3#64).toNat % 2 ^ 32 / 2 ^ 28 = 0), hq, w4, w5, x.1, w6, w7, x.2⟩

theorem witness_bad_reference : ∃ s : State, ∃ p id o u core d a b, AtEngine s p id o u core ∧ o.instr = .snput d a b ∧ 2 ^ 30 ≤ o.sb.toNat ∧ o.vals.length = 32 ∧ o.sel = 1 :=
  let ⟨u, h, _⟩ := engineOk_spec (o := engineOp (.snput 1 2 3) true 1 0 0x40000000) (p := fun _ => true) (by decide +kernel)
  ⟨_, 0, 7, _, u, 0, 1, 2, 3, h, rfl, by decide, by decide, rfl⟩

/-- The group of `ready`, prepared. -/
def grouped (prep : Group → Group) : State := ready 0 prep

/-- All of its slices changed. -/
def allSl (f : Slice → Slice) (g : Group) : Group := { g with slices := g.slices.map f }

/-- A group with a property. -/
theorem group_of {s : State} {p : Group → Bool} (h : (s.group? ⟨1, 0⟩).any p = true) : ∃ x, s.group? ⟨1, 0⟩ = some x ∧ p x = true := any_ok h

/-- A join that is met, and one that is not. -/
theorem witness_join : (∃ s : State, ∃ x lab depths rest, s.group? ⟨1, 0⟩ = some x ∧ x.ctl.joins = (lab, depths) :: rest ∧ JoinMet x lab ∧ x.slices.length = 8) ∧
    ∃ s : State, ∃ x lab depths rest, s.group? ⟨1, 0⟩ = some x ∧ x.ctl.joins = (lab, depths) :: rest ∧ ¬ JoinMet x lab := by
  constructor
  · obtain ⟨x, h, q⟩ := group_of (s := grouped (fun g => allSl (fun sl => { sl with wait := .atJoin }) { g with ctl := { g.ctl with joins := [(0, List.replicate 8 0)] } }))
      (p := fun x => decide (x.ctl.joins = [(0, List.replicate 8 0)] ∧ x.slices.length = 8 ∧ (x.slice 0).live = true) &&
        allSlices 0xFF (fun k => decide ((x.slice k).wait = .atJoin ∧ (x.slice k).pc = 0))) (by decide +kernel)
    rw [Bool.and_eq_true] at q
    obtain ⟨q1, q2, q3⟩ := of_decide_eq_true q.1
    refine ⟨_, x, 0, List.replicate 8 0, [], h, q1, ⟨⟨0, by decide, q3⟩, fun k hk _ => ?_⟩, q2⟩
    exact of_decide_eq_true (allSlices_spec q.2 k hk ((by decide : ∀ k, k < 8 → (0xFF#8).getLsbD k = true) k hk))
  · obtain ⟨x, h, q⟩ := group_of (s := grouped (fun g => { g with ctl := { g.ctl with joins := [(0, List.replicate 8 0)] } }))
      (p := fun x => decide (x.ctl.joins = [(0, List.replicate 8 0)] ∧ (x.slice 7).live = true ∧ (x.slice 7).wait = .running)) (by decide +kernel)
    obtain ⟨q1, q2, q3⟩ := of_decide_eq_true q
    exact ⟨_, x, 0, List.replicate 8 0, [], h, q1, fun m => by have := (m.2 7 (by decide) q2).1; rw [q3] at this; exact absurd this (by decide)⟩

theorem witness_rcv_release : (∃ s : State, ∃ x at_ k, s.group? ⟨1, 0⟩ = some x ∧ RcvMet x at_ k) ∧ ∃ s : State, ∃ x at_ k, s.group? ⟨1, 0⟩ = some x ∧ k < x.slices.length ∧ ¬ RcvMet x at_ k := by
  constructor
  · obtain ⟨x, h, q⟩ := group_of (s := grouped (allSl (fun sl => { sl with wait := .atRcv, partners := [] })))
      (p := fun x => decide (7 < x.slices.length ∧ (x.slice 7).live = true ∧ (x.slice 7).wait = .atRcv ∧ (x.slice 7).pc = 0 ∧ (x.slice 7).partners = [])) (by decide +kernel)
    obtain ⟨q1, q2, q3, q4, q5⟩ := of_decide_eq_true q
    exact ⟨_, x, 0, 7, h, by decide, q1, q2, q3, q4, by rw [q5]; simp⟩
  · obtain ⟨x, h, q⟩ := group_of (s := grouped id) (p := fun x => decide (7 < x.slices.length ∧ (x.slice 7).wait = .running)) (by decide +kernel)
    obtain ⟨q1, q2⟩ := of_decide_eq_true q
    exact ⟨_, x, 0, 7, h, q1, fun m => by have := m.2.2.2.1; rw [q2] at this; exact absurd this (by decide)⟩

/-- A timer at its deadline, and one that is off. -/
theorem witness_timer : (∃ s : State, ∃ x core, s.group? ⟨1, 0⟩ = some x ∧ (s.team? 1).bind Team.core? = some core ∧ TimerMet x s.tick) ∧
    ∃ s : State, ∃ x core, s.group? ⟨1, 0⟩ = some x ∧ (s.team? 1).bind Team.core? = some core ∧ ¬ TimerMet x s.tick := by
  constructor
  · obtain ⟨x, h, q⟩ := group_of (s := grouped (fun g => { g with ctl := { g.ctl with timer := timerFor true 0 0 |> fun t => { t with armed := true, wall := true } } }))
      (p := fun x => decide (x.ctl.timer = { armed := true, wall := true, deadline := 0, late := false })) (by decide +kernel)
    have q := of_decide_eq_true q
    exact ⟨_, x, 0, h, by decide +kernel, by rw [q], by rw [q]; exact ⟨Nat.zero_le _, by simp⟩⟩
  · obtain ⟨x, h, q⟩ := group_of (s := grouped id) (p := fun x => decide (x.ctl.timer.armed = false)) (by decide +kernel)
    have q := of_decide_eq_true q
    exact ⟨_, x, 0, h, by decide +kernel, fun m => by have := m.1; rw [q] at this; exact absurd this (by decide)⟩

theorem witness_yield : ∃ s : State, ∃ x u, s.group? ⟨1, 0⟩ = some x ∧ x.ctl.yieldUntil = some u :=
  let ⟨x, h, q⟩ := group_of (s := grouped (fun g => { g with ctl := { g.ctl with yieldUntil := some 0 } })) (p := fun x => decide (x.ctl.yieldUntil = some 0)) (by decide +kernel)
  ⟨_, x, 0, h, of_decide_eq_true q⟩

/-- A trapped lane 0 of group 0. -/
def trapped : TrapEntry := { cycle := 0, group := 0, lane := 0, pc := 0, code := 2, operand := 0, dest := none, dbase := 0, seq := 0, issuedTo := 0 }

/-- A team whose collector holds 33 entries. -/
def collecting : State := teamPrep (fun u => { u with traps := List.replicate 33 trapped, fr := { u.fr with tvValid := true, tvOffset := 60 } }) (ready 0 id)

theorem witness_handler_formation : ∃ s : State, ∃ x u core, s.group? ⟨1, 0⟩ = some x ∧ s.team? 1 = some u ∧ u.core? = some core ∧ u.collects s.cycle = true ∧
    u.fr.halted = false ∧ u.ended = false ∧ (∀ v ∈ s.residents core, v.handler = none ∧ (v.id = 1 ∨ v.collects s.cycle = false)) ∧
    u.fr.tvValid = true ∧ u.inCode u.fr.tvOffset.toNat = true ∧
    ∀ e rest, sortTraps u.traps = e :: rest → ∃ s1, s.putHandler core u (handlerOf ((e :: rest).take 32) u.fr.tvOffset) = some s1 ∧ s1.team? 1 = some u := by
  obtain ⟨x, hx⟩ := some_of (x := collecting.group? ⟨1, 0⟩) (by decide +kernel)
  obtain ⟨u, h, q⟩ := any_ok (x := collecting.team? 1) (p := fun u => decide (u.core? = some 0 ∧ u.collects collecting.cycle = true ∧
    u.fr.halted = false ∧ u.ended = false ∧ (∀ v ∈ collecting.residents 0, v.handler = none ∧ (v.id = 1 ∨ v.collects collecting.cycle = false)) ∧
    u.fr.tvValid = true ∧ u.inCode u.fr.tvOffset.toNat = true ∧ u.shape.ctx = none)) (by decide +kernel)
  obtain ⟨a, b, d, e, f, g, i, j⟩ := of_decide_eq_true q
  exact ⟨_, x, u, 0, hx, h, a, b, d, e, f, g, i, fun _ _ _ => ⟨_, by rw [State.putHandler, j]; rfl, h⟩⟩

/-- The last lane of the last slice, disposed of with a value for the last line. -/
theorem witness_trap_release : (∃ s : State, ∃ x u core m k l kill line v, s.group? ⟨1, 0⟩ = some x ∧ s.team? 1 = some u ∧ u.core? = some core ∧ u.fr.halted = false ∧
      k < 8 ∧ k < x.slices.length ∧ m.getLsbD k = true ∧ Disposed (x.slice k) ∧ (x.slice k).dispAt < s.cycle ∧
      (∀ d ∈ (x.slice k).disps, ∀ line v, d.2.2 = some (line, v) → x.resident.getD line.toNat false = true) ∧
      m = (1#8) <<< k ∧ (x.slice k).disps = [(l, kill, some (line, v))] ∧ l < 4 ∧ line.toNat < x.lines.length) ∧
    ∃ s : State, ∃ x u, s.group? ⟨1, 0⟩ = some x ∧ s.team? 1 = some u ∧ u.fr.halted = true := by
  constructor
  · obtain ⟨x, h, q⟩ := group_of (s := { grouped (allSl (fun sl => { sl with wait := .onTrap, trapped := 8, disps := [(3, false, some (63, 9))] })) with cycle := 1 })
      (p := fun x => decide (7 < x.slices.length ∧ (x.slice 7).wait = .onTrap ∧ (x.slice 7).live = true ∧ (x.slice 7).trapped = 8 ∧
        (x.slice 7).disps = [(3, false, some (63, 9))] ∧ 63 < x.lines.length ∧ (x.slice 7).dispAt = 0 ∧ x.resident.getD 63 false = true)) (by decide +kernel)
    obtain ⟨q1, q2, q3, q4, q5, q6, q7, q8⟩ := of_decide_eq_true q
    obtain ⟨u, hu, r⟩ := any_ok (x := State.team? { grouped (allSl (fun sl => { sl with wait := .onTrap, trapped := 8, disps := [(3, false, some (63, 9))] })) with cycle := 1 } 1)
      (p := fun u => decide (u.core? = some 0 ∧ u.fr.halted = false)) (by decide +kernel)
    obtain ⟨r1, r2⟩ := of_decide_eq_true r
    refine ⟨_, x, u, 0, 0x80, 7, 3, false, 63, 9, h, hu, r1, r2, by decide, q1, by decide, ⟨q2, q3, fun l hl hm => ?_⟩, by rw [q7]; decide, fun d hd line v e => ?_,
      by decide, q5, by decide, q6⟩
    · rw [q4] at hm
      rw [q5]
      exact ⟨_, List.mem_singleton.mpr rfl, by revert hm; revert l; decide⟩
    · rw [q5, List.mem_singleton] at hd
      rw [hd] at e
      cases e
      exact q8
  · obtain ⟨x, h⟩ := some_of (x := (halting (ready 0 id)).group? ⟨1, 0⟩) (by decide +kernel)
    obtain ⟨u, hu, r⟩ := any_ok (x := (halting (ready 0 id)).team? 1) (p := fun u => u.fr.halted) (by decide +kernel)
    exact ⟨_, x, u, h, hu, r⟩

/-- The last line of a service kernel's group. -/
theorem witness_line_fill : ∃ s : State, ∃ x line core u, s.group? ⟨1, 0⟩ = some x ∧ s.team? 1 = some u ∧ u.core? = some core ∧ line < x.lines.length ∧
    x.resident.length = x.lines.length ∧ x.resident.getD line false = false ∧ (s.linesOn core).length < 256 * roleBanks (s.core core).regs.brole 1 ∧ u.shape.ctx = none := by
  obtain ⟨x, h, q⟩ := group_of (s := grouped (fun g => { g with resident := g.resident.map (fun _ => false) }))
    (p := fun x => decide (63 < x.lines.length ∧ x.resident.length = x.lines.length ∧ x.resident.getD 63 false = false)) (by decide +kernel)
  obtain ⟨q1, q2, q3⟩ := of_decide_eq_true q
  obtain ⟨u, hu, r⟩ := any_ok (x := (grouped (fun g => { g with resident := g.resident.map (fun _ => false) })).team? 1)
    (p := fun u => decide (u.core? = some 0 ∧ u.shape.ctx = none)) (by decide +kernel)
  obtain ⟨r1, r2⟩ := of_decide_eq_true r
  exact ⟨_, x, 63, 0, u, h, hu, r1, q1, q2, q3, by decide +kernel, r2⟩
/-! ### Copies, the spirals, links and regions -/

/-- A job of one row of n bytes from physical address 64 to 128. -/
def jobOf (n : Nat) (st : JobState) (landed : List Nat) : Job :=
  { id := 9, form := 0, cardVa := 0, card := BitVec.ofNat 512 (64 + 128 * 2 ^ 64 + n * 2 ^ 128 + 2 ^ 160), post := none, state := st, landed := landed, batch := none,
    page := none, serviced := [] }

/-- A team with one job. -/
def jobState (j : Job) : State := teamPrep (fun u => { u with jobs := [j] }) (ready 0 id)

/-- Its job is the team's, with a property. -/
def jobOk (j : Job) (p : Team → Bool) : Bool :=
  ((jobState j).team? 1).any (fun u => decide (u.core? = some 0 ∧ u.jobs.find? (fun x => x.id == j.id) = some j) && p u)

theorem jobOk_spec {j : Job} {p : Team → Bool} (h : jobOk j p = true) : ∃ u, (jobState j).team? 1 = some u ∧ u.core? = some 0 ∧
    u.jobs.find? (fun x => x.id == j.id) = some j ∧ p u = true := by
  obtain ⟨u, hu, q⟩ := any_ok h
  rw [Bool.and_eq_true] at q
  obtain ⟨a, b⟩ := of_decide_eq_true q.1
  exact ⟨u, hu, a, b, q.2⟩

theorem witness_job_accept : (∃ s : State, ∃ u j, s.team? 1 = some u ∧ u.core? = some 0 ∧ u.jobs.find? (fun x => x.id == j.id) = some j ∧
      j.state = .issued ∧ j.accepted u = true) ∧
    ∃ s : State, ∃ u j g, s.team? 1 = some u ∧ u.core? = some 0 ∧ u.jobs.find? (fun x => x.id == j.id) = some j ∧
      j.state = .issued ∧ j.accepted u = false ∧ s.group? ⟨1, 0⟩ = some g := by
  constructor
  · obtain ⟨u, a, b, c, d⟩ := jobOk_spec (j := jobOf 0x1000000 .issued []) (p := fun u => (jobOf 0x1000000 .issued []).accepted u) (by decide +kernel)
    exact ⟨_, u, _, a, b, c, rfl, d⟩
  · obtain ⟨u, a, b, c, d⟩ := jobOk_spec (j := jobOf 0x1000001 .issued []) (p := fun u => !(jobOf 0x1000001 .issued []).accepted u) (by decide +kernel)
    obtain ⟨g, hg⟩ := some_of (x := (jobState (jobOf 0x1000001 .issued [])).group? ⟨1, 0⟩) (by decide +kernel)
    exact ⟨_, u, _, g, a, b, c, rfl, by simpa using d, hg⟩

/-- What a job reads of its first byte. -/
def jobRead (u : Team) : State × Direct := (jobOf 2 .running []).readSource (jobState (jobOf 2 .running [])) u 0 0 0 1
/-- What it writes. -/
def jobWrite (u : Team) : State × Direct := (jobOf 2 .running []).writeDest (jobRead u).1 u 0 0 0 1 0

theorem witness_job_land : ∃ s : State, ∃ u j row lo n s1 v s2 y, s.team? 1 = some u ∧ u.core? = some 0 ∧ u.jobs.find? (fun x => x.id == j.id) = some j ∧
    j.mayRun s u = true ∧ 1 ≤ n ∧ lo % j.grain u = 0 ∧ n % j.grain u = 0 ∧ row < j.rows ∧ lo + n ≤ j.rowLen ∧
      j.rowMask row &&& (2 ^ n - 1) * 2 ^ lo = 0 ∧ j.readSource s u 0 row lo n = (s1, .ok v) ∧ j.writeDest s1 u 0 row lo n v = (s2, .ok y) := by
  obtain ⟨u, a, b, c, d⟩ := jobOk_spec (j := jobOf 2 .running []) (p := fun u => (jobOf 2 .running []).mayRun (jobState (jobOf 2 .running [])) u &&
    decide ((jobRead u).2 = .ok 0) && decide ((jobWrite u).2 = .ok 0) && decide ((jobOf 2 .running []).grain u = 1)) (by decide +kernel)
  simp only [Bool.and_eq_true, decide_eq_true_eq] at d
  exact ⟨_, u, _, 0, 0, 1, (jobRead u).1, 0, (jobWrite u).1, 0, a, b, c, d.1.1.1, by decide, by rw [d.2], by rw [d.2], by decide +kernel, by decide +kernel, by decide, pair_of (x := jobRead u) d.1.1.2,
    pair_of (x := jobWrite u) d.1.2⟩

theorem witness_job_complete : (∃ s : State, ∃ u j, s.team? 1 = some u ∧ u.core? = some 0 ∧ u.jobs.find? (fun x => x.id == j.id) = some j ∧
      j.state = .running ∧ j.landedCount = j.declared) ∧
    ∃ s : State, ∃ u j, s.team? 1 = some u ∧ u.core? = some 0 ∧ u.jobs.find? (fun x => x.id == j.id) = some j ∧ j.state = .running ∧ j.landedCount ≠ j.declared := by
  constructor
  · obtain ⟨u, a, b, c, d⟩ := jobOk_spec (j := jobOf 2 .running [3]) (p := fun _ => true) (by decide +kernel)
    exact ⟨_, u, _, a, b, c, rfl, by decide +kernel⟩
  · obtain ⟨u, a, b, c, d⟩ := jobOk_spec (j := jobOf 2 .running [1]) (p := fun _ => true) (by decide +kernel)
    exact ⟨_, u, _, a, b, c, rfl, by decide +kernel⟩

/-- The page of the job's source refused by the driver: a job that reads past the physical addresses of an identity leaf. -/
def badJob : Job := { jobOf 2 .running [] with card := BitVec.ofNat 512 (2 ^ 55 + 128 * 2 ^ 64 + 2 * 2 ^ 128 + 2 ^ 160) }

/-- What it reads. -/
def badRead (u : Team) : State × Direct := badJob.readSource (jobState badJob) u 0 0 0 1

theorem witness_job_stop : ∃ s : State, ∃ u j r lo s1 va, s.team? 1 = some u ∧ u.core? = some 0 ∧ u.jobs.find? (fun x => x.id == j.id) = some j ∧
    j.mayRun s u = true ∧ r < j.rows ∧ lo < j.rowLen ∧ (∀ k, k < r → j.rowMask k = 2 ^ j.rowLen - 1) ∧
      (∀ b, b < lo → j.rowMask r / 2 ^ b % 2 = 1) ∧ j.rowMask r / 2 ^ lo % 2 = 0 ∧ j.grain u = 1 ∧ j.readSource s u 0 r lo 1 = (s1, .deny va) := by
  obtain ⟨u, a, b, c, d⟩ := jobOk_spec (j := badJob) (p := fun u => badJob.mayRun (jobState badJob) u && decide ((badRead u).2 = .deny (2 ^ 55)) && decide (badJob.grain u = 1)) (by decide +kernel)
  simp only [Bool.and_eq_true, decide_eq_true_eq] at d
  exact ⟨_, u, _, 0, 0, (badRead u).1, 2 ^ 55, a, b, c, d.1.1, by decide +kernel, by decide +kernel, by omega, by omega, by decide, d.2, pair_of (x := badRead u) d.1.2⟩

/-- A job that has waited for page 0, in a team of a context whose page tables are empty. -/
def lateJob : Job := { jobOf 2 .running [] with serviced := [0] }
def lateTeam (u : Team) : Team := { u with shape := { u.shape with ctx := some 0 }, jobs := [lateJob] }
def lateState : State := { teamPrep lateTeam (ready 0 id) with ctxs := State.reset.ctxs.map (fun c => { c with live := true }) }
def lateRead (u : Team) : State × Direct := lateJob.readSource lateState u 0 0 0 1

theorem witness_job_unmapped : ∃ s : State, ∃ u j r lo s1 va k, s.team? 1 = some u ∧ u.core? = some 0 ∧ u.jobs.find? (fun x => x.id == j.id) = some j ∧
    j.mayRun s u = true ∧ r < j.rows ∧ lo < j.rowLen ∧ (∀ k, k < r → j.rowMask k = 2 ^ j.rowLen - 1) ∧
      (∀ b, b < lo → j.rowMask r / 2 ^ b % 2 = 1) ∧ j.rowMask r / 2 ^ lo % 2 = 0 ∧ k ≤ 2 ∧ va / 65536 ∈ j.serviced ∧ j.grain u = 1 ∧ j.readSource s u 0 r lo 1 = (s1, .wait k va) := by
  obtain ⟨u, hu, q⟩ := any_ok (x := lateState.team? 1) (p := fun u => decide (u.core? = some 0 ∧ u.jobs.find? (fun x => x.id == lateJob.id) = some lateJob ∧
    lateJob.mayRun lateState u = true ∧ (lateRead u).2 = .wait 1 64 ∧ lateJob.grain u = 1)) (by decide +kernel)
  obtain ⟨a, b, c, d, e⟩ := of_decide_eq_true q
  exact ⟨_, u, _, 0, 0, (lateRead u).1, 64, 1, hu, a, b, c, by decide +kernel, by decide +kernel, by omega, by omega, by decide, by decide, by decide, e, pair_of (x := lateRead u) d⟩

/-- A machine whose local memory is laid out, exposed to the host where `host` says, with a copy of tile 1 in quarter 0. -/
def spirals (host : Bool) (f : Copy → Copy) : State :=
  { (ready 0 id).modQuarter 0 (fun q => { q with chain := [f (copyOf 1)], masks := 1 }) with
    parts := State.reset.parts.map (fun (p : Part) => { p with irBase := p.irBase.set 0 1, irCfg := p.irCfg.set 0 (if host then 0x11F0 else 0x10F0) }) }

theorem spirals_no_fence (host : Bool) (f : Copy → Copy) : NoFence (spirals host f) := by
  have : (ready 0 id).teams.all (fun t => t.allGroups.all (fun g => decide (g.ctl.fence = none))) = true := by decide +kernel
  intro t ht g hg
  exact of_decide_eq_true (List.all_eq_true.mp (List.all_eq_true.mp this t ht) g hg)

theorem spirals_wf (host : Bool) (f : Copy → Copy) : memoryWf (spirals host f) := (by decide +kernel : Memory.wf (ready 0 id).home.cells = true)

theorem spirals_quarters (host : Bool) (f : Copy → Copy) : (spirals host f).quarters.length = 4 := by
  simp only [spirals, State.modQuarter, modAt]
  rw [List.length_modify]
  decide +kernel

/-- A copy that fills, one in motion. -/
theorem witness_fill_and_motion : (∃ s : State, ∃ q tile c, memoryWf s ∧ NoFence s ∧ s.quarters.length = 4 ∧ q < 4 ∧ (s.quarter q).copy? tile = some c ∧
      c.filling = true ∧ c.queue = [] ∧ s.fillHeld q tile = false ∧ s.wbq = [] ∧ s.home.errors = []) ∧
    ∃ s : State, ∃ q tile c m, memoryWf s ∧ NoFence s ∧ s.quarters.length = 4 ∧ q < 4 ∧ (s.quarter q).copy? tile = some c ∧ c.motion = some m :=
  ⟨⟨spirals false (fun c => { c with filling := true, valid := 0 }), 0, 1, { copyOf 1 with filling := true, valid := 0 }, spirals_wf .., spirals_no_fence _ _,
      spirals_quarters .., by decide, by decide +kernel, rfl, rfl, by decide +kernel, by decide +kernel, by decide +kernel⟩,
    ⟨spirals false (fun c => { c with motion := some 4 }), 0, 1, { copyOf 1 with motion := some 4 }, 4, spirals_wf .., spirals_no_fence _ _, spirals_quarters ..,
      by decide, by decide +kernel, rfl⟩⟩

/-- A write-back of tile 1 on its way. -/
def writing : State :=
  let w : WriteBack := { quarter := 0, tile := 1, mask := BitVec.allOnes 4096, data := BitVec.allOnes 32768, tier := 0, keyslot := none, poison := 0 }
  { spirals false id with wbq := [w] }

theorem witness_write_back : ∃ s : State, ∃ n w h, memoryWf s ∧ NoFence s ∧ s.quarters.length = 4 ∧ s.wbq[n]? = some w ∧
    (∀ x ∈ s.wbq.take n, x.tile = w.tile → x.quarter ≠ w.quarter) ∧ w.keyslot = none ∧ (∀ k ∈ s.home.keys, k.1 / 64 ≠ w.tile) ∧
    s.reach w.quarter (4096 * w.tile) w.tier = .home h := by
  have h1 : writing.home.keys = [] := by decide +kernel
  obtain ⟨w, hw, q⟩ := any_ok (x := writing.wbq[0]?) (p := fun (w : WriteBack) => decide (w.keyslot = none ∧ writing.reach w.quarter (4096 * w.tile) w.tier = .home 0)) (by decide +kernel)
  obtain ⟨a, b⟩ := of_decide_eq_true q
  exact ⟨writing, 0, w, 0, spirals_wf false id, spirals_no_fence false id, spirals_quarters false id, hw, by simp, a, by rw [h1]; simp, b⟩

/-- A dirty copy, whose mask is set: a drain request, and drains by age that are due and not. -/
theorem witness_drains : ∃ s : State, ∃ home q, memoryWf s ∧ NoFence s ∧ s.quarters.length = 4 ∧ home < 4 ∧ q < 4 ∧
    ((s.quarter q).copies.map (fun c => c.tile)).Nodup ∧ (∀ c ∈ (s.quarter q).copies, s.wbLost q c = false) ∧ (s.quarter home).masks.getLsbD q = true ∧ s.passes home q = true ∧
    s.cycle < (s.quarter home).maskAge.getD q 0 + 65536 :=
  ⟨spirals false (fun c => { c with dirty := 1 }), 0, 0, spirals_wf .., spirals_no_fence _ _, spirals_quarters .., by decide, by decide, by decide +kernel,
    by decide +kernel, by decide +kernel, by decide +kernel, by decide +kernel⟩

theorem witness_drain_due : ∃ s : State, ∃ home q, memoryWf s ∧ NoFence s ∧ s.quarters.length = 4 ∧ home < 4 ∧ q < 4 ∧
    ((s.quarter q).copies.map (fun c => c.tile)).Nodup ∧ (∀ c ∈ (s.quarter q).copies, s.wbLost q c = false) ∧ (s.quarter home).masks.getLsbD q = true ∧ s.passes home q = true ∧
    (s.quarter home).maskAge.getD q 0 + 65536 ≤ s.cycle := by
  refine ⟨{ spirals false (fun c => { c with dirty := 1 }) with cycle := 65536 }, 0, 0, spirals_wf false (fun c => { c with dirty := 1 }),
    spirals_no_fence false (fun c => { c with dirty := 1 }), spirals_quarters false (fun c => { c with dirty := 1 }), by decide, by decide, ?_, ?_, ?_, ?_, ?_⟩
  all_goals decide +kernel

theorem witness_admission : (∃ s : State, ∃ q, q < 4 ∧ (s.quarter q).frontDone = true ∧ memoryWf s ∧ NoFence s ∧ s.quarters.length = 4) ∧
    ∃ s : State, ∃ q, q < 4 ∧ (s.quarter q).frontDone = false ∧ memoryWf s ∧ NoFence s ∧ s.quarters.length = 4 := by
  refine ⟨⟨{ spirals false id with quarters := (spirals false id).quarters.map (fun q => { q with frontDone := true }) }, 3, by decide, ?_, spirals_wf false id, spirals_no_fence false id, ?_⟩,
    ⟨spirals false id, 3, by decide, ?_, spirals_wf .., spirals_no_fence _ _, spirals_quarters ..⟩⟩
  all_goals decide +kernel

/-- A quarter whose flush runs, and one where none does. -/
theorem witness_flush : (∃ s : State, ∃ q, memoryWf s ∧ NoFence s ∧ s.quarters.length = 4 ∧ (s.quarter q).flush.isSome = true) ∧
    ∃ s : State, ∃ q, memoryWf s ∧ NoFence s ∧ s.quarters.length = 4 ∧ q < 4 ∧ (s.quarter q).flush = none := by
  refine ⟨⟨{ spirals false id with quarters := (spirals false id).quarters.map (fun q => { q with flush := some [1] }) }, 3, spirals_wf false id, spirals_no_fence false id, ?_, ?_⟩,
    ⟨spirals false id, 3, spirals_wf .., spirals_no_fence _ _, spirals_quarters .., by decide, ?_⟩⟩
  all_goals decide +kernel

/-- A byte of exposed local memory, and one that is not exposed. -/
theorem witness_host : (∃ s : State, ∃ pa n, memoryWf s ∧ NoFence s ∧ s.quarters.length = 4 ∧ 1 ≤ n ∧ pa % 4096 + n ≤ 4096 ∧ (∃ q, q < 4 ∧ s.exposed q pa = true) ∧
      s.regionAt pa = none ∧ s.wbq = [] ∧ ∀ k ∈ s.home.keys, k.1 / 64 ≠ pa / 4096) ∧
    ∃ s : State, ∃ pa n, memoryWf s ∧ NoFence s ∧ s.quarters.length = 4 ∧ 1 ≤ n ∧ pa % 4096 + n ≤ 4096 ∧ (∀ q, q < 4 → s.exposed q pa = false) ∧
      (∃ q, q < 4 ∧ (s.rangeAt q pa).isSome = true) ∧ s.regionAt pa = none ∧ s.wbq = [] ∧ ∀ k ∈ s.home.keys, k.1 / 64 ≠ pa / 4096 := by
  refine ⟨⟨spirals true (fun c => { c with dirty := 1 }), 8191, 1, spirals_wf .., spirals_no_fence _ _, spirals_quarters .., by decide, by decide, ⟨3, by decide, ?_⟩, ?_, ?_, ?_⟩,
    ⟨spirals false id, 8191, 1, spirals_wf .., spirals_no_fence _ _, spirals_quarters .., by decide, by decide, ?_, ⟨3, by decide, ?_⟩, ?_, ?_, ?_⟩⟩
  all_goals decide +kernel

/-- A link down, and one up. -/
theorem witness_links : (∃ s : State, ∃ n l, s.links[n]? = some l ∧ l.up = false ∧ s.feature (s.polderOf (n / 4)) 16 = false ∧ s.linkUp n = false) ∧
    (∃ s : State, ∃ n l q, s.links[n]? = some l ∧ l.up = true ∧ l.rxSeq = BitVec.ofNat 12 q ∧ s.feature (s.polderOf (n / 4)) 16 = true ∧ l.tries < 8) ∧
    ∃ s : State, ∃ n : Nat, ∃ l : Link, s.links[n]? = some l ∧ l.up = true ∧ l.tries = 8 :=
  ⟨⟨State.reset, 15, Link.reset, by decide +kernel, rfl, by decide +kernel, by decide +kernel⟩,
    ⟨{ ready 0 id with links := [{ Link.reset with up := true, tries := 7 }] }, 0, { Link.reset with up := true, tries := 7 }, 4096, rfl, rfl, by decide +kernel, by decide +kernel, by decide⟩,
    ⟨{ ready 0 id with links := [{ Link.reset with up := true, tries := 8 }] }, 0, { Link.reset with up := true, tries := 8 }, rfl, rfl, rfl⟩⟩

/-- A leaf of page 0, readable, writable and of user level. -/
def peerLeaf : DWord := 0x119

/-- A machine with a link up, an exported context and its page translated. -/
def peering : State :=
  let s : State := { (ready 0 id).modQuarter 0 (fun q => { q with tlb := [{ asid := 5, vbase := 0, logSize := 16, w0 := peerLeaf, w1 := 0 }] }) with
    links := [{ Link.reset with up := true }], ctxs := [{ Ctx.reset with live := true, peerExp := true, asid := 5 }] }
  { s with dev := { s.dev with readyLink := 0xFFFF, readyDram := 0xFFFF }, polders := s.polders.map (fun (p : Polder) => { p with featOn := (0x3FFFF, 0) }) }

theorem witness_peer_request : ∃ s : State, ∃ n l asid va m x s1 w0 w1 lo pa h, s.links[n]? = some l ∧ s.linkUp n = true ∧ NoFence s ∧
      s.ctxs.findIdx? (fun c => c.live && c.peerExp && c.asid.toNat == asid) = some x ∧ s.quarterLeaf (n / 4) x va = (s1, .leaf w0 w1 lo) ∧
      leafTier w0 = 0 ∧ va % 4096 + m ≤ 4096 ∧ w0.getLsbD 10 = false ∧ w0.getLsbD 11 = false ∧ (permOf w0).allows 2 false = true ∧
      pa = (w0.extractLsb' 12 40).toNat * 4096 + va % 2 ^ lo ∧ pa % 4096 + m ≤ 4096 ∧ s1.reach (n / 4) pa 0 = .home h ∧
      s1.homeReady (n / 4) pa 0 = true ∧ s1.keyFor (n / 4) (some x) (w0, w1) = none ∧ s1.wbq = [] ∧ ∀ k ∈ s1.home.keys, k.1 / 64 ≠ pa / 4096 := by
  have h1 : peering.home.keys = [] := by decide +kernel
  have h2 : NoFence peering := spirals_no_fence false id
  refine ⟨peering, 0, { Link.reset with up := true }, 5, 4092, 4, 0, peering, peerLeaf, 0, 16, 4092, 0, rfl, ?_, h2, ?_, rfl, ?_, ?_, ?_, ?_, ?_, ?_, ?_, ?_, ?_, ?_, ?_, ?_⟩
  all_goals first | (rw [h1]; simp) | decide +kernel

/-- A region in a state. -/
def regionOf (st : RegionState) : Region := { Region.reset with size := 1, state := st }

/-- A machine with one region and its port up or down. -/
def pool (up : Bool) (st : RegionState) (more : List Region) : State :=
  let s := ready 0 id
  { s with regions := regionOf st :: more, parts := s.parts.map (fun (p : Part) => { p with poolUp := up }),
           polders := s.polders.map (fun (p : Polder) => { p with featOn := (0x8000, 0) }), dev := { s.dev with readyPool := 0xF } }

theorem pool_no_fence (up : Bool) (st : RegionState) (more : List Region) : NoFence (pool up st more) := spirals_no_fence false id

theorem witness_regions : (∀ st up, (pool up st []).regions[0]? = some (regionOf st) ∧ (pool up st []).quarters.length = 4 ∧ NoFence (pool up st [])) ∧
    (pool false .fenced []).portUp (regionOf .fenced).port.toNat = false ∧
    ((pool true .fenced [regionOf .online]).portUp (regionOf .fenced).port.toNat = true ∧ (pool true .fenced [regionOf .online]).regionOverlaps 0 = true) ∧
    ((pool true .fenced []).portUp (regionOf .fenced).port.toNat = true ∧ (pool true .fenced []).regionOverlaps 0 = false) ∧
    (pool false .lost []).portUp (regionOf .lost).port.toNat = false ∧ (pool true .lost []).portUp (regionOf .lost).port.toNat = true ∧
    0 < (pool true .online []).parts.length ∧ (regionOf .online).size ≠ 0 := by
  refine ⟨fun st up => ⟨rfl, ?_, pool_no_fence _ _ _⟩, ?_⟩
  · exact (by decide +kernel : (ready 0 id).quarters.length = 4)
  · decide +kernel
/-! ### Polders, queues, launches, placement, contexts and faults -/

/-- A machine whose polder 0 is prepared, over `spirals`. -/
def poldered (host : Bool) (f : Polder → Polder) : State :=
  let s := spirals host id
  { s with polders := s.polders.set 0 (f ((s.polders[0]?).getD Polder.reset)) }

/-- Queue n of a polder with one packet. -/
def queued1 (n : Nat) (x : Polder) : Polder :=
  { x with queues := x.queues.set n { Queue.reset with enable := true, tail := 1, base := 16 } }

theorem witness_sluices : (∃ s : State, ∃ p x, s.polders[p]? = some x ∧ s.present p = true ∧ x.sluice = 0 ∧ s.busyQueue p = none) ∧
    (∃ s : State, ∃ p x, s.polders[p]? = some x ∧ s.present p = true ∧ x.sluice = 0 ∧ s.busyQueue p = some 127) ∧
    (∃ s : State, ∃ p x, s.polders[p]? = some x ∧ x.sluice = 1 ∧ x.sluiceIdle = true ∧ s.busyQueue p = none) ∧
    (∃ s : State, ∃ p x, s.polders[p]? = some x ∧ x.sluice = 1 ∧ x.sluiceIdle = false ∧ s.busyQueue p = none) ∧
    (∃ s : State, ∃ p x, s.polders[p]? = some x ∧ x.sluice = 1 ∧ s.busyQueue p ≠ none) ∧
    (∃ s : State, ∃ p : Nat, ∃ x : Polder, s.polders[p]? = some x ∧ s.present p = true ∧ x.sluice = 2) ∧
    ∃ s : State, ∃ p : Nat, ∃ x : Polder, s.polders[p]? = some x ∧ s.present p = false := by
  have a : ∀ n : Nat, ∀ busy : Bool, n ∈ [0, 1, 2] →
      ((poldered false (fun x => { if busy then queued1 127 x else x with sluice := n })).polders[0]?).any (fun x => decide (x.sluice = n)) = true := by
    intro n busy hn; simp at hn; obtain rfl | rfl | rfl := hn <;> cases busy <;> decide +kernel
  have h (n : Nat) (busy : Bool) (hn : n ∈ [0, 1, 2]) := any_ok (a n busy hn)
  obtain ⟨x6, h6⟩ := some_of (x := State.reset.polders[1]?) (by decide +kernel)
  obtain ⟨x0, e0, q0⟩ := h 0 false (by decide)
  obtain ⟨x1, e1, q1⟩ := h 0 true (by decide)
  obtain ⟨x3, e3, q3⟩ := h 1 true (by decide)
  obtain ⟨x4, e4, q4⟩ := h 2 true (by decide)
  have b (i : Bool) : ((poldered false (fun x => { x with sluice := 1, sluiceIdle := i })).polders[0]?).any (fun x => decide (x.sluice = 1 ∧ x.sluiceIdle = i ∧
      (poldered false (fun x => { x with sluice := 1, sluiceIdle := i })).busyQueue 0 = none)) = true := by cases i <;> decide +kernel
  obtain ⟨x2, e2, q2⟩ := any_ok (b true)
  obtain ⟨x5, e5, q5⟩ := any_ok (b false)
  exact ⟨⟨_, 0, x0, e0, by decide +kernel, of_decide_eq_true q0, by decide +kernel⟩, ⟨_, 0, x1, e1, by decide +kernel, of_decide_eq_true q1, by decide +kernel⟩,
    ⟨_, 0, x2, e2, of_decide_eq_true q2⟩, ⟨_, 0, x5, e5, of_decide_eq_true q5⟩, ⟨_, 0, x3, e3, of_decide_eq_true q3, by decide +kernel⟩,
    ⟨_, 0, x4, e4, by decide +kernel, of_decide_eq_true q4⟩, ⟨_, 1, x6, h6, by decide +kernel⟩⟩

/-- A closed polder of four quarters may become two pairs; while it is open it may not. -/
theorem witness_shapes : (∃ s : State, ∃ q v, q < s.parts.length ∧ s.parts.length = 4 ∧ s.shapeWhy q (BitVec.extractLsb' 4 4 (v : DWord)) = 0) ∧
    ∃ s : State, ∃ q v, q < s.parts.length ∧ s.parts.length = 4 ∧ s.shapeWhy q (BitVec.extractLsb' 4 4 (v : DWord)) ≠ 0 :=
  ⟨⟨{ State.reset with polders := State.reset.polders.map (fun (x : Polder) => { x with sluice := 2 }) }, 3, 0xC0, by decide +kernel, by decide +kernel, by decide +kernel⟩,
    ⟨State.reset, 3, 0xC0, by decide +kernel, by decide +kernel, by decide +kernel⟩⟩

/-- A page to host bias: not exposed, exposed and in device bias, and exposed and already there. -/
theorem witness_bias : (∃ s : State, ∃ p x v, s.polders[p]? = some x ∧ s.present p = true ∧ x.biasOps = none ∧ s.pageExposed p (BitVec.extractLsb' 16 36 (v : DWord)).toNat = false) ∧
    (∃ s : State, ∃ p x v, s.polders[p]? = some x ∧ s.present p = true ∧ x.biasOps = none ∧ BitVec.getLsbD (v : DWord) 62 = true ∧ s.feature p 17 = false) ∧
    (∃ s : State, ∃ p x v, s.polders[p]? = some x ∧ s.present p = true ∧ x.biasOps = none ∧ s.ops = [] ∧ s.pageExposed p (BitVec.extractLsb' 16 36 (v : DWord)).toNat = true ∧ v.getLsbD 62 = true ∧
      s.feature p 17 = true ∧ s.home.hostBias.contains (v.extractLsb' 16 36).toNat ≠ v.getLsbD 62 ∧ NoFence s) ∧
    (∃ s : State, ∃ p x v, s.polders[p]? = some x ∧ s.present p = true ∧ x.biasOps = none ∧ s.pageExposed p (BitVec.extractLsb' 16 36 (v : DWord)).toNat = true ∧ v.getLsbD 62 = false ∧
      s.home.hostBias.contains (v.extractLsb' 16 36).toNat = v.getLsbD 62) ∧
    ∃ s : State, ∃ p : Nat, ∃ x : Polder, s.polders[p]? = some x ∧ x.biasOps.isSome = true := by
  obtain ⟨x, h, i⟩ := any_ok (x := (poldered false id).polders[0]?) (p := fun (x : Polder) => decide (x.biasOps = none)) (by decide +kernel)
  obtain ⟨y, k, j⟩ := any_ok (x := (poldered true (fun x => { x with featOn := (0x20000, 0) })).polders[0]?) (p := fun (x : Polder) => decide (x.biasOps = none)) (by decide +kernel)
  obtain ⟨w, n, o⟩ := any_ok (x := (poldered true (fun x => { x with featOn := (1, 0) })).polders[0]?) (p := fun (x : Polder) => decide (x.biasOps = none)) (by decide +kernel)
  obtain ⟨z, l, m⟩ := any_ok (x := (poldered true (fun x => { x with biasOps := some [] })).polders[0]?) (p := fun (x : Polder) => x.biasOps.isSome) (by decide +kernel)
  exact ⟨⟨_, 0, x, 0, h, by decide +kernel, of_decide_eq_true i, by decide +kernel⟩, ⟨_, 0, w, 0x4000000000000000, n, by decide +kernel, of_decide_eq_true o, by decide, by decide +kernel⟩,
    ⟨_, 0, y, 0x4000000000000000, k, by decide +kernel, of_decide_eq_true j, by decide +kernel, by decide +kernel, by decide, by decide +kernel, by decide +kernel, spirals_no_fence true id⟩,
    ⟨_, 0, y, 0, k, by decide +kernel, of_decide_eq_true j, by decide +kernel, by decide, by decide +kernel⟩, ⟨_, 0, z, l, m⟩⟩

/-- A page in host bias on which a store is still to be performed. -/
def biased : State :=
  let s := poldered true id
  { s with ops := [oneOp .store 0 32], home := { s.home with hostBias := [0] } }

theorem witness_bias_waits : ∃ s : State, ∃ p x v, s.polders[p]? = some x ∧ s.present p = true ∧ x.biasOps = none ∧ s.pageExposed p (BitVec.extractLsb' 16 36 (v : DWord)).toNat = true ∧
    s.home.hostBias.contains (v.extractLsb' 16 36).toNat ≠ v.getLsbD 62 ∧ v.getLsbD 62 = false ∧ s.opsOnPage (v.extractLsb' 16 36).toNat ≠ [] := by
  obtain ⟨x, h, i⟩ := any_ok (x := biased.polders[0]?) (p := fun (x : Polder) => decide (x.biasOps = none)) (by decide +kernel)
  exact ⟨biased, 0, x, 0, h, by decide +kernel, of_decide_eq_true i, by decide +kernel, by decide +kernel, by decide, by decide +kernel⟩

/-- A packet of one team of one vector group, its type and flags given. -/
def packet (kind flags : Nat) : Nat :=
  kind + flags * 256 + 2 ^ 24 + 2 ^ 48 + 2 ^ 64 + 2 ^ 96 + 2 ^ 128 + 64 * 2 ^ 224

/-- Queue 127 of polder 0 offers a packet at physical address 4096. -/
def offering (v : Nat) : State :=
  let s := poldered false (queued1 127)
  { s with home := s.home.setNatAs [] none 4096 256 v, ctxs := s.ctxs.set 0 { Ctx.reset with live := true, polder := 0 } }

/-- It does. -/
def offerOk (v : Nat) : Bool :=
  (offering v).offers 0 127 && decide (((offering v).packetAt 0 127).2 = v) &&
  ((offering v).polders[0]?).any (fun x => (x.queues[127]?).isSome)

theorem offerOk_spec {v : Nat} (h : offerOk v = true) : ∃ s : State, ∃ x k s1, s = offering v ∧ s.polders[0]? = some x ∧ x.queues[127]? = some k ∧ s.offers 0 127 = true ∧
    s.packetAt 0 127 = (s1, v) := by
  simp only [offerOk, Bool.and_eq_true, decide_eq_true_eq] at h
  obtain ⟨⟨h1, h2⟩, h3⟩ := h
  obtain ⟨x, hx, hk⟩ := any_ok h3
  obtain ⟨k, hk⟩ := some_of hk
  exact ⟨_, x, k, _, rfl, hx, hk, h1, pair_of h2⟩

theorem witness_packets : (∀ v ∈ [0, packet 1 0, packet 2 0, packet 3 0, packet 1 0x40], ∃ s : State, ∃ x k s1, s = offering v ∧ s.polders[0]? = some x ∧ x.queues[127]? = some k ∧
      s.offers 0 127 = true ∧ s.packetAt 0 127 = (s1, v)) ∧
    natBytes 0 0 1 = 0 ∧ natBytes (packet 2 0) 0 1 = 2 ∧ 2 < natBytes (packet 3 0) 0 1 ∧
    (natBytes (packet 1 0x40) 0 1 = 1 ∧ packetOk (packet 1 0x40) = false) ∧ ∃ s1 : State, (offering (packet 1 0)).packetAt 0 127 = (s1, packet 1 0) ∧
      natBytes (packet 1 0) 0 1 = 1 ∧ packetOk (packet 1 0) = true ∧ natBytes (packet 1 0) 5 1 + natBytes (packet 1 0) 4 1 ≤ natBytes (packet 1 0) 3 1 ∧
      natBytes (packet 1 0) 8 4 * natBytes (packet 1 0) 12 4 * natBytes (packet 1 0) 16 4 % natBytes (packet 1 0) 6 1 = 0 ∧ linesOk (packet 1 0) = true ∧
      s1.coreCould 0 (natBytes (packet 1 0) 20 2) (natBytes (packet 1 0) 4 1) = true ∧ natBit (natBytes (packet 1 0) 1 1) 2 = false ∧
      natBit (natBytes (packet 1 0) 1 1) 5 = false := by
  have a : ∀ v ∈ [0, packet 1 0, packet 2 0, packet 3 0, packet 1 0x40], offerOk v = true := by decide +kernel
  refine ⟨fun v hv => offerOk_spec (a v hv), by decide, by decide +kernel, by decide +kernel, by decide +kernel, ((offering (packet 1 0)).packetAt 0 127).1, pair_of ?_, ?_⟩
  all_goals decide +kernel

/-- A queue that holds nothing offers nothing. -/
theorem witness_no_offer : ∃ s : State, ∃ p q x k, s.polders[p]? = some x ∧ x.queues[q]? = some k ∧ s.present p = true ∧ s.offers p q = false ∧ q = 127 := by
  obtain ⟨x, hx, hk⟩ := any_ok (x := State.reset.polders[0]?) (p := fun x => (x.queues[127]?).isSome) (by decide +kernel)
  obtain ⟨k, hk⟩ := some_of hk
  exact ⟨_, 0, 127, x, k, hx, hk, by decide +kernel, by decide +kernel, rfl⟩

/-- A launch of one kernel. -/
def launchOf (st : LaunchState) (total made : Nat) : Launch :=
  { id := 40, polder := 0, queue := 0, kind := 1, flags := 0, shape := serviceShape 0 64 0 0 1 64 0, vals := serviceVals 0 0, total := total, made := made, report := 0,
    waitTok := 0, waitVal := 0, sigTok := 0, state := st, looked := false, nodes := [], hold := none, ended := 0, defers := 0, discarded := 0, haltCode := none,
    order := 0, torn := false, refused := none, prev := none, denied := [], skips := 0 }

/-- A machine with one launch. -/
def launching (l : Launch) : State := { engines (spirals false id) with launches := [l] }

/-- What the lookup of its launch finds. -/
def lookupOk (l : Launch) : Bool :=
  match State.lookup l.polder l.vals.pfxTree.toNat ((launching l).tree l.polder l.vals.pfxTree.toNat) (64 * l.polder) l
        (((launching l).tree l.polder l.vals.pfxTree.toNat).ncount + 1) 0 ((launching l).tree l.polder l.vals.pfxTree.toNat).start ((launching l).engStart l.polder) with
  | .found s1 node _ => decide (s1.launch? 40 = some l ∧ EngMet.notReady ∉ ((if node ≠ 0 then s1.holdNode l.polder node else s1).polder l.polder).eng.met)
  | _ => false

theorem lookupOk_spec {l : Launch} (h : lookupOk l = true) : ∃ s1 node m, State.lookup l.polder l.vals.pfxTree.toNat ((launching l).tree l.polder l.vals.pfxTree.toNat) (64 * l.polder) l
        (((launching l).tree l.polder l.vals.pfxTree.toNat).ncount + 1) 0 ((launching l).tree l.polder l.vals.pfxTree.toNat).start ((launching l).engStart l.polder) = .found s1 node m ∧
    s1.launch? 40 = some l ∧ EngMet.notReady ∉ ((if node ≠ 0 then s1.holdNode l.polder node else s1).polder l.polder).eng.met := by
  simp only [lookupOk] at h
  split at h
  · exact ⟨_, _, _, ‹_›, of_decide_eq_true h⟩
  · simp at h

theorem witness_lookup : ∃ s : State, ∃ n l s1 node m, s.launch? n = some l ∧ l.id = n ∧ l.looked = false ∧ s.mayStart l = true ∧ s.waitsFault (.lookup n) = false ∧
    (s.polder l.polder).eng.enable = true ∧ (s.polder l.polder).snReady = true ∧ s.engUnread l.polder = false ∧
      State.lookup l.polder l.vals.pfxTree.toNat (s.tree l.polder l.vals.pfxTree.toNat) (64 * l.polder) l
        ((s.tree l.polder l.vals.pfxTree.toNat).ncount + 1) 0 (s.tree l.polder l.vals.pfxTree.toNat).start (s.engStart l.polder) = .found s1 node m ∧
      s1.launch? n = some l ∧ EngMet.notReady ∉ ((if node ≠ 0 then s1.holdNode l.polder node else s1).polder l.polder).eng.met := by
  obtain ⟨s1, node, m, e⟩ := lookupOk_spec (l := launchOf .waiting 1 0) (by decide +kernel)
  refine ⟨launching (launchOf .waiting 1 0), 40, launchOf .waiting 1 0, s1, node, m, rfl, rfl, rfl, ?_, ?_, ?_, ?_, ?_, e⟩
  all_goals decide +kernel

/-- The report of a complete launch written. -/
def reported : State × Direct :=
  let l := launchOf .complete 1 1
  let s := launching l
  ((s.polderQuarters l.polder).foldl (fun a b => a.release b 9 (a.polderQuarters b)) s).vWrite (64 * l.polder) l.shape.ctx false .bypassing
        l.report.toNat 32 (reportBytes l (l.status false).1 (l.status false).2 s.tick)

theorem witness_launch_complete : (∃ s : State, ∃ n l s1 y, s.launch? n = some l ∧ l.id = n ∧ l.torn = false ∧ l.state = .complete ∧ l.haltCode = none ∧
      ((s.polderQuarters l.polder).foldl (fun a b => a.release b 9 (a.polderQuarters b)) s).vWrite (64 * l.polder) l.shape.ctx false .bypassing
        l.report.toNat 32 (reportBytes l (l.status false).1 (l.status false).2 s.tick) = (s1, .ok y)) ∧
    ∃ s : State, ∃ n l, s.launch? n = some l ∧ l.torn = false ∧ l.state ≠ .complete ∧ s.completes l false = false ∧ s.completes l true = false :=
  ⟨⟨launching (launchOf .complete 1 1), 40, launchOf .complete 1 1, reported.1, 0, rfl, rfl, rfl, rfl, rfl, pair_of (x := reported) (by decide +kernel)⟩,
    ⟨launching (launchOf .running 2 1), 40, launchOf .running 2 1, rfl, rfl, by decide, by decide +kernel, by decide +kernel⟩⟩

/-- A node of a launch, with records. -/
def nodeOf (k slots : Nat) : Node :=
  { num := 2, thresh := 2, timeout := 1, shape := serviceShape 0 64 0 0 1 64 0, kdata := 0, kconst := 0,
    queue := List.replicate k { bytes := 1, len := 8, tick := 0, overflow := none }, created := 0, slotsUsed := List.range slots, relaunch := false }

/-- A running launch with a node; its only team is team 1, which has emitted a record to the node. -/
def emitting (k slots : Nat) (tick : DWord) (e : List Emission) : State :=
  { launching { launchOf .running 1 1 with nodes := [nodeOf k slots] } with
    tick := tick, cycle := 1, emits := e, teams := (ready 0 id).teams.map (fun (t : Team) => { t with launch := some 40 }) }

/-- A record for node 2. -/
def emission : Emission := { cycle := 0, core := 0, team := 1, group := 0, pc := 0, node := 2, bytes := 7, len := 64, pred := none, slices := 0xFF, act := 0xFFFFFFFF }

theorem witness_dispatch : ∃ s : State, ∃ p e u l d, s.emits = [e] ∧ s.team? e.team = some u ∧ s.teamPolder u = p ∧ u.launch.bind s.launch? = some l ∧ l.torn = false ∧
    l.nodes.filter (fun z => z.num == e.node) = [d] ∧ s.stored p < Config.pendingRecords ∧ (s.polder p).dispatched.1 ≠ s.cycle := by
  obtain ⟨u, h, q⟩ := any_ok (x := (emitting 1 0 0 [emission]).team? 1) (p := fun u => decide ((emitting 1 0 0 [emission]).teamPolder u = 0 ∧
    u.launch.bind (emitting 1 0 0 [emission]).launch? = some { launchOf .running 1 1 with nodes := [nodeOf 1 0] } ∧ (emitting 1 0 0 [emission]).stored 0 < Config.pendingRecords))
    (by decide +kernel)
  obtain ⟨a, b, c⟩ := of_decide_eq_true q
  exact ⟨_, 0, emission, u, _, nodeOf 1 0, rfl, h, a, b, rfl, by decide +kernel, c, by decide +kernel⟩

/-- A node with its threshold's records and one slot left, one without, one whose record has stood for its time. -/
theorem witness_node_teams : (∃ s : State, ∃ n m l d, s.launch? n = some l ∧ l.id = n ∧ l.nodes.filter (fun z => z.num == m) = [d] ∧ s.nodeDue l d = 0 ∧ s.nodeLate l d = false) ∧
    (∃ s : State, ∃ n m l d, s.launch? n = some l ∧ l.id = n ∧ l.nodes.filter (fun z => z.num == m) = [d] ∧ s.nodeDue l d ≠ 0 ∧ ∃ j, j < 256 ∧ j ∉ d.slotsUsed) ∧
    ∃ s : State, ∃ n m l d, s.launch? n = some l ∧ l.id = n ∧ l.nodes.filter (fun z => z.num == m) = [d] ∧ s.nodeLate l d = true ∧ ∃ j, j < 256 ∧ j ∉ d.slotsUsed := by
  refine ⟨⟨emitting 1 0 0 [], 40, 2, _, nodeOf 1 0, rfl, rfl, rfl, ?_, ?_⟩, ⟨emitting 2 255 0 [], 40, 2, _, nodeOf 2 255, rfl, rfl, rfl, ?_, 255, by decide, ?_⟩,
    ⟨emitting 1 255 1024 [], 40, 2, _, nodeOf 1 255, rfl, rfl, rfl, ?_, 255, by decide, ?_⟩⟩
  all_goals decide +kernel
/-- A launch under context 0 with one team that waits to be placed, in a polder of one quarter. -/
def placing (f : Team → Team) : State :=
  let l : Launch := { launchOf .running 1 1 with looked := true, shape := { (launchOf .running 1 1).shape with ctx := some 0 } }
  let t := f (Team.make 50 (some 40) none 0 l.shape l.vals 0 0 0 [])
  let s := (launching l).modQuarter 0 (fun q => { q with tlb := [{ asid := 0, vbase := 0, logSize := 21, w0 := peerLeaf, w1 := 0 }] })
  { s with
    teams := [t], ctxs := s.ctxs.set 0 { Ctx.reset with live := true },
    parts := s.parts.mapIdx (fun n (p : Part) => { p with mask := 1#4 <<< n, irCfg := p.irCfg.set 0 0x1010 }) }

/-- It resides on core 0, under an ASID of its own. -/
def filling (asid : BitVec 16) : State :=
  let s := placing (fun t => { t with place := .resident 0 0, linesAt := some 0 })
  { s with ctxs := s.ctxs.set 0 { Ctx.reset with live := true, asid := asid } }

/-- The first line of its group, whose image can be reached, or cannot where the context maps nothing. -/
theorem witness_line_fill_image : (∃ s : State, ∃ x line core u s1 bs, s.group? ⟨50, 0⟩ = some x ∧ s.team? 50 = some u ∧ u.core? = some core ∧ line < x.lines.length ∧
      x.resident.length = x.lines.length ∧ x.resident.getD line false = false ∧ (s.linesOn core).length < 256 * roleBanks (s.core core).regs.brole 1 ∧ u.shape.ctx ≠ none ∧
      s.getImage core u (u.shape.lineOff 0 line) 2 = some (s1, bs) ∧ s1.group? ⟨50, 0⟩ = some x) ∧
    ∃ s : State, ∃ x line core u, s.group? ⟨50, 0⟩ = some x ∧ s.team? 50 = some u ∧ u.core? = some core ∧ line < x.lines.length ∧
      x.resident.length = x.lines.length ∧ x.resident.getD line false = false ∧ (s.linesOn core).length < 256 * roleBanks (s.core core).regs.brole 1 ∧ u.shape.ctx ≠ none ∧
      s.getImage core u (u.shape.lineOff 0 line) 2 = none := by
  have a (n : BitVec 16) (hn : n = 0 ∨ n = 9) : ((filling n).group? ⟨50, 0⟩).any (fun x => ((filling n).team? 50).any (fun u => decide (u.core? = some 0 ∧ 0 < x.lines.length ∧
      x.resident.length = x.lines.length ∧ x.resident.getD 0 false = false ∧ ((filling n).linesOn 0).length < 256 * roleBanks ((filling n).core 0).regs.brole 1 ∧
      u.shape.ctx ≠ none ∧ (if n = 0 then ((filling n).getImage 0 u (u.shape.lineOff 0 0) 2).map (fun r => r.1.group? ⟨50, 0⟩) = some (some x)
        else (filling n).getImage 0 u (u.shape.lineOff 0 0) 2 = none)))) = true := by
    obtain rfl | rfl := hn <;> decide +kernel
  constructor
  · obtain ⟨x, hx, q⟩ := any_ok (a 0 (.inl rfl))
    obtain ⟨u, hu, q⟩ := any_ok q
    obtain ⟨b, c, d, e, f, g, h⟩ := of_decide_eq_true q
    rw [if_pos rfl, Option.map_eq_some_iff] at h
    obtain ⟨⟨s1, bs⟩, h1, h2⟩ := h
    exact ⟨_, x, 0, 0, u, s1, bs, hx, hu, b, c, d, e, f, g, h1, h2⟩
  · obtain ⟨x, hx, q⟩ := any_ok (a 9 (.inr rfl))
    obtain ⟨u, hu, q⟩ := any_ok q
    obtain ⟨b, c, d, e, f, g, h⟩ := of_decide_eq_true q
    rw [if_neg (by decide)] at h
    exact ⟨_, x, 0, 0, u, hx, hu, b, c, d, e, f, g, h⟩

/-- What the distributor finds for it. -/
def placeOk (u : Team) : Bool :=
  let s := (placing id).supply 0
  decide ((placing id).polderOf 0 = 0 ∧ s.placedNow 0 = false ∧ s.candidates 0 = [u] ∧ s.choose 0 u = some 0 ∧ s.clusterOf u = [u] ∧ 1 ≤ u.shape.cluster ∧ u.rank = 0 ∧
    u.records = [] ∧ s.waitsFault (.place u.id) = false ∧ (s.core 0).regs.asleep = false ∧
    (State.imageMissing 0 u (List.range (u.shape.imageBytes / 65536)) s).2 = none ∧ (State.imageMissing 0 u (List.range (u.shape.imageBytes / 65536)) s).1.teams = s.teams)

theorem witness_place : ∃ s : State, ∃ p q u rest c s1, s.polderOf q = p ∧ (s.supply p).placedNow q = false ∧ (s.supply p).candidates p = u :: rest ∧
      (s.supply p).choose p u = some c ∧ quarterOf c = q ∧ (s.supply p).clusterOf u = [u] ∧ 1 ≤ u.shape.cluster ∧ u.rank = 0 ∧ u.records = [] ∧
      (s.supply p).waitsFault (.place u.id) = false ∧ ((s.supply p).core c).regs.asleep = false ∧
      State.imageMissing c u (List.range (u.shape.imageBytes / 65536)) (s.supply p) = (s1, none) ∧ s1.teams = (s.supply p).teams := by
  obtain ⟨u, _, q⟩ := any_ok (x := (placing id).teams[0]?) (p := placeOk) (by decide +kernel)
  simp only [placeOk] at q
  obtain ⟨a, b, c, d, e, f, g, h, i, j, k, l⟩ := of_decide_eq_true q
  exact ⟨placing id, 0, 0, u, [], 0, _, a, b, c, d, rfl, e, f, g, h, i, j, pair_of k, l⟩

/-- A quarter of another polder. -/
theorem witness_place_elsewhere : ∃ s : State, ∃ p q, s.polderOf q ≠ p := ⟨State.reset, 1, 3, by decide +kernel⟩

/-- A candidate skipped once short of 65536 times, and 65536 times. -/
theorem witness_reserved : (∃ s : State, ∃ n u, s.team? n = some u ∧ u.skipped < 65536) ∧
    ∃ s : State, ∃ n u, s.team? n = some u ∧ u.reserved = false ∧ 65536 ≤ u.skipped ∧ (∃ z ∈ s.candidates (s.teamPolder u), z.id = n) ∧
      ∀ z ∈ s.candidates (s.teamPolder u), z.reserved = false := by
  obtain ⟨u, h, q⟩ := any_ok (x := (placing (fun t => { t with skipped := 65535 })).team? 50) (p := fun u => decide (u.skipped = 65535)) (by decide +kernel)
  obtain ⟨v, k, r⟩ := any_ok (x := (placing (fun t => { t with skipped := 65536 })).team? 50) (p := fun u => decide (u.reserved = false ∧ u.skipped = 65536 ∧
    (∃ z ∈ (placing (fun t => { t with skipped := 65536 })).candidates ((placing (fun t => { t with skipped := 65536 })).teamPolder u), z.id = 50) ∧
    ∀ z ∈ (placing (fun t => { t with skipped := 65536 })).candidates ((placing (fun t => { t with skipped := 65536 })).teamPolder u), z.reserved = false)) (by decide +kernel)
  have q := of_decide_eq_true q
  obtain ⟨r1, r2, r3, r4⟩ := of_decide_eq_true r
  exact ⟨⟨_, 50, u, h, by omega⟩, ⟨_, 50, v, k, r1, by omega, r3, r4⟩⟩

/-- Every core full but for core 0's team, which another waits for. -/
def crowded : State :=
  let s := placing id
  let big : Shape := { (launchOf .running 1 1).shape with groups := 32, ctx := some 0 }
  let held := Team.make 51 (some 40) none 0 big (serviceVals 0 0) 0 0 0 []
  let waiting := Team.make 50 (some 40) none 0 big (serviceVals 0 0) 0 0 0 []
  { s with
    teams := [{ held with place := .resident 0 0 }, waiting],
    cores := s.cores.mapIdx (fun n (k : Core) => { k with clk := { k.clk with progress := 4096 }, regs := { k.regs with asleep := decide (n ≠ 0), brole := if n = 0 then k.regs.brole else 0 } }) }

theorem witness_swap : (∃ s : State, ∃ c, s.swapping c = none ∧ (s.core c).clk.swapFor = none ∧ (s.core c).clk.progress < 4096) ∧
    ∃ s : State, ∃ c s1 v, s.swapping c = none ∧ (s.core c).clk.swapFor = none ∧ (s.core c).clk.progress = 4096 ∧ c < s.cores.length ∧ s1 = s.supply (s.polderOf (quarterOf c)) ∧
      s1.waitsFor (s.polderOf (quarterOf c)) c = true ∧ s1.victim c = some v ∧ s1.clusterOf v = [v] ∧ s1.team? v.id = some v ∧
      (s1.incoming (s.polderOf (quarterOf c)) c [v.id]).isSome = true := by
  obtain ⟨v, h, q⟩ := any_ok (x := (crowded.supply 0).victim 0) (p := fun v => decide ((crowded.supply 0).clusterOf v = [v] ∧
    (crowded.supply 0).team? v.id = some v ∧ ((crowded.supply 0).incoming 0 0 [v.id]).isSome = true)) (by decide +kernel)
  obtain ⟨f, g, i⟩ := of_decide_eq_true q
  have d : crowded.polderOf (quarterOf 0) = 0 := by decide +kernel
  refine ⟨⟨State.reset, 255, by decide +kernel, by decide +kernel, by decide +kernel⟩, ⟨crowded, 0, crowded.supply 0, v, by decide +kernel, by decide +kernel, by decide +kernel, by decide +kernel, ?_, ?_, h, f, g, ?_⟩⟩
  · rw [d]
  · rw [d]; decide +kernel
  · rw [d]; exact i

/-- A service kernel that core 255 admits, and core 256, that there is not. -/
theorem witness_service : (∃ s : State, ∃ core code len kd kc pr mx ve bu sc, s.admitsService core (serviceShape code len pr mx ve bu sc) (serviceVals kd kc) = false) ∧
    ∃ s : State, ∃ core code len kd kc pr mx ve bu sc, s.admitsService core (serviceShape code len pr mx ve bu sc) (serviceVals kd kc) = true ∧
      ∀ z ∈ s.teams, z.id ≠ s.dev.nextId :=
  ⟨⟨State.reset, 256, 0, 64, 0, 0, 0, 0, 1, 64, 0, by decide +kernel⟩, ⟨State.reset, 255, 0, 64, 0, 0, 0, 0, 1, 64, 0, by decide +kernel, by decide +kernel⟩⟩

/-- Context 63 of polder 0, prepared. -/
def contexted (busy : Bool) (c : Ctx) (f : State → State) : State :=
  let s := f (spirals false id)
  { s with ctxs := s.ctxs.set 63 c, polders := s.polders.set 0 { Polder.reset with cmdBusy := busy, cmdOp := 7, cmdCtx := 1 } }

/-- Whose state the statement is about. -/
def contextOk (s : State) : Bool := decide (s.polderOf 0 = 0 ∧ 0 < s.polders.length ∧ s.ctxs.length = 64)

/-- The live context of polder 0 with no team. -/
def liveCtx : Ctx := { Ctx.reset with live := true, polder := 0, asid := 9 }

theorem witness_contexts : (contextOk (contexted true liveCtx id) = true ∧ ((contexted true liveCtx id).polder 0).cmdBusy = true ∧
      ((contexted true liveCtx id).polder 0).cmdOp.toNat ≠ 1) ∧
    (contextOk (contexted false Ctx.reset id) = true ∧ ((contexted false Ctx.reset id).polder 0).cmdBusy = false ∧ ((contexted false Ctx.reset id).ctx 63).live = false) ∧
    (contextOk (contexted false { liveCtx with polder := 2 } id) = true ∧ ((contexted false { liveCtx with polder := 2 } id).polder 0).cmdBusy = false ∧
      ((contexted false { liveCtx with polder := 2 } id).ctx 63).live = true ∧ ((contexted false { liveCtx with polder := 2 } id).ctx 63).polder ≠ 0) ∧
    contextOk (contexted false liveCtx id) = true ∧ ((contexted false liveCtx id).polder 0).cmdBusy = false ∧ ((contexted false liveCtx id).ctx 63).live = true ∧
      ((contexted false liveCtx id).ctx 63).polder = 0 ∧ (contexted false liveCtx id).residentOf 63 = [] ∧
      (∀ u ∈ (contexted false liveCtx id).teams, u.shape.ctx ≠ some 63) ∧ (contexted false liveCtx id).launches = [] ∧
      (contexted false liveCtx id).asidInUse 0 ((contexted false liveCtx id).ctx 63).asid = false := by
  refine ⟨?_, ?_, ?_, ?_⟩ <;> decide +kernel

/-- No fault entry anywhere. -/
theorem witness_no_faults : ∀ k, ((contexted false liveCtx id).polder k).fq.entries = [] := by
  intro k
  have : (contexted false liveCtx id).polders.all (fun x => x.fq.entries.isEmpty) = true := by decide +kernel
  simp only [State.polder]
  rw [List.getD_eq_getElem?_getD]
  cases h : (contexted false liveCtx id).polders[k]? with
  | none => rfl
  | some x => simpa using List.all_eq_true.mp this x (List.mem_of_getElem? h)

/-- CREATE of a descriptor of zeros, and of the same over a context that is live. -/
theorem witness_create : (∃ s1 v, (contexted false Ctx.reset id).ctxEntry 0 63 = (s1, v) ∧ s1.ctxs = (contexted false Ctx.reset id).ctxs ∧
      (contexted false Ctx.reset id).createWhy 63 v = 0) ∧
    ∃ s1 v, (contexted false liveCtx id).ctxEntry 0 63 = (s1, v) ∧ s1.ctxs = (contexted false liveCtx id).ctxs ∧ (contexted false liveCtx id).createWhy 63 v ≠ 0 := by
  refine ⟨⟨_, 0, pair_of (x := (contexted false Ctx.reset id).ctxEntry 0 63) ?_, ?_, ?_⟩, ⟨_, 0, pair_of (x := (contexted false liveCtx id).ctxEntry 0 63) ?_, ?_, ?_⟩⟩
  all_goals decide +kernel

/-- A team of the context with an operation in flight. -/
theorem witness_preempt : ∃ s : State, s.polderOf 0 = 0 ∧ 0 < s.polders.length ∧ s.ctxs.length = 64 ∧ (s.polder 0).cmdBusy = false ∧ (s.ctx 63).live = true ∧ (s.ctx 63).polder = 0 ∧
    s.residentOf 63 ≠ [] ∧ ∀ u ∈ s.residentOf 63, u.fr.halted = false ∧ ∃ o ∈ s.ops, o.team = u.id := by
  refine ⟨contexted false liveCtx (fun s => { s.modTeam 1 (fun t => { t with shape := { t.shape with ctx := some 63 } }) with ops := [oneOp .store 0 32] }), ?_⟩
  decide +kernel

/-- A fault entry that a group's parked word waits on. -/
def faultOf (page : Nat) : FaultEntry := { index := some 3, ctx := 0, page := page, kind := 1, entry := 0, waiters := [.group 1 0] }

/-- The group parked. -/
def parked : State :=
  let s := (spirals false id).modGroup ⟨1, 0⟩ (fun g => { g with ctl := { g.ctl with park := some { mask := 1, pc := 8, addrs := [(5, 0x50004)], unit := false } } })
  { s with polders := s.polders.set 0 { Polder.reset with fq := { Polder.reset.fq with entries := [faultOf 5] } } }

theorem witness_fault_answer : (∃ s : State, ∃ p x n, s.polders[p]? = some x ∧ s.answered p n = none) ∧
    ∃ s : State, ∃ p x n e team g gr pk u a, s.polders[p]? = some x ∧ s.answered p n = some e ∧ NoFence s ∧ e.waiters = [.group team g] ∧ s.group? ⟨team, g⟩ = some gr ∧
      gr.ctl.park = some pk ∧ pk.unit = false ∧ s.mxOf ⟨team, g⟩ = [] ∧
      (∀ q, ∀ e' ∈ (s.polder q).fq.entries, (q ≠ p ∨ e' ≠ e) → (.group team g) ∉ e'.waiters) ∧ x.fq.entries.count e = 1 ∧
      e.kind ≠ 4 ∧ s.team? team = some u ∧ u.fr.halted = false ∧ pk.addrs = [(e.page, a)] ∧ a < 2 ^ 56 := by
  obtain ⟨gr, hg, qg⟩ := group_of (s := parked) (p := fun g => decide (g.ctl.park = some { mask := 1, pc := 8, addrs := [(5, 0x50004)], unit := false } ∧ g.ctl.fence = none)) (by decide +kernel)
  obtain ⟨u, hu, qu⟩ := any_ok (x := parked.team? 1) (p := fun u => decide (u.fr.halted = false)) (by decide +kernel)
  have nf : parked.teams.all (fun t => t.allGroups.all (fun g => decide (g.ctl.fence = none))) = true := by decide +kernel
  have rest : ∀ q, ∀ e' ∈ (parked.polder q).fq.entries, q = 0 ∧ e' = faultOf 5 := by
    intro q e' he
    have h1 : parked.polders.tail.all (fun x => x.fq.entries.isEmpty) = true := by decide +kernel
    cases q with
    | zero =>
      have : (parked.polder 0).fq.entries = [faultOf 5] := by decide +kernel
      rw [this] at he
      exact ⟨rfl, by simpa using he⟩
    | succ q =>
      exfalso
      simp only [State.polder] at he
      rw [List.getD_eq_getElem?_getD] at he
      have h2 : parked.polders[q + 1]? = parked.polders.tail[q]? := by rw [List.getElem?_tail]
      rw [h2] at he
      cases h : parked.polders.tail[q]? with
      | none => rw [h] at he; simp [Polder.reset] at he
      | some x => rw [h] at he; have := List.all_eq_true.mp h1 x (List.mem_of_getElem? h); rw [List.isEmpty_iff] at this; rw [Option.getD_some, this] at he; simp at he
  refine ⟨⟨State.reset, 0, Polder.reset, 65535, ?_, ?_⟩, parked, 0, { Polder.reset with fq := { Polder.reset.fq with entries := [faultOf 5] } }, 3, faultOf 5, 1, 0, gr, _, u, 0x50004, ?_, ?_,
    fun t ht g hgt => of_decide_eq_true (List.all_eq_true.mp (List.all_eq_true.mp nf t ht) g hgt), rfl, hg, (of_decide_eq_true qg).1, rfl, ?_, fun q e' he hne => by obtain ⟨rfl, rfl⟩ := rest q e' he; simp at hne,
    ?_, ?_, hu, of_decide_eq_true qu, rfl, ?_⟩
  all_goals decide +kernel

/-- Queue registers of a polder with no outstanding fault. -/
theorem witness_fault_registers : ∃ s : State, ∃ p : Nat, ∃ x : Polder, s.polders[p]? = some x ∧ x.fq.entries = [] ∧ x.fq.enable = false ∧ x.eng.enable = false :=
  ⟨State.reset, 0, Polder.reset, by decide +kernel, by decide +kernel, by decide +kernel, by decide +kernel⟩
/-! ### Heat, reset, sessions, debug, cycles, ports and steps -/

theorem witness_brole : (∃ s : State, ∃ core : Nat, ∃ k : Core, s.cores[core]? = some k ∧ s.residents core = [] ∧ NoLinesLeft s core ∧ core = 255) ∧
    ∃ s : State, ∃ core : Nat, ∃ k : Core, s.cores[core]? = some k ∧ s.residents core ≠ [] := by
  obtain ⟨k, h⟩ := some_of (x := State.reset.cores[255]?) (by decide +kernel)
  obtain ⟨m, j⟩ := some_of (x := (ready 0 id).cores[0]?) (by decide +kernel)
  have e : State.reset.teams = [] := by decide +kernel
  exact ⟨⟨_, 255, k, h, by decide +kernel, (fun u hu => by rw [e] at hu; cases hu), rfl⟩, ⟨_, 0, m, j, by decide +kernel⟩⟩

theorem witness_features : (∃ s : State, ∃ p : Nat, ∃ x : Polder, s.polders[p]? = some x ∧ PolderUsed s p) ∧
    ∃ s : State, ∃ p : Nat, ∃ x : Polder, s.polders[p]? = some x ∧ ¬ PolderUsed s p := by
  obtain ⟨x, h⟩ := some_of (x := (ready 0 id).polders[0]?) (by decide +kernel)
  obtain ⟨u, hu, q⟩ := any_ok (x := (ready 0 id).teams[0]?) (p := fun (u : Team) => decide (u.ended = false ∧ u.core? = some 0 ∧ (ready 0 id).polderOf (quarterOf 0) = 0)) (by decide +kernel)
  obtain ⟨a, b, c⟩ := of_decide_eq_true q
  refine ⟨⟨_, 0, x, h, .inl ⟨u, List.mem_of_getElem? hu, a, 0, b, c⟩⟩, State.reset, 0, Polder.reset, by decide +kernel, ?_⟩
  have h1 : State.reset.teams = [] := by decide +kernel
  have h2 : State.reset.ctxs.all (fun c => !c.live) = true := by decide +kernel
  rintro (⟨u, hu, _⟩ | ⟨c, hc, hl, _⟩)
  · rw [h1] at hu; simp at hu
  · have := List.all_eq_true.mp h2 c hc; rw [hl] at this; simp at this

/-- A sensor whose sample is due and one that has it; a channel whose refresh is due and one whose is not; a window due and not; a device in recovery mode. -/
theorem witness_heat : (∃ s : State, ∃ n : Nat, ∃ x : Sensor, s.dev.sensors[n]? = some x ∧ s.dev.recov = false ∧ x.sampled < s.tick.toNat / 140000) ∧
    (∃ s : State, ∃ n : Nat, ∃ x : Sensor, s.dev.sensors[n]? = some x ∧ s.tick.toNat / 140000 ≤ x.sampled) ∧
    (∃ s : State, ∃ n : Nat, ∃ x : Channel, s.dev.channels[n]? = some x ∧ s.dev.recov = false ∧ x.nextRefresh ≤ s.tick.toNat) ∧
    (∃ s : State, ∃ n : Nat, ∃ x : Channel, s.dev.channels[n]? = some x ∧ s.tick.toNat < x.nextRefresh) ∧
    (∃ s : State, WindowDue s) ∧ (∃ s : State, ¬ WindowDue s) ∧ ∃ s : State, s.dev.recov = true := by
  have r : State.reset.dev.recov = false := by decide +kernel
  obtain ⟨x, h, q⟩ := any_ok (x := State.reset.dev.sensors[15]?) (p := fun (x : Sensor) => decide (x.sampled = 0)) (by decide +kernel)
  obtain ⟨y, k, w⟩ := any_ok (x := State.reset.dev.channels[255]?) (p := fun (y : Channel) => decide (0 < y.nextRefresh ∧ y.nextRefresh ≤ 5460)) (by decide +kernel)
  have q := of_decide_eq_true q
  have w := of_decide_eq_true w
  refine ⟨⟨{ State.reset with tick := 140000 }, 15, x, h, r, by rw [q]; decide +kernel⟩, ⟨{ State.reset with tick := 139999 }, 15, x, h, by rw [q]; decide +kernel⟩,
    ⟨{ State.reset with tick := 5460 }, 255, y, k, r, w.2⟩, ⟨State.reset, 255, y, k, ?_⟩, ⟨{ State.reset with tick := 2800 }, ?_⟩, ⟨{ State.reset with tick := 1399 }, ?_⟩,
    { State.reset with dev := { State.reset.dev with recov := true } }, rfl⟩
  · rw [(by decide +kernel : State.reset.tick.toNat = 0)]; exact w.1
  · exact (by decide +kernel : State.reset.dev.windowAt / 1400 ≠ (2800#64).toNat / 1400)
  · exact (by decide +kernel : ¬ (State.reset.dev.windowAt / 1400 ≠ (1399#64).toNat / 1400))

/-- An error in local memory, one that can be corrected and one that cannot. -/
theorem witness_scrub (bad : Bool) : ∃ s : State, ∃ u, lookupNat s.home.errors u = some bad ∧ ∃ q, q < 4 ∧ (s.rangeAt q (64 * u)).isSome = true :=
  ⟨{ spirals false id with home := { Home.reset with errors := [(7, bad)] } }, 7, by cases bad <;> decide +kernel, 3, by decide, by cases bad <;> decide +kernel⟩

theorem witness_no_error : ∃ s : State, ∃ u, lookupNat s.home.errors u = none := ⟨State.reset, 0, by decide +kernel⟩

/-- A core that may enter retention, one that may not, and one that is in it. -/
theorem witness_retention : (∃ s : State, ∃ core : Nat, ∃ k : Core, s.cores[core]? = some k ∧ MayRetire s core ∧ NoLinesLeft s core) ∧
    (∃ s : State, ∃ core : Nat, ∃ k : Core, s.cores[core]? = some k ∧ ¬ MayRetire s core ∧ k.regs.asleep = false) ∧
    ∃ s : State, ∃ core : Nat, ∃ k : Core, s.cores[core]? = some k ∧ k.regs.asleep = true ∧ k.regs.stored.length = 9 := by
  have h0 : ∃ s : State, s.residents 0 = [] ∧ (s.core 0).regs.retEnable = true ∧ s.feature (s.polderOf (quarterOf 0)) 19 = true ∧
      (s.core 0).regs.asleep = false ∧ max 1 (s.core 0).regs.retIdle.toNat ≤ (s.core 0).regs.idle ∧ (s.cores[0]?).isSome = true ∧ s.teams = [] := by
    refine ⟨{ State.reset with
      cores := [{ Core.reset with regs := { Core.reset.regs with retEnable := true, retIdle := 9, idle := 9 } }],
      polders := State.reset.polders.map (fun (x : Polder) => { x with featOn := (0x80000, 0) }) }, ?_⟩
    decide +kernel
  obtain ⟨s, a, b, c, d, e, f, g⟩ := h0
  obtain ⟨k, hk⟩ := some_of f
  obtain ⟨m, j, q⟩ := any_ok (x := State.reset.cores[255]?) (p := fun (m : Core) => decide (m.regs.asleep = false)) (by decide +kernel)
  refine ⟨⟨s, 0, k, hk, ⟨b, c, a, d, e⟩, fun u hu => by rw [g] at hu; cases hu⟩, ⟨State.reset, 255, m, j, ?_, of_decide_eq_true q⟩, ⟨{ State.reset with
      cores := [{ Core.reset with regs := { Core.reset.regs with asleep := true, stored := List.replicate 9 0 } }] }, 0, _, rfl, rfl, rfl⟩⟩
  exact fun m => absurd m.1 (by decide +kernel)

/-- A machine in recovery mode, and one that is not. -/
def recovered (b : Bool) : State := { State.reset with dev := { State.reset.dev with recov := b, booted := b, fuseSvn := 5 } }

theorem witness_ready_set : (recovered true).dev.recov = true ∧ (recovered false).dev.recov = false := by decide +kernel

theorem witness_reset_and_release : (∃ s : State, s.home.keys = [] ∧ s.teams ≠ []) ∧ (recovered true).dev.booted = true ∧ (recovered false).dev.booted = false ∧
    (recovered false).dev.fuseSvn.toNat ≤ (5#16).toNat ∧ (4#16).toNat < (recovered false).dev.fuseSvn.toNat :=
  ⟨⟨ready 0 id, by decide +kernel, by decide +kernel⟩, by decide +kernel, by decide +kernel, by decide +kernel, by decide +kernel⟩

/-- A request that is answered, one too early, and one to a function there is not. -/
theorem witness_spdm : (∃ s : State, ∃ fn : Nat, ∃ x : Polder, ∃ i req least stage secure, s.polders[fn]? = some x ∧ SpdmRequest fn i req least stage secure ∧ Answers s fn ∧ least ≤ x.spdm) ∧
    (∃ s : State, ∃ fn : Nat, ∃ x : Polder, ∃ i req least stage secure, s.polders[fn]? = some x ∧ SpdmRequest fn i req least stage secure ∧ x.spdm < least) ∧
    ∃ s : State, ∃ fn : Nat, ∃ x : Polder, ∃ i req least stage secure, s.polders[fn]? = some x ∧ SpdmRequest fn i req least stage secure ∧ ¬ Answers s fn := by
  obtain ⟨x, h⟩ := some_of (x := State.reset.polders[3]?) (by decide +kernel)
  refine ⟨⟨State.reset, 0, Polder.reset, _, _, _, _, _, by decide +kernel, .getVersion, ⟨by decide, by decide +kernel, fun _ => rfl⟩, by decide +kernel⟩,
    ⟨State.reset, 0, Polder.reset, _, _, _, _, _, by decide +kernel, .finish, by decide +kernel⟩,
    ⟨State.reset, 3, x, _, _, _, _, _, h, .getVersion, fun m => absurd m.2.1 (by decide +kernel)⟩⟩

theorem witness_key_load : (∃ s : State, ∃ fn slot, Answers s fn ∧ s.dev.recov = false ∧ (s.polder fn).secure = true ∧ slot < 64 ∧ s.home.keys = [] ∧ slot = 63) ∧
    ∃ s : State, ∃ fn, (s.polder fn).secure = false :=
  ⟨⟨{ State.reset with polders := [{ Polder.reset with secure := true }] }, 0, 63, ⟨by decide, by decide +kernel, fun _ => rfl⟩, by decide +kernel, by decide +kernel, by decide,
      by decide +kernel, rfl⟩, ⟨State.reset, 0, by decide +kernel⟩⟩

/-- Core 0's debug unit, busy or not, and its team, halted or not. -/
def debugged (busy halted : Bool) (f : CoreDbg → CoreDbg) : State :=
  (teamPrep (fun u => { u with fr := { u.fr with halted := halted } }) (ready 0 id)).modCore 0 (fun k => { k with dbg := f { k.dbg with busy := busy } })

theorem witness_debug : (∃ s : State, ∃ core : Nat, ∃ k : Core, s.cores[core]? = some k ∧ k.dbg.busy = true) ∧
    (∃ s : State, ∃ core : Nat, ∃ k : Core, ∃ r, ∃ u : Team, ∃ g, s.cores[core]? = some k ∧ k.dbg.busy = false ∧ s.dbgTarget core = some r ∧ s.team? r.team = some u ∧ s.group? r = some g ∧ u.fr.halted = true ∧ u.groups.any Group.alive = true) ∧
    (∃ s : State, ∃ core : Nat, ∃ k : Core, ∃ r, ∃ u : Team, ∃ g, s.cores[core]? = some k ∧ k.dbg.busy = false ∧ s.dbgTarget core = some r ∧ s.team? r.team = some u ∧ s.group? r = some g ∧ u.fr.halted = false ∧
      ∀ q, s.dbgTarget core = some q → s.haltedTeam q.team = false) ∧
    ∃ s : State, ∃ core : Nat, ∃ k : Core, s.cores[core]? = some k ∧ k.dbg.busy = false ∧ s.dbgTarget core = none := by
  obtain ⟨k0, h0, q0⟩ := any_ok (x := (debugged true false id).cores[0]?) (p := fun (k : Core) => k.dbg.busy) (by decide +kernel)
  have h (b : Bool) : ∃ k u g, (debugged false b id).cores[0]? = some k ∧ k.dbg.busy = false ∧ (debugged false b id).dbgTarget 0 = some ⟨1, 0⟩ ∧
      (debugged false b id).team? 1 = some u ∧ (debugged false b id).group? ⟨1, 0⟩ = some g ∧ u.fr.halted = b ∧ u.groups.any Group.alive = true := by
    have e : ((debugged false b id).cores[0]?).any (fun k => !k.dbg.busy) = true ∧ (debugged false b id).dbgTarget 0 = some ⟨1, 0⟩ ∧
        ((debugged false b id).team? 1).any (fun u => decide (u.fr.halted = b ∧ u.groups.any Group.alive = true)) = true ∧ ((debugged false b id).group? ⟨1, 0⟩).isSome = true := by
      revert b; decide +kernel
    obtain ⟨k, hk, q⟩ := any_ok e.1
    obtain ⟨u, hu, r⟩ := any_ok e.2.2.1
    obtain ⟨g, hg⟩ := some_of e.2.2.2
    exact ⟨k, u, g, hk, by simpa using q, e.2.1, hu, hg, of_decide_eq_true r⟩
  obtain ⟨k1, u1, g1, a1, b1, c1, d1, e1, f1⟩ := h true
  obtain ⟨k2, u2, g2, a2, b2, c2, d2, e2, f2, -⟩ := h false
  obtain ⟨k3, h3, q3⟩ := any_ok (x := State.reset.cores[255]?) (p := fun (k : Core) => !k.dbg.busy) (by decide +kernel)
  refine ⟨⟨_, 0, k0, h0, q0⟩, ⟨_, 0, k1, _, u1, g1, a1, b1, c1, d1, e1, f1⟩, ⟨_, 0, k2, _, u2, g2, a2, b2, c2, d2, e2, f2, fun q hq => ?_⟩,
    ⟨State.reset, 255, k3, h3, by simpa using q3, by decide +kernel⟩⟩
  rw [c2] at hq; cases hq; decide +kernel

theorem witness_stop : (∃ s : State, s.dev.stopAt ≤ s.tick.toNat) ∧ ∃ s : State, s.tick.toNat < s.dev.stopAt :=
  ⟨⟨{ State.reset with tick := BitVec.allOnes 64, dev := { State.reset.dev with stopAt := 2 ^ 64 - 1 } }, by decide +kernel⟩, ⟨State.reset, by decide +kernel⟩⟩

/-- The machine of the cycle's witness, before its end. -/
def cycling : State := teamPrep (fun u => { u with barEvents := [(0, .binit 0 63), (1, .arrive), (2, .declare 0xFFFFFFFF)] }) (ready 0 id)

theorem quietReady : ¬ Overdue cycling := by
  have d : cycling.dev.sensors.all (fun x => decide (¬ (x.sampled < cycling.tick.toNat / 140000)) && (match x.owed with
      | some a => decide (¬ (a + 14000 < cycling.tick.toNat + 1 + cycling.slow.headD 0))
      | none => true)) = true ∧ cycling.dev.channels.all (fun x => decide (¬ (x.nextRefresh ≤ cycling.tick.toNat))) = true ∧
      cycling.dev.windowAt / 1400 = cycling.tick.toNat / 1400 := by decide +kernel
  rintro (h | ⟨-, ⟨x, hx, h | ⟨a, e, h⟩⟩ | ⟨x, hx, h⟩⟩)
  · exact h d.2.2
  · have := List.all_eq_true.mp d.1 x hx
    simp only [Bool.and_eq_true, decide_eq_true_eq] at this
    exact this.1 h
  · have := List.all_eq_true.mp d.1 x hx
    rw [e] at this
    simp only [Bool.and_eq_true, decide_eq_true_eq] at this
    exact this.2 h
  · exact of_decide_eq_true (List.all_eq_true.mp d.2.1 x hx) h

theorem noTrace (c : Nat) : (cycling.core c).dbg.trcEn = false ∧ (cycling.core c).dbg.trcOut = [] := by
  have d : cycling.cores.all (fun k => decide (k.dbg.trcEn = false ∧ k.dbg.trcOut = [])) = true ∧ Core.reset.dbg.trcEn = false ∧ Core.reset.dbg.trcOut = [] := by decide +kernel
  unfold State.core
  rw [List.getD_eq_getElem?_getD]
  cases e : cycling.cores[c]? with
  | none => exact d.2
  | some k => exact of_decide_eq_true (List.all_eq_true.mp d.1 k (List.mem_of_getElem? e))

/-- A cycle that ends, on a machine with a team whose barrier registers take every kind of event; one that a window holds. -/
theorem witness_cycle : (∃ s : State, ∃ u b0 b1 b2 b3, s.stopped = false ∧ ¬ Overdue s ∧ s.tick.toNat < s.dev.stopAt ∧ s.launches = [] ∧ s.cmds = [] ∧ (∀ q, q < 4 → (s.quarter q).flush = none) ∧
      (∀ p, p < 4 → (s.polder p).biasOps = none) ∧ (∀ c, (s.core c).dbg.trcEn = false ∧ (s.core c).dbg.trcOut = []) ∧ s.team? 1 = some u ∧ (u.handler = none ∨ u.fr.halted = false) ∧
      u.bars[0]? = some b0 ∧ u.barEvents.filter (fun e => e.1 == 0) = [(0, .binit 0 63)] ∧
      u.bars[1]? = some b1 ∧ (∀ e ∈ u.barEvents, e.1 = 1 → e.2 = .arrive) ∧ b1.cwait = false ∧ b1.arr.toNat + (u.barEvents.filter (fun e => e.1 == 1)).length = b1.exp.toNat ∧
      u.bars[2]? = some b2 ∧ u.barEvents.filter (fun e => e.1 == 2) = [(2, .declare 0xFFFFFFFF)] ∧ b2.arr ≠ b2.exp ∧ b2.cdone = false ∧ b2.owed.toNat + 0xFFFFFFFF < 0x100000000 ∧
      u.bars[15]? = some b3 ∧ (∀ e ∈ u.barEvents, e.1 ≠ 15) ∧ b3.cwait = false ∧ b3.arr ≠ b3.exp) ∧
    (∃ s : State, Overdue s) ∧ ∃ s : State, Overdue s ∧ ¬ WindowDue s := by
  constructor
  · obtain ⟨u, hu, q⟩ := any_ok (x := cycling.team? 1)
      (p := fun u => decide (u.barEvents = [(0, .binit 0 63), (1, .arrive), (2, .declare 0xFFFFFFFF)] ∧
        u.bars = List.replicate 16 { owed := 0, phase := false, err := false, cwait := false, cdone := false, arr := 0, exp := 1 } ∧ u.handler = none)) (by decide +kernel)
    obtain ⟨a, b, n⟩ := of_decide_eq_true q
    refine ⟨cycling, u, _, _, _, _, by decide +kernel, quietReady, by decide +kernel, by decide +kernel, by decide +kernel, by decide +kernel, by decide +kernel, noTrace, hu, .inl n, by rw [b]; rfl, by rw [a]; rfl, by rw [b]; rfl, ?_, rfl, ?_,
      by rw [b]; rfl, by rw [a]; rfl, by decide, rfl, by decide, by rw [b]; rfl, ?_, rfl, by decide⟩
    all_goals rw [a]; decide
  · refine ⟨⟨{ State.reset with tick := 1400 }, .inl (by decide +kernel : State.reset.dev.windowAt / 1400 ≠ (1400#64).toNat / 1400)⟩, { State.reset with tick := 5460, dev := { State.reset.dev with windowAt := 5460 } },
      .inr ⟨by decide +kernel, .inr ?_⟩, (by decide +kernel : ¬ (5460 / 1400 ≠ (5460#64).toNat / 1400))⟩
    obtain ⟨y, k, w⟩ := any_ok (x := State.reset.dev.channels[0]?) (p := fun (y : Channel) => decide (y.nextRefresh ≤ 5460)) (by decide +kernel)
    exact ⟨y, List.mem_of_getElem? k, of_decide_eq_true w⟩

/-- Ports of a polder that is there and of one that is not; its last queue, a link, a core. -/
theorem witness_ports : (∃ s : State, ∃ p : Nat, ∃ x : Polder, s.polders[p]? = some x ∧ s.polderOf p ≠ p) ∧
    (∃ s : State, ∃ p : Nat, ∃ x : Polder, ∃ k, s.polders[p]? = some x ∧ s.polderOf p = p ∧ x.queues[127]? = some k) ∧
    (∃ s : State, ∃ n l, n < 16 ∧ s.links[n]? = some l ∧ n = 15) ∧ ∃ s : State, ∃ core : Nat, ∃ k : Core, s.cores[core]? = some k ∧ core < 256 := by
  obtain ⟨x, h⟩ := some_of (x := State.reset.polders[3]?) (by decide +kernel)
  obtain ⟨y, k, hk⟩ := any_ok (x := State.reset.polders[0]?) (p := fun y => (y.queues[127]?).isSome) (by decide +kernel)
  obtain ⟨z, hz⟩ := some_of hk
  obtain ⟨m, j⟩ := some_of (x := State.reset.cores[255]?) (by decide +kernel)
  exact ⟨⟨_, 3, x, h, by decide +kernel⟩, ⟨_, 0, y, z, k, by decide +kernel, hz⟩, ⟨State.reset, 15, Link.reset, by decide, by decide +kernel, rfl⟩, ⟨_, 255, m, j, by decide⟩⟩

/-- A machine that begins with ADD v3, v2, v4, an error in lane 5 of v2. -/
def errState (bad : Bool) : State :=
  (State.reset.withFetchWord 32 0x00308400).modGroup ⟨1, 0⟩ (fun g => { g with lineErrs := [⟨2, 5, bad⟩] })
/-- The state in which its word issues. -/
def errIssued (bad : Bool) (t : Team) (g : Group) : State :=
  ((State.fetch { errState bad with agenda := [] } t 0 (g.slice (lowestSlice 0xFF)).pc).1.issuing ⟨1, 0⟩ 0xFF 0x00308400 none).fireLate ⟨1, 0⟩ 0x00308400

/-- What the fetch of a first word meets. -/
def fetchOk (w : Word) (s : State) (t : Team) (g : Group) : Bool :=
  decide (t.core? = some 0 ∧ s.stuffer t ⟨1, 0⟩ = none ∧ s.mayIssue t g 0 = true ∧ g.offers = [(0xFF, false)] ∧ s.ready ⟨1, 0⟩ t 0 g (0xFF, false) = true ∧
    (s.fetch t 0 (g.slice (lowestSlice 0xFF)).pc).2 = .word w ∧ (s.fetch t 0 (g.slice (lowestSlice 0xFF)).pc).1.breakpoint t 0 (g.slice (lowestSlice 0xFF)).pc = none ∧
    (g.slice (lowestSlice 0xFF)).landed = false ∧ t.fr.halted = false ∧
    ((s.fetch t 0 (g.slice (lowestSlice 0xFF)).pc).1.issuing ⟨1, 0⟩ 0xFF w none).holdNow w = none)

/-- A machine that begins with a word has fetched it. -/
def beginsOk (w : Word) (s : State) : Bool :=
  decide (s.agenda = [.issue ⟨1, 0⟩] ∧ s.stopped = false ∧ s.dev.booted = true) &&
  (State.team? { s with agenda := [] } 1).any (fun t => (State.group? { s with agenda := [] } ⟨1, 0⟩).any (fun g => fetchOk w { s with agenda := [] } t g))

theorem fetches_of {w : Word} {s : State} (e : beginsOk w s = true) : ∃ s1 t core g r slices more, Fetches s s1 t core g r slices more w true ∧ t.fr.halted = false := by
  simp only [beginsOk, Bool.and_eq_true] at e
  obtain ⟨m, n, o⟩ := of_decide_eq_true e.1
  obtain ⟨t, ht, e⟩ := any_ok e.2
  obtain ⟨g, hg, e⟩ := any_ok e
  simp only [fetchOk] at e
  obtain ⟨a, y, b, c, p, d, f, i, u, j⟩ := of_decide_eq_true e
  exact ⟨_, t, 0, g, ⟨1, 0⟩, 0xFF, [], ⟨[], _, _, m, n, o, ht, hg, a, y, b, c, rfl, p, pair_of d, fun _ => .inr (.inr f), by rw [i]; simp, fun _ => j⟩, u⟩

/-- A word fetched, and a word that is no instruction. -/
theorem witness_fetch : (∃ s s1 t core g r slices more, Fetches s s1 t core g r slices more 0x00308400 true ∧ t.fr.halted = false) ∧
    ∃ s s1 t core g r slices more, Fetches s s1 t core g r slices more 0xEC000000 true ∧ t.fr.halted = false :=
  ⟨⟨State.reset.withFetchWord 32 0x00308400, fetches_of (by decide +kernel)⟩, ⟨State.reset.withFetchWord 32 0xEC000000, fetches_of (by decide +kernel)⟩⟩

/-- A word fetched whose sources hold errors, each of them correctable, or one of them not. -/
theorem witness_line_errors (bad : Bool) : ∃ s s1 t core g r slices more u c i, Fetches s s1 t core g r slices more 0x00308400 true ∧
    u = (s1.issuing r slices 0x00308400 none).fireLate r 0x00308400 ∧
    decode 0x00308400 = some i ∧ cxOf u = some c ∧ u.lineErrsOf 0x00308400 = [⟨2, 5, bad⟩] := by
  obtain ⟨t, ht, e⟩ := any_ok (x := State.team? { errState bad with agenda := [] } 1) (p := fun t => (State.group? { errState bad with agenda := [] } ⟨1, 0⟩).any (fun g =>
    fetchOk 0x00308400 { errState bad with agenda := [] } t g &&
    decide ((cxOf (errIssued bad t g)).isSome = true ∧ (errIssued bad t g).lineErrsOf 0x00308400 = [⟨2, 5, bad⟩]))) (by cases bad <;> decide +kernel)
  obtain ⟨g, hg, e⟩ := any_ok e
  simp only [fetchOk, Bool.and_eq_true] at e
  obtain ⟨a, y, b, c, p, d, f, i, -, j⟩ := of_decide_eq_true e.1
  obtain ⟨k, l⟩ := of_decide_eq_true e.2
  obtain ⟨x, hx⟩ := Option.isSome_iff_exists.mp k
  exact ⟨errState bad, _, t, 0, g, ⟨1, 0⟩, 0xFF, [], _, x, .add 3 2 4 0, ⟨[], _, _, by cases bad <;> decide +kernel, by cases bad <;> decide +kernel, by cases bad <;> decide +kernel, ht, hg, a, y, b, c, rfl, p, pair_of d,
    fun _ => .inr (.inr f), by rw [i]; simp, fun _ => j⟩, rfl, by decide, hx, l⟩

/-- BWAIT s0, bw0 where the barrier's phase is bit 0 of s0: its sub-gang is not ready. -/
theorem witness_not_ready : ∃ s s1 t core g r slices more w i, Fetches s s1 t core g r slices more w false ∧ decode w = some i ∧ i = .bwait 0 0 := by
  have a : (encode (.bwait 0 0)).any (fun w => decide (decode w = some (.bwait 0 0)) && (let s := State.reset.withFetchWord 32 w.toNat
      decide (s.agenda = [.issue ⟨1, 0⟩] ∧ s.stopped = false ∧ s.dev.booted = true) &&
      (State.team? { s with agenda := [] } 1).any (fun t => (State.group? { s with agenda := [] } ⟨1, 0⟩).any (fun g =>
        decide (t.core? = some 0 ∧ State.stuffer { s with agenda := [] } t ⟨1, 0⟩ = none ∧ State.mayIssue { s with agenda := [] } t g 0 = true ∧ g.offers = [(0xFF, false)] ∧
          State.ready { s with agenda := [] } ⟨1, 0⟩ t 0 g (0xFF, false) = false ∧
          (State.fetch { s with agenda := [] } t 0 (g.slice (lowestSlice 0xFF)).pc).2 = .word w ∧ (g.slice (lowestSlice 0xFF)).landed = false))))) = true := by decide +kernel
  obtain ⟨w, hw, e⟩ := any_ok a
  simp only [Bool.and_eq_true] at e
  obtain ⟨m, n, o⟩ := of_decide_eq_true e.2.1
  obtain ⟨t, ht, e2⟩ := any_ok e.2.2
  obtain ⟨g, hg, e3⟩ := any_ok e2
  obtain ⟨a, y, b, c, p, d, i⟩ := of_decide_eq_true e3
  exact ⟨State.reset.withFetchWord 32 w.toNat, (State.fetch { State.reset.withFetchWord 32 w.toNat with agenda := [] } t 0 (g.slice (lowestSlice 0xFF)).pc).1,
    t, 0, g, ⟨1, 0⟩, 0xFF, [], w, _, ⟨[], _, _, m, n, o, ht, hg, a, y, b, c, rfl, p, pair_of d, (fun h => by simp at h), by rw [i]; simp, (fun h => by simp at h)⟩,
    of_decide_eq_true e.1, rfl⟩

/-- Events on the agenda of a machine that is released, in recovery mode, or not yet released: those that act and those that do not. -/
theorem witness_released_events : (∃ s : State, ∃ e rest, s.agenda = .event e :: rest ∧ s.stopped = false ∧ s.dev.booted = true ∧ s.dev.recov = false) ∧
    (∃ s : State, ∃ e rest, s.agenda = .event e :: rest ∧ s.stopped = false ∧ s.dev.booted = true ∧ s.dev.recov = true ∧ InRecovery e) ∧
    (∃ s : State, ∃ e rest, s.agenda = .event e :: rest ∧ s.stopped = false ∧ s.dev.booted = true ∧ s.dev.recov = true ∧ OverBar e ∧ InRecovery e) ∧
    (∃ s : State, ∃ e rest, s.agenda = .event e :: rest ∧ s.stopped = false ∧ s.dev.booted = true ∧ s.dev.recov = true ∧ ¬ InRecovery e) ∧
    (∃ s : State, ∃ e rest, s.agenda = .event e :: rest ∧ s.stopped = false ∧ s.dev.booted = false ∧ BeforeBoot e) ∧
    (∃ s : State, ∃ e rest, s.agenda = .event e :: rest ∧ s.stopped = false ∧ s.dev.booted = false ∧ ¬ BeforeBoot e) ∧
    (∃ s : State, s.agenda = [] ∧ s.stopped = false ∧ s.dev.booted = false) ∧
    ∃ s : State, ∃ r rest, s.agenda = .issue r :: rest ∧ s.stopped = false ∧ s.dev.booted = false := by
  have b : State.reset.dev.booted = false := by decide +kernel
  have ov : OverBar (.retry 0 0) := .inr (.inr (.inr ⟨0, 0, by simp⟩))
  refine ⟨⟨{ recovered true with agenda := [.event .cycleEnd], dev := { (recovered true).dev with recov := false } }, _, _, rfl, rfl, rfl, rfl⟩,
    ⟨{ recovered true with agenda := [.event (.finish 0)] }, _, _, rfl, rfl, rfl, rfl, .inr (.inr ⟨0, by simp⟩)⟩,
    ⟨{ recovered true with agenda := [.event (.retry 0 0)] }, _, _, rfl, rfl, rfl, rfl, ov, .inr (.inl ov)⟩,
    ⟨{ recovered true with agenda := [.event .stopTick] }, _, _, rfl, rfl, rfl, rfl, ?_⟩,
    ⟨{ State.reset with agenda := [.event .powerLoss] }, _, _, rfl, rfl, b, .inr (.inl rfl)⟩,
    ⟨{ State.reset with agenda := [.event .stopTick] }, _, _, rfl, rfl, b, ?_⟩,
    ⟨{ State.reset with agenda := [] }, rfl, rfl, b⟩, ⟨{ State.reset with agenda := [.issue ⟨1, 0⟩] }, _, _, rfl, rfl, b⟩⟩
  · simp [InRecovery, BeforeBoot, OverBar]
  · simp [BeforeBoot]

theorem witness_events : (∃ s : State, ∃ e rest, s.agenda = .event e :: rest ∧ s.stopped = false) ∧ (∃ s : State, ∃ e rest, s.agenda = .event e :: rest ∧ s.stopped = true ∧ (e = .reset ∨ e = .powerLoss)) ∧
    (∃ s : State, ∃ e rest, s.agenda = .event e :: rest ∧ s.stopped = true ∧ e ≠ .reset ∧ e ≠ .powerLoss) ∧ (∃ s : State, s.stopped = true ∧ s.agenda = []) ∧
    ∃ s : State, ∃ r rest, s.stopped = true ∧ s.agenda = .issue r :: rest :=
  ⟨⟨{ State.reset with agenda := [.event .cycleEnd] }, _, _, rfl, by decide +kernel⟩, ⟨{ State.reset with agenda := [.event .powerLoss], stopped := true }, _, _, rfl, rfl, .inr rfl⟩,
    ⟨{ State.reset with agenda := [.event .cycleEnd], stopped := true }, _, _, rfl, rfl, by decide, by decide⟩,
    ⟨{ State.reset with agenda := [], stopped := true }, rfl, rfl⟩, ⟨{ State.reset with agenda := [.issue ⟨1, 0⟩], stopped := true }, _, _, rfl, rfl⟩⟩

/-- The invariant holds of the machine after reset, with an event on its agenda. -/
theorem witness_invariant : ∃ s, Inv s ∧ AgendaOk s ∧ s.agenda ≠ [] := by
  refine ⟨{ State.reset with agenda := [.event .cycleEnd] }, ⟨(by decide +kernel : Memory.wf State.reset.home.cells = true), ?_⟩, ?_, by decide⟩
  · exact (by decide +kernel : (masks State.reset).length = 4 ∧ (∀ q, q < 4 → ((masks State.reset).getD q 0).getLsbD q = true) ∧
      ∀ a, a < 4 → ∀ b, b < 4 → ((masks State.reset).getD a 0).getLsbD b = true → (masks State.reset).getD b 0 = (masks State.reset).getD a 0)
      |> fun ⟨a, b, c⟩ => ⟨a, b, fun x y hx hy => c x hx y hy⟩
  · rintro e rest h
    cases h
    exact ⟨rfl, fun w h => by cases h⟩

/-! ### Further forms and boundaries -/

/-- Lane 0 inside the allocation, the other lanes past its end. -/
def pastEnd : State := ready 0x38801818 (fun g => g.setX 0 0xFFFFFFFE (fun _ => 61))

/-- MOVX and MOVXW with lanes that trap and one that does not. -/
theorem witness_moves_that_trap : (∃ s c i bad code oper dest d x k p, TrapWord c i bad code oper dest ∧ i = .movx d x k p ∧ Issues s c i ∧ bad ≠ 0 ∧
      (c.sel p.toNat &&& ~~~bad) ≠ 0 ∧ c.grp.role ≠ .handler ∧ c.stuffed = none) ∧
    ∃ s c i bad code oper dest x a k p, TrapWord c i bad code oper dest ∧ i = .movxw x a k p ∧ Issues s c i ∧ bad ≠ 0 ∧
      (c.sel p.toNat &&& ~~~bad) ≠ 0 ∧ c.grp.role ≠ .handler ∧ c.stuffed = none := by
  let m (c : Cx) : Lanes := lanesWhere (fun l => (c.sel (0#3).toNat).getLsbD l && !decide (0 ≤ indexed c 0 3 l ∧ indexed c 0 3 l < c.grp.budget))
  have w (c : Cx) : LanesAre (m c) (fun l => (c.sel (0#3).toNat).getLsbD l = true ∧ ¬ (0 ≤ indexed c 0 3 l ∧ indexed c 0 3 l < c.grp.budget)) := fun l hl => by
    rw [getLsbD_lanesWhere _ hl]; simp; omega
  obtain ⟨c, h, q⟩ := okP (s := pastEnd) (i := .movx 8 0 3 0) (P := fun c => lanesWhere (fun l => (c.sel (0#3).toNat).getLsbD l &&
    !decide (0 ≤ indexed c 0 3 l ∧ indexed c 0 3 l < c.grp.budget)) ≠ 0 ∧ (c.sel (0#3).toNat &&& ~~~(lanesWhere (fun l => (c.sel (0#3).toNat).getLsbD l &&
    !decide (0 ≤ indexed c 0 3 l ∧ indexed c 0 3 l < c.grp.budget)))) ≠ 0 ∧ c.grp.role ≠ .handler ∧ c.stuffed = none) (by decide +kernel)
  obtain ⟨d, k, r⟩ := okP (s := pastEnd) (i := .movxw 0 8 3 0) (P := fun c => lanesWhere (fun l => (c.sel (0#3).toNat).getLsbD l &&
    !decide (0 ≤ indexed c 0 3 l ∧ indexed c 0 3 l < c.grp.budget)) ≠ 0 ∧ (c.sel (0#3).toNat &&& ~~~(lanesWhere (fun l => (c.sel (0#3).toNat).getLsbD l &&
    !decide (0 ≤ indexed c 0 3 l ∧ indexed c 0 3 l < c.grp.budget)))) ≠ 0 ∧ c.grp.role ≠ .handler ∧ c.stuffed = none) (by decide +kernel)
  exact ⟨⟨_, c, _, m c, _, _, _, 8, 0, 3, 0, .movx 8 0 3 0 _ (w c), rfl, h, q⟩, ⟨_, d, _, m d, _, _, _, 0, 8, 3, 0, .movxw 0 8 3 0 _ (w d), rfl, k, r⟩⟩

/-- LOOP, JMP and RET to the address behind the code section. -/
theorem witness_jumps_out : (∃ s c a o, Issues s c (.loopW a o) ∧ sc c a ≠ 1 ∧ ¬ InCode c (label c o) ∧ c.stuffed = none ∧ c.team.fr.halted = false) ∧
    (∃ s c o, Issues s c (.jmp o) ∧ ¬ InCode c (label c o) ∧ c.stuffed = none ∧ c.team.fr.halted = false) ∧
    ∃ s c pc slide rest, Issues s c .ret ∧ c.grp.ctl.links = (pc, slide) :: rest ∧ ¬ InCode c pc.toNat ∧ c.stuffed = none ∧ c.team.fr.halted = false :=
  let ⟨c, h⟩ := okP (s := ready 0x6C0C0004 id) (i := .loopW 3 16) (P := fun c => sc c (3#5) ≠ 1 ∧
    ¬ (0 ≤ label c (16#18) ∧ label c (16#18) % 4 = 0 ∧ label c (16#18) + 4 ≤ c.team.shape.codeLen) ∧ c.stuffed = none ∧ c.team.fr.halted = false) (by decide +kernel)
  let ⟨d, k⟩ := okP (s := ready 0x64000004 id) (i := .jmp 16) (P := fun c =>
    ¬ (0 ≤ label c (16#20) ∧ label c (16#20) % 4 = 0 ∧ label c (16#20) + 4 ≤ c.team.shape.codeLen) ∧ c.stuffed = none ∧ c.team.fr.halted = false) (by decide +kernel)
  let ⟨f, n⟩ := okP (s := ready 0x66010000 (fun g => { g with ctl := { g.ctl with links := [(64, 0)] } })) (i := .ret) (P := fun c => c.grp.ctl.links = [(64#32, 0)] ∧
    ¬ (0 ≤ ((64#32).toNat : Int) ∧ ((64#32).toNat : Int) % 4 = 0 ∧ ((64#32).toNat : Int) + 4 ≤ c.team.shape.codeLen) ∧ c.stuffed = none ∧ c.team.fr.halted = false)
    (by decide +kernel)
  ⟨⟨_, c, _, _, h⟩, ⟨_, d, _, k⟩, ⟨_, f, _, _, _, n⟩⟩

theorem witness_fifth_regang : ∃ s c o, Issues s c (.regang o) ∧ 4 ≤ c.grp.ctl.joins.length ∧ c.stuffed = none ∧ c.team.fr.halted = false :=
  let ⟨c, h⟩ := okP (s := ready 0x68800003 (fun g => { g with ctl := { g.ctl with joins := List.replicate 4 (0, []) } })) (i := .regang 3)
    (P := fun c => 4 ≤ c.grp.ctl.joins.length ∧ c.stuffed = none ∧ c.team.fr.halted = false) (by decide +kernel)
  ⟨_, c, _, h⟩

/-- Lane l is the first that fails, as a test. -/
def failsFirst (c : Cx) (u : Team) (o n : Nat) (sel : Lanes) (l : Nat) : Bool :=
  sel.getLsbD l &&
  (decide (c.scratchOff o l % n ≠ 0) && (List.range l).all (fun k => !sel.getLsbD k || decide (c.scratchOff o k % n = 0)) ||
   allLanes sel (fun k => decide (c.scratchOff o k % n = 0)) && decide (¬ (0 ≤ c.scratchOff o l ∧ c.scratchOff o l + n ≤ u.scratchSize)) &&
    (List.range l).all (fun k => !sel.getLsbD k || decide (0 ≤ c.scratchOff o k ∧ c.scratchOff o k + n ≤ u.scratchSize)))

theorem failsFirst_spec {c : Cx} {u : Team} {o n : Nat} {sel : Lanes} {l : Nat} (hl : l < 32) (h : failsFirst c u o n sel l = true) :
    ScratchFails c u o n sel l := by
  simp only [failsFirst, Bool.and_eq_true, Bool.or_eq_true, List.all_eq_true, List.mem_range, decide_eq_true_eq, Bool.not_eq_true'] at h
  obtain ⟨a, ⟨b, d⟩ | ⟨⟨b, d⟩, e⟩⟩ := h
  · exact ⟨hl, a, .inl ⟨b, fun k hk hm => (d k hk).resolve_left (by simp [hm])⟩⟩
  · exact ⟨hl, a, .inr ⟨fun k hk hm => of_decide_eq_true (allLanes_spec b k hk hm), d, fun k hk hm => (e k hk).resolve_left (by simp [hm])⟩⟩

/-- A byte past alignment, and the first word past a scratchpad of 1 KiB; a rank past the cluster. -/
theorem witness_scratchpad_faults : (∀ x : Nat, x = 1022 ∨ x = 1024 → ∃ s c d o w y t p u l, Reaches s c y t u ∧ ScratchFails c u o.toNat (2 ^ w.toNat) (c.sel p.toNat) l ∧
      Issues s c (.lds d o w y t p) ∧ accessHeld s c true false 0 = false ∧ Issues s c (.sts d o w y t p) ∧ accessHeld s c false true 0 = false ∧ c.stuffed = none ∧
      c.team.fr.halted = false) ∧
    ∃ s c d o w y t p, Issues s c (.lds d o w y t p) ∧ accessHeld s c true false 0 = false ∧ y = 1 ∧ c.team.shape.cluster ≤ t.toNat ∧ c.stuffed = none ∧
      c.team.fr.halted = false := by
  constructor
  · intro x hx
    have a : ∀ x ∈ [1022, 1024], (cxOf (ready 0x88302A00 (gc 5 x))).any (fun c => decide (precheck (ready 0x88302A00 (gc 5 x)) c (.lds 3 5 2 0 0 0) = none ∧
      precheck (ready 0x88302A00 (gc 5 x)) c (.sts 3 5 2 0 0 0) = none ∧ failsFirst c c.team (5#6).toNat (2 ^ (2#3).toNat) (c.sel (0#3).toNat) 0 = true ∧
      accessHeld (ready 0x88302A00 (gc 5 x)) c true false 0 = false ∧ accessHeld (ready 0x88302A00 (gc 5 x)) c false true 0 = false ∧ c.stuffed = none ∧
      c.team.fr.halted = false)) = true := by decide +kernel
    obtain ⟨c, h, q⟩ := context_spec (a x (by simpa using hx))
    obtain ⟨q1, q2, q3, q4, q5, q6, q7⟩ := of_decide_eq_true q
    exact ⟨_, c, 3, 5, 2, 0, 0, 0, c.team, 0, .inl ⟨rfl, rfl⟩, failsFirst_spec (by decide) q3, ⟨h, q1⟩, q4, ⟨h, q2⟩, q5, q6, q7⟩
  · obtain ⟨c, h, q⟩ := okP (s := ready 0x88302A80 (gc 5 1020)) (i := .lds 3 5 2 1 7 0) (P := fun c => accessHeld (ready 0x88302A80 (gc 5 1020)) c true false 0 = false ∧
      c.team.shape.cluster ≤ (7#3).toNat ∧ c.stuffed = none ∧ c.team.fr.halted = false) (by decide +kernel)
    exact ⟨_, c, 3, 5, 2, 1, 7, 0, h, q.1, rfl, q.2⟩

theorem witness_scratchpad_atomic_faults : ∃ s c d o a t p i fn l rest, accessHeld s c true false (scopeOf c.hs 1).1 = false ∧ c.sel p.toNat ≠ 0 ∧
    ScratchAtomic i d o a t p fn ∧ Issues s c i ∧ c.stuffed = none ∧ c.team.fr.halted = false ∧
    ScratchFails c c.team (haregO c.hs o) (atomWidth t.toNat / 8) (c.sel p.toNat) l ∧ laneNums (c.sel p.toNat) = l :: rest ∧
    Issues s c (.atomgScratch d o a t p) ∧ ScratchFails c c.team (haregO c.hs o) (atomWidth t.toNat / 8) ((1#32) <<< l) l := by
  obtain ⟨c, h, q⟩ := okP (s := ready 0x94302400 (gv 1 (fun l => 1024 + 4 * l))) (i := .atomsAdd 3 1 2 0 0) (P := fun c =>
    precheck (ready 0x94302400 (gv 1 (fun l => 1024 + 4 * l))) c (.atomgScratch 3 1 2 0 0) = none ∧
    accessHeld (ready 0x94302400 (gv 1 (fun l => 1024 + 4 * l))) c true false (scopeOf c.hs 1).1 = false ∧ c.sel (0#3).toNat ≠ 0 ∧ c.stuffed = none ∧
    c.team.fr.halted = false ∧ failsFirst c c.team (haregO c.hs 1) (atomWidth (0#2).toNat / 8) (c.sel (0#3).toNat) 0 = true ∧
    laneNums (c.sel (0#3).toNat) = 0 :: (List.range 31).map (· + 1) ∧
    failsFirst c c.team (haregO c.hs 1) (atomWidth (0#2).toNat / 8) ((1#32) <<< 0) 0 = true) (by decide +kernel)
  exact ⟨_, c, 3, 1, 2, 0, 0, .atomsAdd 3 1 2 0 0, 0, 0, _, q.2.1, q.2.2.1, .add .., h, q.2.2.2.1, q.2.2.2.2.1, failsFirst_spec (by decide) q.2.2.2.2.2.1,
    q.2.2.2.2.2.2.1, ⟨h.here, q.1⟩, failsFirst_spec (by decide) q.2.2.2.2.2.2.2⟩

/-- b1 over the first bytes of the page that holds 0x10000, where the context has no table. -/
def own (g : Group) : Group := { g with bases := g.bases.modify 1 (fun b => { b with valid := true, vbase := 0x10000, frame := 0x10000, limit := 16 }) }

/-- BSET and BLIM that no table holds; a BLIM to the end of its first page. -/
theorem witness_base_words_free : (∃ s c n a, Issues s c (.bset n a) ∧ s.bsetHeld c (sc c a) = false) ∧
    ∃ s c n a w0 w1 lo, Issues s c (.blim n a) ∧ s.blimHeld c (c.bn n.toNat) (sc c a) = false ∧ (c.bn n.toNat).valid = true ∧ (c.bn n.toNat).space = .virtual ∧
      (s.leafFor c.core c.team.shape.ctx (c.bn n.toNat).vbase.toNat).2 = some (w0, w1, lo) ∧ (c.bn n.toNat).continues 0 w0 lo = true ∧
      (sc c a).toNat ≤ 2 ^ lo - (c.bn n.toNat).vbase.toNat % 2 ^ lo ∧ (sc c a).toNat < 2 ^ 32 ∧ n.toNat < c.grp.bases.length := by
  obtain ⟨c, h, q⟩ := okP (s := ready 0x9C410000 (gs 1 0x20000)) (i := .bset 2 1) (P := fun c => (ready 0x9C410000 (gs 1 0x20000)).bsetHeld c (sc c (1#5)) = false) (by decide +kernel)
  obtain ⟨d, k, r⟩ := okP (s := ready 0x9C210008 (own ∘ gs 1 0x1000)) (i := .blim 1 1) (P := fun c =>
    (ready 0x9C210008 (own ∘ gs 1 0x1000)).blimHeld c (c.bn (1#3).toNat) (sc c (1#5)) = false ∧ (c.bn (1#3).toNat).valid = true ∧ (c.bn (1#3).toNat).space = .virtual ∧
    ((ready 0x9C210008 (own ∘ gs 1 0x1000)).leafFor c.core c.team.shape.ctx (c.bn (1#3).toNat).vbase.toNat).2.any (fun x => (c.bn (1#3).toNat).continues 0 x.1 x.2.2 &&
      decide ((sc c (1#5)).toNat ≤ 2 ^ x.2.2 - (c.bn (1#3).toNat).vbase.toNat % 2 ^ x.2.2)) = true ∧ (sc c (1#5)).toNat < 2 ^ 32 ∧ (1#3).toNat < c.grp.bases.length) (by decide +kernel)
  obtain ⟨⟨w0, w1, lo⟩, e, f⟩ := any_ok r.2.2.2.1
  rw [Bool.and_eq_true] at f
  exact ⟨⟨_, c, 2, 1, h, q⟩, ⟨_, d, 1, 1, w0, w1, lo, k, r.1, r.2.1, r.2.2.1, e, f.1, of_decide_eq_true f.2, r.2.2.2.2⟩⟩

/-- Each check of 03 R116, failed first; and none of them. -/
theorem witness_checks : (∃ s c, cxOf s = some c ∧ c.landed = true) ∧ (∃ s c i, cxOf s = some c ∧ c.landed = false ∧ bundleOk i c.hs = false) ∧
    (∃ s c i, cxOf s = some c ∧ c.landed = false ∧ bundleOk i c.hs = true ∧ i.wf = false) ∧
    (∃ s c i, cxOf s = some c ∧ c.landed = false ∧ bundleOk i c.hs = true ∧ i.wf = true ∧ hintedOk i c.hs = true ∧
      ∃ b ∈ featuresOf i ++ hintFeatures c.hs, s.feature (c.polder s) b = false) ∧
    (∃ s c i, cxOf s = some c ∧ c.landed = false ∧ bundleOk i c.hs = true ∧ i.wf = true ∧ hintedOk i c.hs = true ∧
      (∀ b ∈ featuresOf i ++ hintFeatures c.hs, s.feature (c.polder s) b = true) ∧ c.level < minLevel i) ∧
    ∃ s c i, cxOf s = some c ∧ c.landed = false ∧ bundleOk i c.hs = true ∧ i.wf = true ∧ hintedOk i c.hs = true ∧
      (∀ b ∈ featuresOf i ++ hintFeatures c.hs, s.feature (c.polder s) b = true) ∧ minLevel i ≤ c.level ∧ roleAdmits c.grp.role i = false := by
  obtain ⟨c, h, q⟩ := context_spec (s := ready 0xFC000005 (fun g => { g with slices := g.slices.map (fun sl => { sl with landed := true }) }))
    (p := fun c => c.landed) (by decide +kernel)
  obtain ⟨d, k, r⟩ := context_spec (s := ready 0 (fun g => { g with slices := g.slices.map (fun sl => { sl with hints := [(4, 16)] }) }))
    (p := fun c => decide (c.landed = false ∧ bundleOk .exitW c.hs = false)) (by decide +kernel)
  obtain ⟨e, m, t⟩ := context_spec (s := ready 0 id) (p := fun c => decide (c.landed = false ∧ bundleOk (.iopw 3 2 4 0 0) c.hs = true ∧ (Instr.iopw 3 2 4 0 0).wf = false ∧
    bundleOk (.accz 0) c.hs = true ∧ (Instr.accz 0).wf = true ∧ hintedOk (.accz 0) c.hs = true ∧
    (featuresOf (.accz 0) ++ hintFeatures c.hs).all (fun b => (ready 0 id).feature (c.polder (ready 0 id)) b) = true ∧ minLevel (.accz 0) ≤ c.level ∧
    roleAdmits c.grp.role (.accz 0) = false)) (by decide +kernel)
  obtain ⟨f, n, u⟩ := context_spec (s := { ready 0 id with polders := [] }) (p := fun c => decide (c.landed = false ∧ bundleOk (.snput 1 2 3) c.hs = true ∧ (Instr.snput 1 2 3).wf = true ∧
    hintedOk (.snput 1 2 3) c.hs = true ∧ (featuresOf (.snput 1 2 3) ++ hintFeatures c.hs).any (fun b => !State.feature { ready 0 id with polders := [] } (c.polder { ready 0 id with polders := [] }) b) = true))
    (by decide +kernel)
  obtain ⟨g, o, v⟩ := context_spec (s := teamPrep (fun u => { u with priv := 0 }) (ready 0 id)) (p := fun c => decide (c.landed = false ∧ bundleOk (.shoot 1) c.hs = true ∧
    (Instr.shoot 1).wf = true ∧ hintedOk (.shoot 1) c.hs = true ∧
    (featuresOf (.shoot 1) ++ hintFeatures c.hs).all (fun b => (teamPrep (fun u => { u with priv := 0 }) (ready 0 id)).feature (c.polder (teamPrep (fun u => { u with priv := 0 }) (ready 0 id))) b) = true ∧
    c.level < minLevel (.shoot 1))) (by decide +kernel)
  have r := of_decide_eq_true r
  have t := of_decide_eq_true t
  have u := of_decide_eq_true u
  have v := of_decide_eq_true v
  refine ⟨⟨_, c, h, q⟩, ⟨_, d, .exitW, k, r⟩, ⟨_, e, .iopw 3 2 4 0 0, m, t.1, t.2.1, t.2.2.1⟩, ⟨_, f, .snput 1 2 3, n, u.1, u.2.1, u.2.2.1, u.2.2.2.1, ?_⟩,
    ⟨_, g, .shoot 1, o, v.1, v.2.1, v.2.2.1, v.2.2.2.1, List.all_eq_true.mp v.2.2.2.2.1, v.2.2.2.2.2⟩,
    ⟨_, e, .accz 0, m, t.1, t.2.2.2.1, t.2.2.2.2.1, t.2.2.2.2.2.1, List.all_eq_true.mp t.2.2.2.2.2.2.1, t.2.2.2.2.2.2.2⟩⟩
  obtain ⟨b, hb, w⟩ := List.any_eq_true.mp u.2.2.2.2
  exact ⟨b, hb, by simpa using w⟩

/-! ### The unit's and the engines' other cases, the host's places -/

/-- A multiply in the unit whose record asks for no scales, with what its conditions say of the record. -/
theorem multiply_of {e : MxEntry} (o blk ac n : Nat) (ok : ObRec → Bool)
    (h : unitOk e (fun u => ok (u.obRec o) && decide (descSsrc (u.obRec o).desc = 0) &&
      ((unitState e).group? e.ref).any (fun g => (List.range n).all (fun j => decide ((g.acc.getD (ac + j) []).length = 256)))) = true) :
    ∃ u g, AtUnit (unitState e) 0 e u ∧ ok (u.obRec o) = true ∧ (unitState e).unitScales u 0 e o blk = .codes (unitState e) [] ∧
      (unitState e).group? e.ref = some g ∧ ∀ j, j < n → (g.acc.getD (ac + j) []).length = 256 := by
  obtain ⟨u, a, q⟩ := unitOk_spec h
  simp only [Bool.and_eq_true, decide_eq_true_eq] at q
  obtain ⟨⟨b, d⟩, q⟩ := q
  obtain ⟨g, hg, w⟩ := any_ok q
  refine ⟨u, g, a, b, ?_, hg, fun j hj => of_decide_eq_true (List.all_eq_true.mp w j (List.mem_range.mpr hj))⟩
  simp only [State.unitScales, d]

/-- The word that multiplies by the last unit of the FP64 record. -/
def multiply64 : MxEntry := unitEntry (.mmq 14 48 4 0 0 3 0) 0 0 0x80000000

/-- The word that multiplies by the last unit of the sparse record, its metadata given. -/
def multiplySparse (w : Word) : MxEntry := { unitEntry (.mms 15 48 3 1 0 1 0) 0 0 0x80000001 with metas := List.replicate 4 (List.replicate 32 w) }

/-- Both. -/
theorem witness_other_multiplies : (∃ s core e u k a o x n p r blk s1 cs g, AtUnit s core e u ∧ e.instr = .mmq k a o 0 x n p ∧ r = u.obRec o.toNat ∧
      blk = ((hintOf e.hints 0).getD 0).toNat * 32 + n.toNat ∧ r.bound = true ∧ descFmt r.desc = 0 ∧ descSparse r.desc = 0 ∧
      (blk + 1) * descUnit r.desc ≤ 1024 * descSize r.desc ∧ (descAscale r.desc = true → a.toNat ≤ 48) ∧ e.sel ≠ 0 ∧
      s.unitScales u core e o.toNat blk = .codes s1 cs ∧ s1.group? e.ref = some g ∧ (g.acc.getD k.toNat []).length = 256 ∧ (g.acc.getD (k.toNat + 1) []).length = 256) ∧
    ∃ s core e u k a o f x n p r blk s1 cs g, AtUnit s core e u ∧ e.instr = .mms k a o f x n p ∧ r = u.obRec o.toNat ∧
      blk = ((hintOf e.hints 0).getD 0).toNat * 32 + n.toNat ∧ r.bound = true ∧ descFmt r.desc = f.toNat ∧ descSparse r.desc ≠ 0 ∧ f ≠ 0 ∧
      (blk + 1) * descUnit r.desc ≤ 1024 * descSize r.desc ∧ (descAscale r.desc = true → a.toNat ≤ 48) ∧ e.sel ≠ 0 ∧
      (∀ l, l < 32 → e.sel.getLsbD l = true → RunsAscend e r.desc l) ∧
      s.unitScales u core e o.toNat blk = .codes s1 cs ∧ s1.group? e.ref = some g ∧ (g.acc.getD k.toNat []).length = 256 := by
  constructor
  · obtain ⟨u, g, h, q, a, b, d⟩ := multiply_of (e := multiply64) 4 3 14 2 (fun r => decide (r.bound = true ∧ descFmt r.desc = 0 ∧ descSparse r.desc = 0 ∧
      (3 + 1) * descUnit r.desc ≤ 1024 * descSize r.desc)) (by decide +kernel)
    obtain ⟨q1, q2, q3, q4⟩ := of_decide_eq_true q
    exact ⟨_, 0, multiply64, u, 14, 48, 4, 0, 3, 0, _, 3, _, [], g, h, rfl, rfl, by decide, q1, q2, q3, q4, fun _ => by decide, by decide, a, b, d 0 (by decide), d 1 (by decide)⟩
  · obtain ⟨u, g, h, q, a, b, d⟩ := multiply_of (e := multiplySparse 0x10101010) (3#3).toNat 1 15 1 (fun r => decide (r.desc = 0xC0401 ∧ r.bound = true)) (by decide +kernel)
    obtain ⟨q1, q2⟩ := of_decide_eq_true q
    refine ⟨_, 0, multiplySparse 0x10101010, u, 15#4, 48#6, 3#3, 1#4, 0, 1#5, 0, _, 1, _, [], g, h, rfl, rfl, by decide, q2, ?_, ?_, by decide, ?_, fun _ => by decide, by decide, ?_, a, b, d 0 (by decide)⟩
    all_goals rw [q1]
    · decide
    · decide
    · decide
    · intro l hl _ t j ht hj
      have : ∀ l ∈ List.range 32, ∀ t ∈ List.range (descK 0xC0401 / 16), ∀ j ∈ List.range (descSparse 0xC0401),
          j + 1 < descSparse 0xC0401 → metaIndex (multiplySparse 0x10101010).metas (descSparse 0xC0401) l t j <
            metaIndex (multiplySparse 0x10101010).metas (descSparse 0xC0401) l t (j + 1) := by decide +kernel
      exact this l (List.mem_range.mpr hl) t (List.mem_range.mpr ht) j (List.mem_range.mpr (by omega)) hj

/-- A multiply by an unbound record, one past its record's units, and one whose last selected lane has metadata that do not ascend. -/
theorem witness_multiplies_that_fault : (∃ s core e u a f n o sparse, AtUnit s core e u ∧ MultiplyAt e a f n o sparse ∧ (u.obRec o).bound = false) ∧
    (∃ s core e u a f n o, AtUnit s core e u ∧ MultiplyAt e a f n o false ∧ (u.obRec o).bound = true ∧ 1024 * descSize (u.obRec o).desc < (n + 1) * descUnit (u.obRec o).desc ∧
      n * descUnit (u.obRec o).desc ≤ 1024 * descSize (u.obRec o).desc) ∧
    ∃ s core e u a f n o l, AtUnit s core e u ∧ MultiplyAt e a f n o true ∧ MultiplyOk (u.obRec o) e a f n true ∧ l < 32 ∧ e.sel.getLsbD l = true ∧
      ¬ RunsAscend e (u.obRec o).desc l ∧ ∀ j, j < l → e.sel.getLsbD j = true → RunsAscend e (u.obRec o).desc j := by
  refine ⟨?_, ?_, ?_⟩
  · obtain ⟨u, h, q⟩ := unitOk_spec (e := unitEntry (.mmq 0 48 7 1 0 3 0) 0 0 1) (p := fun u => decide ((u.obRec 7).bound = false)) (by decide +kernel)
    exact ⟨_, 0, _, u, _, _, _, _, _, h, .mmq 0 48 7 1 0 3 0 rfl, of_decide_eq_true q⟩
  · obtain ⟨u, h, q⟩ := unitOk_spec (e := unitEntry (.mmq 0 48 0 1 0 4 0) 0 0 1) (p := fun u => decide ((u.obRec 0).bound = true ∧
      1024 * descSize (u.obRec 0).desc < (4 + 1) * descUnit (u.obRec 0).desc ∧ 4 * descUnit (u.obRec 0).desc ≤ 1024 * descSize (u.obRec 0).desc)) (by decide +kernel)
    exact ⟨_, 0, _, u, _, _, _, _, h, .mmq 0 48 0 1 0 4 0 rfl, of_decide_eq_true q⟩
  · obtain ⟨u, h, q⟩ := unitOk_spec (e := multiplySparse 0x01) (p := fun u => decide ((u.obRec (3#3).toNat).desc = 0xC0401 ∧ (u.obRec (3#3).toNat).bound = true)) (by decide +kernel)
    obtain ⟨q1, q2⟩ := of_decide_eq_true q
    refine ⟨_, 0, multiplySparse 0x01, u, _, _, _, _, 0, h, .mms 15#4 48#6 3#3 1#4 0 1#5 0 rfl, ?_, by decide, by decide, ?_, by omega⟩
    · refine ⟨q2, ?_, ?_, ?_, fun _ => by decide⟩
      all_goals rw [q1]
      all_goals decide
    · rw [q1]
      intro h
      exact absurd (h 0 0 (by decide) (by decide)) (by decide)

/-- The engines of polder 0 switched off. -/
def enginesOff (s : State) : State := s.modPolder 0 (fun x => { x with eng := { x.eng with enable := false } })

/-- The words of an engine that find it off, and those whose reference has upper bits. -/
theorem witness_engine_off : ∀ i ∈ [.snput 1 2 3, .snget 1 2, .snfind 1 2 3], ∃ s : State, ∃ p id o u core, AtEngine s p id o u core ∧ o.instr = i ∧
    (s.polder p).eng.enable = false ∧ o.vals.length = 32 ∧ o.sel = 1 := by
  intro i hi
  have a : ∀ i ∈ [.snput 1 2 3, .snget 1 2, .snfind 1 2 3], engineOkAt (enginesOff (engineState (engineOp i true 1 0 0))) (engineOp i true 1 0 0)
      (fun _ => !((enginesOff (engineState (engineOp i true 1 0 0))).polder 0).eng.enable) = true := by decide +kernel
  obtain ⟨u, h, q⟩ := engineOkAt_spec (a i hi)
  exact ⟨_, 0, 7, _, u, 0, h, rfl, by simpa using q, List.length_replicate, rfl⟩

theorem witness_bad_references : ∀ i ∈ [.snput 1 2 3, .snget 1 2, .snfind 1 2 3], ∃ s : State, ∃ p id o u core, AtEngine s p id o u core ∧ o.instr = i ∧
    2 ^ 30 ≤ o.sa.toNat ∧ 2 ^ 30 ≤ o.sb.toNat ∧ o.sb.extractLsb' 8 8 ≠ 0 ∧ (s.polder p).eng.enable = true ∧ o.vals.length = 32 ∧ o.sel = 1 := by
  intro i hi
  have a : ∀ i ∈ [.snput 1 2 3, .snget 1 2, .snfind 1 2 3], engineOk (engineOp i true 1 0x40000000 0x40000100)
      (fun _ => ((engineState (engineOp i true 1 0x40000000 0x40000100)).polder 0).eng.enable) = true := by decide +kernel
  obtain ⟨u, h, q⟩ := engineOk_spec (a i hi)
  exact ⟨_, 0, 7, _, u, 0, h, rfl, (by decide : 2 ^ 30 ≤ (0x40000000#64).toNat), (by decide : 2 ^ 30 ≤ (0x40000100#64).toNat),
    (by decide : (0x40000100#64).extractLsb' 8 8 ≠ 0), q, List.length_replicate, rfl⟩

/-- A tree word that releases nothing. -/
theorem witness_acquiring_tree_word : ∃ s : State, ∃ c i d a b, TreeWord i d a b false ∧ Issues s c i ∧ accessHeld s c true false 0 = false :=
  let ⟨c, h, q⟩ := okP (s := ready 0 id) (i := .snfind 31 30 29) (P := fun c => accessHeld (ready 0 id) c true false 0 = false) (by decide +kernel)
  ⟨_, c, _, _, _, _, .snfind 31 30 29, h, q⟩

/-- The four places of a host access. -/
theorem witness_host_places : ((spirals true id).hostPlace 8191 = .exposed 0 ∧ (spirals true id).passes 0 0 = true ∧ (spirals true id).wbLost 0 (copyOf 1) = false ∧
      ((spirals true id).quarter 0).copy? (8191 / 4096) = some (copyOf 1)) ∧
    (spirals false id).hostPlace 8191 = .hidden ∧ (State.reset.hostPlace 8191 = .own ∧ Gone State.reset (8191 / 4096)) ∧
    State.hostPlace { spirals true id with parts := (spirals true id).parts.map (fun (p : Part) => { p with pass := 0 }) } (4096 * 64) = .cut 0 := by
  refine ⟨⟨?_, ?_, ?_, ?_⟩, ?_, ⟨?_, ?_⟩, ?_⟩
  case refine_7 => exact ⟨by decide +kernel, fun w hw => by rw [show State.reset.wbq = [] from rfl] at hw; cases hw⟩
  all_goals decide +kernel

/-! ### Contexts, faults, features, retention, readiness and debug: the further cases -/

/-- The context table's memory ready and not; the polder present. -/
theorem witness_tables : ((contexted false liveCtx id).present 0 = true ∧ (contexted false liveCtx id).tableReady 0 63 = true) ∧
    ((contexted true liveCtx id).present 0 = true ∧ (contexted false Ctx.reset id).present 0 = true) ∧
    (contexted false liveCtx (fun s => { s with dev := { s.dev with readyDram := 0 } })).present 0 = true ∧
      ((contexted false liveCtx (fun s => { s with dev := { s.dev with readyDram := 0 } })).polder 0).cmdBusy = false ∧
      (contexted false liveCtx (fun s => { s with dev := { s.dev with readyDram := 0 } })).tableReady 0 63 = false := by
  refine ⟨?_, ?_, ?_⟩ <;> decide +kernel

/-- The descriptors of the engines ready, and not; a function that is absent and one that is present. -/
theorem witness_descriptors : (∃ s : State, ∃ p : Nat, ∃ x : Polder, ∃ v : DWord, s.polders[p]? = some x ∧ s.present p = true ∧ v.getLsbD 31 = true ∧ x.eng.enable = false ∧
      ∀ pa ∈ x.eng.descs, s.devReady p pa = true) ∧
    (∃ s : State, ∃ p : Nat, ∃ x : Polder, ∃ v : DWord, s.polders[p]? = some x ∧ s.present p = true ∧ v.getLsbD 31 = true ∧ x.eng.enable = false ∧
      ∃ pa ∈ x.eng.descs, s.devReady p pa = false) ∧
    (∃ s : State, ∃ p : Nat, ∃ x : Polder, s.polders[p]? = some x ∧ s.present p = false) ∧ parked.present 0 = true := by
  have a (r : BitVec 16) (hr : r = 0xFFFF ∨ r = 0) : ((poldered false (fun x => { x with eng := { x.eng with enable := false } })).polders[0]?).any (fun x =>
      decide (x.eng.enable = false) && x.eng.descs.all (fun pa => State.devReady { poldered false (fun x => { x with eng := { x.eng with enable := false } }) with
        dev := { State.reset.dev with readyDram := r } } 0 pa == (r == 0xFFFF)) && decide (0 ∈ x.eng.descs)) = true := by
    obtain rfl | rfl := hr <;> decide +kernel
  obtain ⟨x, hx, q⟩ := any_ok (a 0xFFFF (.inl rfl))
  obtain ⟨y, hy, w⟩ := any_ok (a 0 (.inr rfl))
  simp only [Bool.and_eq_true, decide_eq_true_eq, List.all_eq_true, beq_iff_eq] at q w
  obtain ⟨z, hz⟩ := some_of (x := State.reset.polders[3]?) (by decide +kernel)
  exact ⟨⟨{ poldered false (fun x => { x with eng := { x.eng with enable := false } }) with dev := { State.reset.dev with readyDram := 0xFFFF } }, 0, x, 0x80000000, hx, by decide +kernel, by decide, q.1.1, fun pa h => (q.1.2 pa h).trans (by decide)⟩,
    ⟨{ poldered false (fun x => { x with eng := { x.eng with enable := false } }) with dev := { State.reset.dev with readyDram := 0 } }, 0, y, 0x80000000, hy, by decide +kernel, by decide, w.1.1, 0, w.2, (w.1.2 0 w.2).trans (by decide)⟩,
    ⟨State.reset, 3, z, hz, by decide +kernel⟩, by decide +kernel⟩

/-- FEATON with bit 15 set and clear over a region that is online, where nothing of the polder is in use; and one over regions that are all fenced. -/
theorem witness_feature_words : (∃ s : State, ∃ p : Nat, ∃ x : Polder, ∃ v : DWord, s.polders[p]? = some x ∧ ¬ PolderUsed s p ∧ v.getLsbD 15 = true ∧
      ∃ r ∈ s.regions, r.state = .online ∧ s.polderOf r.port.toNat = p) ∧
    (∃ s : State, ∃ p : Nat, ∃ x : Polder, ∃ v : DWord, s.polders[p]? = some x ∧ ¬ PolderUsed s p ∧ v.getLsbD 15 = false ∧
      ∃ r ∈ s.regions, r.state = .online ∧ s.polderOf r.port.toNat = p) ∧
    ∃ s : State, ∃ p : Nat, ∃ x : Polder, s.polders[p]? = some x ∧ ¬ PolderUsed s p ∧ ∀ r ∈ s.regions, r.state = .fenced ∨ s.polderOf r.port.toNat ≠ p := by
  have u (rs : List Region) : ¬ PolderUsed { State.reset with regions := rs } 0 := by
    have h1 : State.reset.teams = [] := by decide +kernel
    have h2 : State.reset.ctxs.all (fun c => !c.live) = true := by decide +kernel
    rintro (⟨u, hu, _⟩ | ⟨c, hc, hl, _⟩)
    · rw [show State.teams { State.reset with regions := rs } = [] from h1] at hu; cases hu
    · have := List.all_eq_true.mp h2 c hc; rw [hl] at this; simp at this
  have h : State.reset.polders[0]? = some Polder.reset := by decide +kernel
  exact ⟨⟨{ State.reset with regions := [regionOf .online] }, 0, Polder.reset, 0x8000, h, u _, by decide, regionOf .online, by simp, rfl, by decide +kernel⟩,
    ⟨{ State.reset with regions := [regionOf .online] }, 0, Polder.reset, 0x7FFF, h, u _, by decide, regionOf .online, by simp, rfl, by decide +kernel⟩,
    ⟨{ State.reset with regions := [regionOf .fenced] }, 0, Polder.reset, h, u _, by simp [regionOf]⟩⟩

/-- A core in retention. -/
def sleeping (s : State) : State := s.modCore 0 (fun k => { k with regs := { k.regs with asleep := true, stored := List.replicate 9 0 } })

/-- A core in retention that the distributor has chosen, and one that it has not. -/
theorem witness_chosen : (∃ s : State, ∃ core : Nat, ∃ k : Core, s.cores[core]? = some k ∧ k.regs.asleep = true ∧ s.chosen core = true ∧ k.regs.stored.length = 9) ∧
    ∃ s : State, ∃ core : Nat, ∃ k : Core, s.cores[core]? = some k ∧ k.regs.asleep = true ∧ s.chosen core = false := by
  obtain ⟨k, hk, q⟩ := any_ok (x := (sleeping (placing id)).cores[0]?) (p := fun (k : Core) => decide (k.regs.asleep = true ∧ k.regs.stored.length = 9)) (by decide +kernel)
  obtain ⟨m, hm, w⟩ := any_ok (x := (sleeping State.reset).cores[0]?) (p := fun (k : Core) => k.regs.asleep) (by decide +kernel)
  exact ⟨⟨_, 0, k, hk, (of_decide_eq_true q).1, by decide +kernel, (of_decide_eq_true q).2⟩, ⟨_, 0, m, hm, w, by decide +kernel⟩⟩

/-- A device that becomes ready with nothing in flight. -/
theorem witness_grows_ready : ∃ s : State, s.dev.recov = false ∧ s.ops = [] ∧ NoFence s ∧ ∀ p, p < 4 → (s.polder p).fq.entries = [] ∧ (s.polder p).eng.unread = false :=
  ⟨ready 0 id, by decide +kernel, by decide +kernel, spirals_no_fence false id, by decide +kernel⟩

/-- A halted team whose one live group is its handler; a team that has ended and stands halted; no fault waits anywhere. -/
theorem witness_resume : (∃ s : State, ∃ core : Nat, ∃ k : Core, ∃ r, ∃ u : Team, ∃ g h, s.cores[core]? = some k ∧ k.dbg.busy = false ∧ s.dbgTarget core = some r ∧ s.team? r.team = some u ∧
      s.group? r = some g ∧ u.fr.halted = true ∧ u.handler = some h ∧ h.alive = true ∧ ∀ y ∈ s.polders, ∀ e ∈ y.fq.entries, e.waiters ≠ [] ∧ ∀ n, Waiter.group r.team n ∉ e.waiters) ∧
    ∃ s : State, ∃ core : Nat, ∃ k : Core, ∃ r, ∃ u : Team, ∃ g, s.cores[core]? = some k ∧ k.dbg.busy = false ∧ s.dbgTarget core = some r ∧ s.team? r.team = some u ∧
      s.group? r = some g ∧ u.fr.halted = true ∧ u.groups.any Group.alive = true ∧
      ∀ y ∈ s.polders, ∀ e ∈ y.fq.entries, e.waiters ≠ [] ∧ ∀ n, Waiter.group r.team n ∉ e.waiters := by
  have a : (let s := teamPrep (fun u => { u with handler := u.groups[0]? }) (debugged false true id)
      ((s.cores[0]?).any (fun k => !k.dbg.busy)) && decide (s.dbgTarget 0 = some ⟨1, 0⟩) &&
      (s.team? 1).any (fun u => u.fr.halted && u.groups.any Group.alive && u.handler.any (fun h => h.alive)) && (s.group? ⟨1, 0⟩).isSome &&
      s.polders.all (fun y => y.fq.entries.isEmpty)) = true := by decide +kernel
  simp only [Bool.and_eq_true] at a
  obtain ⟨⟨⟨⟨a1, a2⟩, a3⟩, a4⟩, a5⟩ := a
  obtain ⟨k, hk, q⟩ := any_ok a1
  obtain ⟨u, hu, w⟩ := any_ok a3
  obtain ⟨g, hg⟩ := some_of a4
  simp only [Bool.and_eq_true] at w
  obtain ⟨h, hh, v⟩ := any_ok w.2
  have n : ∀ y ∈ (teamPrep (fun u => { u with handler := u.groups[0]? }) (debugged false true id)).polders, ∀ e ∈ y.fq.entries, e.waiters ≠ [] ∧ ∀ n, Waiter.group 1 n ∉ e.waiters := by
    intro y hy e he
    have := List.all_eq_true.mp a5 y hy
    rw [List.isEmpty_iff] at this
    rw [this] at he; cases he
  exact ⟨⟨_, 0, k, _, u, g, h, hk, by simpa using q, of_decide_eq_true a2, hu, hg, w.1.1, hh, v, n⟩, ⟨_, 0, k, _, u, g, hk, by simpa using q, of_decide_eq_true a2, hu, hg, w.1.1, w.1.2, n⟩⟩

/-- A group of a halted team. -/
theorem witness_halted_group : ∃ s : State, ∃ x u, s.group? ⟨1, 0⟩ = some x ∧ s.team? 1 = some u ∧ u.fr.halted = true := by
  obtain ⟨u, hu, q⟩ := any_ok (x := (debugged false true id).team? 1) (p := fun u => u.fr.halted) (by decide +kernel)
  obtain ⟨x, hx⟩ := some_of (x := (debugged false true id).group? ⟨1, 0⟩) (by decide +kernel)
  exact ⟨_, x, u, hx, hu, q⟩

/-- Before boot with nothing on the agenda: a window due, and none due. -/
theorem witness_before_boot : (∃ s : State, s.stopped = false ∧ s.dev.booted = false ∧ s.agenda = [] ∧ ¬ WindowDue s) ∧
    ∃ s : State, s.stopped = false ∧ s.dev.booted = false ∧ s.agenda = [] ∧ WindowDue s := by
  have b : State.reset.dev.booted = false := by decide +kernel
  exact ⟨⟨{ State.reset with agenda := [], tick := 1399 }, rfl, b, rfl, (by decide +kernel : ¬ (State.reset.dev.windowAt / 1400 ≠ (1399#64).toNat / 1400))⟩,
    ⟨{ State.reset with agenda := [], tick := 1400 }, rfl, b, rfl, (by decide +kernel : State.reset.dev.windowAt / 1400 ≠ (1400#64).toNat / 1400)⟩⟩

/-- A port of a polder that is not there, and one that is. -/
theorem witness_presence : (∃ s : State, ∃ p : Nat, ∃ x : Polder, s.polders[p]? = some x ∧ s.present p = true) ∧ ∃ s : State, ∃ p : Nat, ∃ x : Polder, s.polders[p]? = some x ∧ s.present p = false := by
  obtain ⟨x, h⟩ := some_of (x := State.reset.polders[3]?) (by decide +kernel)
  exact ⟨⟨State.reset, 0, Polder.reset, by decide +kernel, by decide +kernel⟩, ⟨_, 3, x, h, by decide +kernel⟩⟩

end Sys2Proof.Tests
end

section
/-! Scope (00_scope.md): the machine after reset, reset and power loss, the release, secured sessions, and the registers reached
through the port and BAR0. -/
namespace Sys2Proof.Scope
open Sys2Proof Sys2Proof.Machine Sys2Proof.Safety

/-! ## One entry of a list of the state replaced -/

/-- Changing an entry that the list holds sets it. -/
theorem modAt_eq_set {α : Type} {xs : List α} {i : Nat} {x : α} (h : xs[i]? = some x) (f : α → α) :
    modAt xs i f = xs.set i (f x) := by
  obtain ⟨hi, rfl⟩ := List.getElem?_eq_some_iff.mp h
  refine List.ext_getElem? fun j => ?_
  rw [modAt, List.getElem?_modify, List.getElem?_set]
  by_cases e : i = j
  · subst e
    simp only [if_true, if_pos hi, h, Option.map_eq_map, Option.map_some]
  · simp only [if_neg e, Option.map_eq_map, Option.map_id']

/-- Setting an entry to what it is changes nothing. -/
theorem set_same {α : Type} {xs : List α} {i : Nat} {x : α} (h : xs[i]? = some x) : xs.set i x = xs := by
  obtain ⟨hi, rfl⟩ := List.getElem?_eq_some_iff.mp h
  exact List.set_getElem_self hi

theorem polder_eq {s : State} {p : Nat} {x : Polder} (h : s.polders[p]? = some x) : s.polder p = x := by
  rw [State.polder, List.getD_eq_getElem?_getD, h]; rfl

theorem modPolder_eq_set {s : State} {p : Nat} {x : Polder} (h : s.polders[p]? = some x) (f : Polder → Polder) :
    s.modPolder p f = { s with polders := s.polders.set p (f x) } := by
  rw [State.modPolder, modAt_eq_set h]

/-- A register that keeps its value while its unit is on. -/
theorem modPolder_unless {s : State} {p : Nat} {x : Polder} (h : s.polders[p]? = some x) {f g : Polder → Polder} {b : Bool}
    (hf : f x = if b = true then x else g x) :
    s.modPolder p f = if b = true then s else { s with polders := s.polders.set p (g x) } := by
  rw [modPolder_eq_set h, hf]
  split
  · rw [set_same h]
  · rfl

theorem modQueue_eq_withQueue {s : State} {p q : Nat} {x : Polder} {k : Queue} (h : s.polders[p]? = some x) (hk : x.queues[q]? = some k)
    (f : Queue → Queue) : s.modQueue p q f = withQueue s p x q (f k) := by
  rw [State.modQueue, modPolder_eq_set h, modAt_eq_set hk, withQueue]

/-- A queue set to what it is. -/
theorem withQueue_same {s : State} {p q : Nat} {x : Polder} {k : Queue} (h : s.polders[p]? = some x) (hk : x.queues[q]? = some k) :
    withQueue s p x q k = s := by
  rw [withQueue, set_same hk, set_same h]

theorem modCore_eq_withCore {s : State} {core : Nat} {k : Core} (h : s.cores[core]? = some k) (f : Core → Core) :
    s.modCore core f = withCore s core (f k) := by
  rw [State.modCore, modAt_eq_set h, withCore]

/-! ## The state after reset (00 R13) -/

theorem reset_polders_legal : poldersLegal State.reset := by
  have own : ∀ q, q < 4 → ((masks State.reset).getD q 0).getLsbD q = true := by decide
  have same : ∀ a, a < 4 → ∀ b, b < 4 → (masks State.reset).getD b 0 = (masks State.reset).getD a 0 := by decide
  exact ⟨rfl, own, fun a b ha hb _ => same a ha b hb⟩

theorem reset_invariant : Inv State.reset := ⟨reset_memory_wf, reset_polders_legal⟩

theorem reset_core {c : Nat} (h : c < 256) : State.reset.core c = Core.reset := by
  rw [State.core, List.getD_eq_getElem?_getD]
  exact congrArg (·.getD Core.reset) (List.getElem?_replicate_of_lt h)

/-- Settles O60: the reset state is a literal, and its one polder of four quarters is legal. -/
theorem resetMeetsTheInvariant : Obligations.ResetMeetsTheInvariant := by
  unfold Obligations.ResetMeetsTheInvariant
  refine ⟨reset_invariant, rfl, rfl, rfl, rfl, rfl, List.length_replicate, rfl, by decide, fun c hc => ?_⟩
  rw [reset_core hc]
  exact ⟨rfl, rfl⟩

/-! ## Reset and power loss (00 R13, log 27) -/

/-- Where no unit lies under a key, new keys leave memory as it is. -/
theorem rekey_of_no_keys {h : Home} (hk : h.keys = []) (ks : List KeySlot) (slot : Nat) (new : KeySlot) : h.rekey ks slot new = h := by
  rw [Home.rekey, hk]
  exact ite_self h

theorem putKey_of_no_keys {s : State} (hk : s.home.keys = []) (slot : Nat) (new : KeySlot) :
    s.putKey slot new = { s with keys := modAt s.keys slot (fun _ => new) } := by
  rw [State.putKey, rekey_of_no_keys hk]

/-- Emptying key slots leaves memory as it is where no unit lies under a key. -/
theorem home_of_slots_emptied {s : State} (hk : s.home.keys = []) (slots : List Nat) :
    (slots.foldl (fun t k => t.putKey k KeySlot.off) s).home = s.home := by
  refine foldl_keeps (fun t : State => t.home = s.home) _ (fun t k ht => ?_) slots s rfl
  rw [putKey_of_no_keys (ht ▸ hk)]
  exact ht

theorem resetKeeping_of_no_keys {s : State} (hk : s.home.keys = []) :
    s.resetKeeping = { State.reset with
      home := { s.home with hostBias := [] }, agenda := s.agenda, slow := s.slow, free := s.free, saved := s.saved,
      dev := { Dev.reset with fuseSvn := s.dev.fuseSvn, nextId := s.dev.nextId } } := by
  simp only [State.resetKeeping, home_of_slots_emptied hk]

theorem resetKeeping_afterReset {s : State} (hk : s.home.keys = []) : AfterReset s s.resetKeeping := by
  rw [resetKeeping_of_no_keys hk]
  exact ⟨rfl, rfl, rfl, rfl, rfl, rfl, rfl⟩

/-- A byte of a list of which the addresses outside a set are gone. -/
theorem cellsRead_filter (m : List Host.Cell) (keep : Nat → Bool) (a : Nat) :
    cellsRead (m.filter (fun c => keep c.1)) a = if keep a = true then cellsRead m a else Config.memDefault := by
  induction m with
  | nil => exact (ite_self _).symm
  | cons c cs ih =>
    rw [List.filter_cons]
    by_cases hc : keep c.1 = true
    · rw [if_pos hc, cellsRead, cellsRead, ih]
      by_cases e : c.1 = a
      · rw [if_pos e, if_pos e, if_pos (e ▸ hc)]
      · rw [if_neg e, if_neg e]
    · rw [if_neg hc, ih, cellsRead]
      by_cases e : c.1 = a
      · rw [if_neg (e ▸ hc), if_neg (e ▸ hc)]
      · rw [if_neg e]

theorem loseDram_keys {s : State} (hk : s.home.keys = []) : s.loseDram.home.keys = [] := by
  simp only [State.loseDram, State.modHome, hk, List.filter_nil]

/-- Without power local memory reads as memory nothing has written; the rest is as it was (log 1). -/
theorem loseDram_byte (s : State) (a : Nat) :
    (IsLocal s a → s.loseDram.home.byte a = Config.memDefault) ∧ (¬ IsLocal s a → s.loseDram.home.byte a = s.home.byte a) := by
  have hl : (List.range 4).any (fun q => (s.rangeAt q a).isSome) = true ↔ IsLocal s a := by
    simp only [List.any_eq_true, List.mem_range, IsLocal]
  have hb : s.loseDram.home.byte a = _ :=
    cellsRead_filter s.home.cells (fun pa => !(List.range 4).any (fun q => (s.rangeAt q pa).isSome)) a
  constructor
  · intro h
    rw [hb, if_neg (by rw [hl.mpr h]; decide)]
  · intro h
    rw [hb, if_pos (by rw [Bool.not_eq_true', Bool.eq_false_iff]; exact fun x => h (hl.mp x))]
    rfl

theorem exec_reset (s : State) : exec .reset s = .next s.resetKeeping := rfl

theorem exec_powerLoss (s : State) : exec .powerLoss s = .next { s.loseDram.resetKeeping with saved := [] } := rfl

/-! ## Release from reset (21 R513) -/

/-- Whether an image verifies and is not older than the fused counter. -/
def passes (s : State) (ok : Bool) (svn : BitVec 16) : Bool := ok && decide (s.dev.fuseSvn.toNat ≤ svn.toNat)

theorem passes_of {s : State} {ok : Bool} {svn : BitVec 16} (hok : ok = true) (h : s.dev.fuseSvn.toNat ≤ svn.toNat) : passes s ok svn = true := by
  rw [passes, hok, decide_eq_true h]; rfl

theorem not_passes_of {s : State} {ok : Bool} {svn : BitVec 16} (h : ok = false ∨ svn.toNat < s.dev.fuseSvn.toNat) :
    ¬ passes s ok svn = true := by
  rw [passes, Bool.and_eq_true, decide_eq_true_eq]
  rintro ⟨hok, hsvn⟩
  rcases h with h | h
  · exact Bool.false_ne_true (h.symm.trans hok)
  · omega

/-- A device that has left reset, with the version it runs, whether in recovery mode, and the slot it tried last. -/
def released (s : State) (svn : BitVec 16) (recov slot : Bool) : State :=
  { started s with dev := { s.dev with booted := true, svn := svn, recov := recov, slot := slot } }

/-- The release: slot 0, then slot 1, then recovery mode; a device that runs takes no other. -/
theorem exec_releaseFromReset (ok0 ok1 : Bool) (svn0 svn1 : BitVec 16) (s : State) :
    exec (.releaseFromReset ok0 ok1 svn0 svn1) s = .next (
      if s.dev.booted = true then s
      else if passes s ok0 svn0 = true then released s svn0 false false
      else if passes s ok1 svn1 = true then released s svn1 false true
      else released s 0 true true) := rfl

/-- The release of a device in reset, by which image passes first. -/
theorem release_boots {s : State} (h : s.dev.booted = false) (ok0 ok1 : Bool) (svn0 svn1 : BitVec 16) :
    (passes s ok0 svn0 = true → exec (.releaseFromReset ok0 ok1 svn0 svn1) s = .next (released s svn0 false false)) ∧
    (¬ passes s ok0 svn0 = true →
      (passes s ok1 svn1 = true → exec (.releaseFromReset ok0 ok1 svn0 svn1) s = .next (released s svn1 false true)) ∧
      (¬ passes s ok1 svn1 = true → exec (.releaseFromReset ok0 ok1 svn0 svn1) s = .next (released s 0 true true))) := by
  rw [exec_releaseFromReset, h, if_neg Bool.false_ne_true]
  refine ⟨fun h0 => ?_, fun h0 => ⟨fun h1 => ?_, fun h1 => ?_⟩⟩
  · rw [if_pos h0]
  · rw [if_neg h0, if_pos h1]
  · rw [if_neg h0, if_neg h1]

/-! ## Secured sessions and keys (16 R427, 21 R514) -/

theorem answers_iff {s : State} {fn : Nat} : s.answers fn = true ↔ Answers s fn := by
  simp only [State.answers, Answers, Bool.and_eq_true, Bool.or_eq_true, Bool.not_eq_true', beq_iff_eq, decide_eq_true_eq]
  constructor
  · rintro ⟨⟨hp, hf⟩, hr⟩
    exact ⟨hf, hp, fun on => hr.resolve_left fun off => Bool.false_ne_true (off.symm.trans on)⟩
  · rintro ⟨hf, hp, hr⟩
    refine ⟨⟨hp, hf⟩, ?_⟩
    cases e : s.dev.recov with
    | false => exact .inl rfl
    | true => exact .inr (hr e)

/-- Each request of 21 R514 is one answer, where the connection has come far enough. -/
theorem exec_spdmRequest {fn : Nat} {i : Instr} {req least : Nat} {stage : Nat → Nat} {secure : Bool → Bool}
    (h : SpdmRequest fn i req least stage secure) (s : State) : exec i s = .next (s.spdmAnswer fn req least stage secure) := by
  cases h <;> rfl

theorem spdmAnswer_answered {s : State} {fn least : Nat} {x : Polder} (hx : s.polders[fn]? = some x) (ha : Answers s fn) (hl : least ≤ x.spdm)
    (req : Nat) (stage : Nat → Nat) (secure : Bool → Bool) :
    s.spdmAnswer fn req least stage secure = { s with free := s.free + 1, polders := s.polders.set fn { x with
      spdm := stage x.spdm, secure := secure x.secure, doe := Config.spdmBytes req s.free } } := by
  have hc : (s.answers fn && decide (least ≤ (s.polder fn).spdm)) = true := by
    rw [answers_iff.mpr ha, polder_eq hx, decide_eq_true hl]; rfl
  rw [State.spdmAnswer, if_pos hc]
  exact modPolder_eq_set (s := s.draw.2) hx _

theorem spdmAnswer_refused {s : State} {fn least : Nat} {x : Polder} (hx : s.polders[fn]? = some x) (h : ¬ Answers s fn ∨ x.spdm < least)
    (req : Nat) (stage : Nat → Nat) (secure : Bool → Bool) : s.spdmAnswer fn req least stage secure = s := by
  rw [State.spdmAnswer, if_neg]
  rw [Bool.and_eq_true, answers_iff, decide_eq_true_eq, polder_eq hx]
  rintro ⟨ha, hl⟩
  exact h.elim (fun n => n ha) (fun n => absurd hl (by omega))

/-- A key slot takes its keys from a message of a secured session outside recovery mode, and from nothing else. -/
theorem exec_keyLoad (fn slot : Nat) (d w : BitVec 256) (s : State) :
    exec (.keyLoad fn slot d w) s = .next (if s.answers fn && !s.dev.recov && (s.polder fn).secure && decide (slot < 64) then
      s.putKey slot { loaded := true, data := d, tweak := w } else s) := rfl

theorem keyLoad_loads {s : State} {fn slot : Nat} (ha : Answers s fn) (hr : s.dev.recov = false) (hs : (s.polder fn).secure = true)
    (hn : slot < 64) (hk : s.home.keys = []) (d w : BitVec 256) :
    exec (.keyLoad fn slot d w) s = .next { s with keys := modAt s.keys slot (fun _ => { loaded := true, data := d, tweak := w }) } := by
  rw [exec_keyLoad, if_pos (by rw [answers_iff.mpr ha, hr, hs, decide_eq_true hn]; rfl), putKey_of_no_keys hk]

theorem keyLoad_refused {s : State} {fn slot : Nat}
    (h : ¬ Answers s fn ∨ s.dev.recov = true ∨ (s.polder fn).secure = false ∨ 64 ≤ slot) (d w : BitVec 256) :
    exec (.keyLoad fn slot d w) s = .next s := by
  rw [exec_keyLoad, if_neg]
  simp only [Bool.and_eq_true, answers_iff, Bool.not_eq_true', decide_eq_true_eq]
  rintro ⟨⟨⟨ha, hr⟩, hs⟩, hn⟩
  rcases h with h | h | h | h
  · exact h ha
  · simp [hr] at h
  · simp [hs] at h
  · omega

/-- Settles O52: each event is one lemma above; power loss is reset of a memory without its local cells. -/
theorem resetReleaseAndSessions : Obligations.ResetReleaseAndSessions := by
  intro s
  refine ⟨fun hk => ⟨⟨_, exec_reset s, resetKeeping_afterReset hk, ?_⟩, _, exec_powerLoss s, ?_⟩, fun ok0 ok1 svn0 svn1 => ?_,
    fun fn x i req least stage secure hx hi => ?_, fun fn slot d w => ?_⟩
  · rw [resetKeeping_of_no_keys hk]
  · rw [resetKeeping_of_no_keys (loseDram_keys hk)]
    exact ⟨rfl, rfl, rfl, rfl, loseDram_byte s⟩
  · refine ⟨fun h => by rw [exec_releaseFromReset, if_pos h], fun h => ?_⟩
    obtain ⟨slot0, other⟩ := release_boots h ok0 ok1 svn0 svn1
    refine ⟨fun hok hsvn => slot0 (passes_of hok hsvn), fun h0 => ?_⟩
    obtain ⟨slot1, recovery⟩ := other (not_passes_of h0)
    exact ⟨fun hok hsvn => slot1 (passes_of hok hsvn), fun h1 => recovery (not_passes_of h1)⟩
  · rw [exec_spdmRequest hi]
    exact ⟨fun ha hl => congrArg _ (spdmAnswer_answered hx ha hl req stage secure),
      fun h => congrArg _ (spdmAnswer_refused hx h req stage secure)⟩
  · exact ⟨fun ha hr hs hn hk => keyLoad_loads ha hr hs hn hk d w, fun h => keyLoad_refused h d w⟩

/-! ## BAR0 of a polder's function (15 R400, R402, 16 R426, R435, 17 R446, 19 R477) -/

theorem exec_barWrite (p n : Nat) (v : DWord) (s : State) : exec (.regWrite (256 + p) n v) s = .next (s.barWrite p n v) := by
  show execRegWrite (256 + p) n v s = _
  rw [execRegWrite, if_neg (by omega), Nat.add_sub_cancel_left]

theorem exec_barClear (p n : Nat) (s : State) : exec (.readClear (256 + p) n) s = .next (s.barCleared p n) := by
  show execReadClear (256 + p) n s = _
  rw [execReadClear, if_neg (by omega), Nat.add_sub_cancel_left]

/-- The function of a polder that is not there takes nothing and reads as all ones. -/
theorem absent_function {s : State} {p : Nat} (h : s.present p = false) (n : Nat) (v : DWord) :
    exec (.regWrite (256 + p) n v) s = .next s ∧ exec (.readClear (256 + p) n) s = .next s ∧
      s.barRead p n = BitVec.allOnes 64 ∧ s.configRead p n = BitVec.allOnes 32 := by
  rw [exec_barWrite, exec_barClear]
  simp only [State.barWrite, h, Bool.not_false, ↓reduceIte, State.barCleared, Bool.false_eq_true, and_false, State.barRead, State.configRead,
    and_self]

section Present
variable {s : State} {p : Nat} (hp : s.present p = true)
include hp

theorem barWrite_ctxTab (v : DWord) : s.barWrite p 0x200 v = s.modPolder p (fun x => { x with ctxTab := v.extractLsb' 14 38 }) := by
  rw [State.barWrite, hp]; rfl

theorem barWrite_faultBase (v : DWord) : s.barWrite p 0x300 v =
    s.modPolder p (fun x => if x.fq.enable then x else { x with fq := { x.fq with base := v.extractLsb' 5 47 } }) := by
  rw [State.barWrite, hp]; rfl

theorem barWrite_snTab (v : DWord) : s.barWrite p 0x400 v =
    s.modEng p (fun e => if e.enable then e else { e with snTab := v.extractLsb' 21 31 }) := by
  rw [State.barWrite, hp]; rfl

theorem barWrite_snTrees (v : DWord) : s.barWrite p 0x408 v =
    s.modEng p (fun e => if e.enable then e else { e with snTrees := v.extractLsb' 13 39 }) := by
  rw [State.barWrite, hp]; rfl

theorem barWrite_kvTab (v : DWord) : s.barWrite p 0x420 v =
    s.modEng p (fun e => if e.enable then e else { e with kvTab := v.extractLsb' 13 39 }) := by
  rw [State.barWrite, hp]; rfl

/-- The registers of the queues, by their place in a queue's 32 bytes. -/
theorem barWrite_queue {n : Nat} (hn : 0x1000 ≤ n ∧ n < 0x2000) (v : DWord) :
    (n % 32 = 8 → s.barWrite p n v =
      s.modQueue p ((n - 0x1000) / 32) (fun k => if k.enable then k else { k with base := v.extractLsb' 8 44 })) ∧
    (n % 32 = 16 → s.barWrite p n v = stateOf (execQtailWrite p ((n - 0x1000) / 32) v s) s) := by
  simp only [State.barWrite, hp, Bool.not_true, Bool.false_eq_true, if_false]
  split
  case h_14 =>
    rw [if_pos hn]
    exact ⟨fun h => by simp only [h], fun h => by simp only [h]⟩
  all_goals omega

theorem barWrite_queueBase {q : Nat} (hq : q < 128) (v : DWord) : s.barWrite p (0x1000 + 32 * q + 8) v =
    s.modQueue p q (fun k => if k.enable then k else { k with base := v.extractLsb' 8 44 }) := by
  rw [(barWrite_queue hp (by omega) v).1 (by omega), show (0x1000 + 32 * q + 8 - 0x1000) / 32 = q by omega]

theorem barWrite_queueTail {q : Nat} (hq : q < 128) (v : DWord) : s.barWrite p (0x1000 + 32 * q + 16) v =
    s.modQueue p q (fun k => { k with tail := v.extractLsb' 0 32, subs := k.subs ++ [(v.extractLsb' 0 32, s.cycle)] }) := by
  rw [(barWrite_queue hp (by omega) v).2 (by omega), show (0x1000 + 32 * q + 16 - 0x1000) / 32 = q by omega, execQtailWrite, if_pos hp]
  rfl

theorem barCleared_engine : s.barCleared p 0x418 = s.modEng p (fun e => { e with evict := 0, dedup := 0, badRel := 0 }) :=
  if_pos ⟨rfl, hp⟩

end Present

/-- A base of the engines keeps its value while they are on. -/
theorem modEng_unless {s : State} {p : Nat} {x : Polder} (h : s.polders[p]? = some x) (g : Engine → Engine) :
    s.modEng p (fun e => if e.enable then e else g e) =
      if x.eng.enable = true then s else { s with polders := s.polders.set p { x with eng := g x.eng } } :=
  modPolder_unless h (g := fun y => { y with eng := g y.eng }) (apply_ite (fun e => { x with eng := e }) _ _ _)

/-! ## A core's registers through the port (20 R498, 23 R528) -/

theorem exec_portWrite {core : Nat} (h : core < 256) (n : Nat) (v : DWord) (s : State) :
    exec (.regWrite core n v) s = .next (s.portWrite core n v) := congrArg _ (if_pos h)

theorem exec_portClear {core : Nat} (h : core < 256) (n : Nat) (s : State) :
    exec (.readClear core n) s = .next (((s.regRead (s.portAcc core) n).map Prod.fst).getD s) := congrArg _ (if_pos h)

/-- The port, which reaches at fw level, admits a register that has a level of 2 or less. -/
theorem port_admits {n r w : Nat} (h : regLevels n = some (r, w)) (hr : r ≤ 2) (s : State) (core : Nat) :
    s.regAdmits (s.portAcc core) n false = true := by
  simp only [State.regAdmits, h, Bool.false_eq_true, ↓reduceIte, State.portAcc, hr, decide_true, Bool.and_false, Bool.or_false,
    Nat.reduceBEq, Bool.false_and, Bool.not_false, Bool.and_self]

/-- A read through the port of a register that is no temperature clears its fields. -/
theorem portClear_clears {core n r w : Nat} (hc : core < 256) (h : regLevels n = some (r, w)) (hr : r ≤ 2)
    (hn : n ≠ 0x401 ∧ ¬ (0x410 ≤ n ∧ n ≤ 0x41F)) (s : State) :
    exec (.readClear core n) s = .next (s.regCleared (s.portAcc core) n) := by
  have hs : s.sampledFor core n = s := by rw [State.sampledFor, if_neg hn.1, if_neg hn.2]
  rw [exec_portClear hc, State.regRead, if_pos (port_admits h hr s core)]
  show Host.Outcome.next ((s.sampledFor core n).regCleared (s.portAcc core) n) = _
  rw [hs]

/-- The status of a link is at no level's writing (19 R495). -/
theorem regLevels_link {n : Nat} (h : n < 16) : regLevels (0x340 + n) = some (1, 3) := by
  revert n
  decide

theorem portWrite_link {n : Nat} (h : n < 16) (core : Nat) (v : DWord) (s : State) : s.portWrite core (0x340 + n) v = s := by
  have hd : ((0x340 + n) == 0x632) = false := beq_false_of_ne (by omega)
  have ha : s.regAdmits (s.portAcc core) (0x340 + n) true = false := by
    simp only [State.regAdmits, regLevels_link h, ↓reduceIte, State.portAcc, Nat.reduceLeDiff, decide_false, hd, Bool.and_self,
      Bool.or_self, Bool.false_and]
  simp only [State.portWrite, State.regWrite, ha, Bool.false_eq_true, ↓reduceIte, Option.getD_none]

/-- Settles O55: each register by its lemma above; one that keeps its value is set to what it is. -/
theorem portWritesAndClearingReads : Obligations.PortWritesAndClearingReads := by
  intro s p x hx
  refine ⟨fun h n v => absent_function h n v, fun hp => ⟨fun v => ?_, fun v => ?_, fun v => ?_, fun v => ?_, fun v => ?_, fun q k v hk hq => ⟨?_, ?_⟩,
    ?_, fun n hn => ?_⟩, fun core n v hc hn => ?_, fun core k hk hc => ⟨?_, ?_, ?_⟩⟩
  · rw [exec_barWrite, barWrite_ctxTab hp, modPolder_eq_set hx]
  · rw [exec_barWrite, barWrite_faultBase hp, modPolder_unless hx (g := fun y => { y with fq := { y.fq with base := v.extractLsb' 5 47 } }) rfl]
  · rw [exec_barWrite, barWrite_snTab hp, modEng_unless hx]
  · rw [exec_barWrite, barWrite_snTrees hp, modEng_unless hx]
  · rw [exec_barWrite, barWrite_kvTab hp, modEng_unless hx]
  · rw [exec_barWrite, barWrite_queueBase hp hq, modQueue_eq_withQueue hx hk]
    split
    · rw [withQueue_same hx hk]
    · rfl
  · rw [exec_barWrite, barWrite_queueTail hp hq, modQueue_eq_withQueue hx hk]
  · rw [exec_barClear, barCleared_engine hp, State.modEng, modPolder_eq_set hx]
  · rw [exec_barClear, State.barCleared, if_neg fun h => hn h.1]
  · rw [exec_portWrite hc, portWrite_link hn]
  · rw [portClear_clears (r := 0) (w := 3) hc rfl (by decide) (by decide)]
    exact congrArg _ (modCore_eq_withCore hk _)
  · rw [portClear_clears (r := 1) (w := 3) hc rfl (by decide) (by decide)]
    exact congrArg _ (modCore_eq_withCore hk _)
  · rw [portClear_clears (r := 1) (w := 3) hc rfl (by decide) (by decide)]
    exact congrArg _ (modCore_eq_withCore hk _)

end Sys2Proof.Scope
end

section
/-! Numbers and arithmetic (04_numbers_and_arithmetic.md): the words whose results are rounded, which write registers of their group
and move its generator on. -/
namespace Sys2Proof.Arithmetic
open Sys2Proof Sys2Proof.Machine Sys2Proof.Safety

/-! ## Vector registers written -/

/-- A write of one register from one number a lane is a run of one. -/
theorem setV_eq_setVN (g : Group) (d : Nat) (m : Lanes) (f : Nat → Nat) :
    g.setV d m (fun l => BitVec.ofNat 32 (f l)) = g.setVN d m f 1 := rfl

/-- Lane values written as they are, in terms of their numbers. -/
theorem setV_eq_setVN_toNat (g : Group) (d : Nat) (m : Lanes) (f : Nat → Word) :
    g.setV d m f = g.setVN d m (fun l => (f l).toNat) 1 := by
  simp only [← setV_eq_setVN, BitVec.ofNat_toNat, BitVec.setWidth_eq]

/-- Two registers written one after the other are a run of two. -/
theorem setV_setV_eq_setVN (g : Group) (d : Nat) (m : Lanes) (lo hi : Nat → Nat) :
    (g.setV d m (fun l => BitVec.ofNat 32 (lo l))).setV (d + 1) m (fun l => BitVec.ofNat 32 (hi l)) =
      g.setVN d m (fun l => lo l % 2 ^ 32 + 2 ^ 32 * hi l) 2 := by
  have hlo : ∀ l, BitVec.ofNat 32 (lo l % 2 ^ 32 + 2 ^ 32 * hi l) = BitVec.ofNat 32 (lo l) := fun l =>
    BitVec.eq_of_toNat_eq (by simp only [BitVec.toNat_ofNat]; omega)
  have hhi : ∀ l, (lo l % 2 ^ 32 + 2 ^ 32 * hi l) / 2 ^ 32 = hi l := fun l => by omega
  simp only [Group.setVN, hlo, hhi]

/-- A run of registers written changes lines alone, with what is held of their writing (05 R149). -/
theorem regsOf_setVN (g : Group) (d : Nat) (m : Lanes) (f : Nat → Nat) (k : Nat) :
    regsOf (g.setVN d m f k) = { regsOf g with
      lines := (g.setVN d m f k).lines, dirty := (g.setVN d m f k).dirty, latch := (g.setVN d m f k).latch,
      lineErrs := (g.setVN d m f k).lineErrs } := by
  induction k generalizing g d f with
  | zero => rfl
  | succ k ih => rw [Group.setVN, ih]; rfl

/-- The same with the generator moved on (04 R130). -/
theorem regsOf_setVN_drawn (g : Group) (d : Nat) (m : Lanes) (f : Nat → Nat) (k : Nat) (st : Word) :
    regsOf ((g.setVN d m f k).modCtl (fun x => { x with lfsr := st })) = { regsOf g with
      lines := (g.setVN d m f k).lines, dirty := (g.setVN d m f k).dirty, latch := (g.setVN d m f k).latch,
      lineErrs := (g.setVN d m f k).lineErrs, ctl := { ctlRest g.ctl with lfsr := st } } := by
  calc regsOf ((g.setVN d m f k).modCtl (fun x => { x with lfsr := st }))
      = { regsOf (g.setVN d m f k) with ctl := { ctlRest (g.setVN d m f k).ctl with lfsr := st } } := rfl
    _ = _ := by rw [regsOf_setVN, Group.setVN_ctl]

/-- Every line after a run of registers is written, those below the window base included. -/
theorem lane_setVN (g : Group) (d : Nat) (m : Lanes) (f : Nat → Nat) (k j : Nat) {l : Nat} (hl : l < 32) :
    lane (g.setVN d m f k) j l =
      if g.ctl.base + d ≤ j ∧ j < g.ctl.base + d + k ∧ j < g.lines.length ∧ m.getLsbD l = true
      then BitVec.ofNat 32 (f l / 2 ^ (32 * (j - (g.ctl.base + d)))) else lane g j l := by
  induction k generalizing g d f with
  | zero => rw [if_neg (by omega)]; rfl
  | succ k ih =>
    have first : lane (g.setV d m (fun l => BitVec.ofNat 32 (f l))) j l =
        if g.ctl.base + d = j ∧ j < g.lines.length ∧ m.getLsbD l = true then BitVec.ofNat 32 (f l) else lane g j l :=
      g.line_setLine _ _ _ _ hl
    rw [Group.setVN, ih, first, Group.setV_ctl, Group.setV_length]
    by_cases hw : j < g.lines.length ∧ m.getLsbD l = true
    case neg => rw [if_neg (fun h => hw h.2.2), if_neg (fun h => hw h.2), if_neg (fun h => hw h.2.2)]
    obtain ⟨hj, hm⟩ := hw
    simp only [hj, hm, and_true]
    rcases Nat.lt_trichotomy j (g.ctl.base + d) with h | h | h
    · rw [if_neg (by omega), if_neg (by omega), if_neg (by omega)]
    · subst h
      rw [if_neg (by omega), if_pos rfl, if_pos (by omega)]
      simp
    · have shift : f l / 2 ^ 32 / 2 ^ (32 * (j - (g.ctl.base + (d + 1)))) = f l / 2 ^ (32 * (j - (g.ctl.base + d))) := by
        rw [Nat.div_div_eq_div_mul, ← Nat.pow_add]
        congr 2
        omega
      rw [shift, if_neg (show ¬ g.ctl.base + d = j by omega)]
      by_cases hk : j < g.ctl.base + d + (k + 1)
      · rw [if_pos (by omega), if_pos (by omega)]
      · rw [if_neg (by omega), if_neg (by omega)]

/-- A run of registers written, of any group that has its lines. -/
theorem linesWritten_of_lines {g g' : Group} {d k : Nat} {m : Lanes} {f : Nat → Nat} (h : g'.lines = (g.setVN d m f k).lines) :
    LinesWritten g g' d k m (fun n l => BitVec.ofNat 32 (f l / 2 ^ (32 * n))) := by
  refine ⟨by rw [h, Group.setVN_length], fun j l hl => ?_⟩
  rw [lane, Group.line, h]
  exact lane_setVN g d m f k j hl

/-- What a word writes that leaves its group with the registers of one in which a run of registers and the generator are written. -/
theorem writesDrawn_of_regs {g g' : Group} {d k : Nat} {m : Lanes} {f : Nat → Nat} {st : Word}
    (h : regsOf g' = regsOf ((g.setVN d m f k).modCtl (fun x => { x with lfsr := st }))) :
    WritesDrawn g g' d k m (fun n l => BitVec.ofNat 32 (f l / 2 ^ (32 * n))) st := by
  rw [regsOf_setVN_drawn] at h
  refine ⟨linesWritten_of_lines (congrArg Group.lines h :), ?_⟩
  show regsOf g' = { regsOf g with
    lines := (regsOf g').lines, dirty := (regsOf g').dirty, latch := (regsOf g').latch, lineErrs := (regsOf g').lineErrs,
    ctl := { ctlRest g.ctl with lfsr := st } }
  rw [h]

/-! ## Words that draw as they round (04 R130) -/

/-- A word completes whose effect on its group is `g`, in which a run of registers is written, with the generator moved on. -/
theorem drawn_completes {s : State} {c : Cx} {i : Instr} {effect : Cx → Group → Group} {g : Group} {d k : Nat} {m : Lanes}
    {f : Nat → Nat} {st : Word} (h : Issues s c i) (hexec : exec i s = aluWord i s effect)
    (hwrite : g = c.grp.setVN d m f k) (heffect : effect c c.grp = g.modCtl (fun x => { x with lfsr := st })) :
    ∃ t g', exec i s = .next t ∧ Moved s c t g' (onward c) ∧
      WritesDrawn c.grp g' d k m (fun n l => BitVec.ofNat 32 (f l / 2 ^ (32 * n))) st := by
  have hslices : (effect c c.grp).slices = c.grp.slices := by
    rw [heffect, hwrite]
    exact c.grp.setVN_slices d m f k
  obtain ⟨t, g', hnext, hgroup, helse, hadv, hregs⟩ := aluWord_spec h effect hslices
  exact ⟨t, g', hexec.trans hnext, ⟨hgroup, helse, hadv⟩, writesDrawn_of_regs (by rw [hregs, heffect, hwrite])⟩

/-- Settles O5: each word's effect is a run of its registers and the generator after its draws; QBLK writes its code and its scale word as
two registers, LGENC, RED and SCAN write one. -/
theorem drawWordsWriteTheirRegisters : Obligations.DrawWordsWriteTheirRegisters := by
  unfold Obligations.DrawWordsWriteTheirRegisters
  intro s c i d k p f lfsr hw h
  cases hw with
  | cvt _ a t rs _ r hr => subst hr; exact drawn_completes h rfl rfl rfl
  | qblk _ a t l _ r hr => subst hr; exact drawn_completes h rfl (setV_setV_eq_setVN ..) rfl
  | dqblk _ a t l _ r hr => subst hr; exact drawn_completes h rfl rfl rfl
  | lgenc _ a _ r hr => subst hr; exact drawn_completes h rfl (setV_eq_setVN ..) rfl
  | red _ a o _ r hr => subst hr; exact drawn_completes h rfl (setV_eq_setVN_toNat ..) rfl
  | scan _ a o _ r hr => subst hr; exact drawn_completes h rfl (setV_eq_setVN_toNat ..) rfl

/-! ## CVTS (04 R139 to R142) -/

/-- s(n) written, of any group that has its scalars. -/
theorem scalarWritten_of_scalars {g g' : Group} {n : Nat} {x : DWord} (h : g'.scalars = (g.setS n x).scalars) :
    ScalarWritten g g' n x := by
  refine ⟨by rw [h]; exact List.length_set, fun k => ?_⟩
  rw [Group.s, h]
  refine (g.s_setS n k x).trans ?_
  by_cases e : n = k
  · subst e; rfl
  · rw [if_neg (fun w => e w.1), if_neg (fun w => e w.1.symm)]

/-- A word completes whose effect is s(n) and the generator written. -/
theorem drawnScalar_completes {s : State} {c : Cx} {i : Instr} {effect : Cx → Group → Group} {n : Nat} {x : DWord} {st : Word}
    (h : Issues s c i) (hexec : exec i s = aluWord i s effect)
    (heffect : effect c c.grp = (c.grp.setS n x).modCtl (fun k => { k with lfsr := st })) :
    ∃ u g', exec i s = .next u ∧ Moved s c u g' (onward c) ∧ ScalarWritten c.grp g' n x ∧
      regsOf g' = { regsOf c.grp with scalars := g'.scalars, ctl := { ctlRest c.grp.ctl with lfsr := st } } := by
  obtain ⟨u, g', hnext, hgroup, helse, hadv, hregs⟩ := aluWord_spec h effect (by rw [heffect]; rfl)
  rw [heffect] at hregs
  have hscalars : g'.scalars = (c.grp.setS n x).scalars := (congrArg Group.scalars hregs :)
  refine ⟨u, g', hexec.trans hnext, ⟨hgroup, helse, hadv⟩, scalarWritten_of_scalars hscalars, ?_⟩
  rw [hregs, hscalars]
  rfl

/-- Settles O7: CVTS writes the code of its element and the generator after its draw. -/
theorem scalarConversion : Obligations.ScalarConversion := by
  unfold Obligations.ScalarConversion
  intro s c d a t rs h
  obtain ⟨u, g', hnext, hmoved, hscalar, hregs⟩ := drawnScalar_completes (n := d.toNat) h rfl rfl
  exact ⟨u, g', hnext, hmoved, _, rfl, hscalar, hregs⟩

end Sys2Proof.Arithmetic
end
